-- ==== Sys2Proof/Word.lean ====
section
/-! DEFINITION. The word types of the device (R6, R7) and the plainest arithmetic on them. -/

namespace Sys2Proof

/-- A byte, the unit of memory (R7). -/
abbrev Byte := BitVec 8

/-- A lane register word, and an instruction word (R23, R89). -/
abbrev Word := BitVec 32

/-- A scalar register (R23). -/
abbrev DWord := BitVec 64

/-- One bit for each lane position of a team, bit l for lane l (R18, R19). -/
abbrev LaneMask := BitVec 1024

/-- A plane descriptor, and a format slot (R29, R69). -/
abbrev QWord := BitVec 128

/-- A sparse store of words under Nat keys: keys strictly rising, no zero word listed; a key that is
not listed reads as zero. Registers of many lanes, tiles, tables and memory are held so. -/
abbrev Sparse (w : Nat) := List (Nat × BitVec w)

/-- What a key that is not listed reads as: zero. -/
abbrev Sparse.absent (w : Nat) : BitVec w := 0

end Sys2Proof
end

