-- ==== Sys2Proof/Syntax.lean ====
section
/-! DEFINITION. The instructions: one constructor for each row of the opcode table. The first 217 rows with an
encoding are the Kamnas 1.3 instructions of R93; a row with no encoding is a step of another agent of the
device (spec/95_what_each_step_holds.md), and its operands name the agent and what the step leaves to
choice. Fields keep the widths of R90; codes with a fixed set of meanings are inductive types. -/

namespace Sys2Proof

/-- The element type codes 0 to 12 (R53). -/
inductive ElemType where
  | int32 | uint32 | int16 | uint16 | int8 | uint8 | fp32 | bf16 | fp16 | e4m3 | e5m2 | bx8 | bx4
  deriving DecidableEq, Repr

/-- Access size Z (R91). -/
inductive Size where
  | b8 | b16 | b32 | b64
  deriving DecidableEq, Repr

/-- Strength W (R91). -/
inductive Strength where
  | weak | strong
  deriving DecidableEq, Repr

/-- Order O (R91). -/
inductive Order where
  | rlx | acq | rel | ar
  deriving DecidableEq, Repr

/-- Axis AX (R91, R85). -/
inductive Axis where
  | e | w | s | n
  deriving DecidableEq, Repr

/-- Memory layout LAY (R86); codes 6 and 7 are reserved and have no constructor. -/
inductive Layout where
  | row | col | xor1 | xor2 | xor3 | xor4
  deriving DecidableEq, Repr

/-- Test of BRP (R129); values 4 to 7 are reserved and have no constructor. -/
inductive Test where
  | any | all | none | notall
  deriving DecidableEq, Repr

/-- Selector of V.LANEID (R96). -/
inductive LaneSel where
  | linear | column | group | virtualLinear
  deriving DecidableEq, Repr

/-- Operation of V.RED and V.SCAN (R96). -/
inductive RedOp where
  | add | min | max | and | or | xor
  deriving DecidableEq, Repr

/-- Rounding override of a conversion (R96). -/
inductive RoundOverride where
  | mode | rne | rtz | sr
  deriving DecidableEq, Repr

/-- Target of a conversion: a type code, or a format slot (R96). -/
inductive ConvTarget where
  | type (t : ElemType)
  | slot (n : BitVec 3)
  deriving DecidableEq, Repr

/-- Half of a register that V.UNPK widens (R166). -/
inductive Half where
  | lo | hi
  deriving DecidableEq, Repr

/-- The two engine queues of a team: Q5 (MX) and Q6 (TBL) (R211). -/
inductive EngineQueue where
  | q5 | q6
  deriving DecidableEq, Repr

/-- The units of a core that power themselves down (R356). -/
inductive CoreUnit where
  | lanes | special | movement | matrix | copy
  deriving DecidableEq, Repr

/-- The operations of an atomic (R125, R190). -/
inductive AtomOp where
  | add | and | or | xor | min | max | minu | maxu | swap | cas | addf | addbf | ld | st
  deriving DecidableEq, Repr

/-- The operations at the home of a barrier object (R199, R200, R202); `read` is the strong read of a
waiter (R349). -/
inductive BarOp where
  | init (n : DWord)
  | arrive
  | expect (n : DWord)
  | read
  | credit (bytes : Nat)
  deriving DecidableEq, Repr

/-- What a request on a port asks of its target (R344, R348). Write bytes are pairs of an offset in
the request's aligned 256-byte block and a byte. -/
inductive RemoteKind where
  | read (len : Nat)
  | write (bytes : List (Nat × Byte))
  | atomic (op : AtomOp) (wide : Bool) (x y : DWord)
  | barrier (op : BarOp)
  deriving DecidableEq, Repr

/-- A request that arrives from pod member `src` (R347); `pa` is a device PA of this device. -/
structure RemoteReq where
  src  : BitVec 10
  id   : Nat
  pa   : Nat
  kind : RemoteKind
  deriving DecidableEq, Repr

/-- The answer to a remote request (R347, R348); `poisoned` where the bytes that it reads are (R275). -/
inductive RemoteAnswer where
  | data (bytes : List Byte)
  | done
  | overflow (detail : BitVec 2)
  | error
  | poisoned
  deriving DecidableEq, Repr

/-- What the scheduler allocates for a team where the manual leaves the choice to it (R269, R316, R326): parking area,
team-table slot, offset of the scratch region in its vault. -/
structure Area where
  parking : Nat
  slot    : Nat
  offset  : Nat
  deriving DecidableEq, Repr

/-- A host access over CXL.mem, addressed by device PA (R372); atomics are 64 bits wide (R310). -/
inductive HostAccess where
  | read (pa len : Nat)
  | write (pa : Nat) (bytes : List Byte)
  | atomic (op : AtomOp) (pa : Nat) (x y : DWord)
  deriving DecidableEq, Repr

/-- A coherence request of the host over CXL.cache for a host line that the L2 holds (R331): for a shared copy, or for
the line to be written, with the bytes that the host then writes, by their offsets in the line. -/
inductive SnoopKind where
  | share
  | invalidate (bytes : List (Nat × Byte))
  deriving DecidableEq, Repr

/-- Where a residue or parity checker finds a mismatch (R273): in an instruction of a team, or in an
operation of one of its queues Q0 to Q6. -/
inductive CheckerSite where
  | instruction (team : Nat) (u : BitVec 4)
  | queue (team : Nat) (q : BitVec 3) (u : BitVec 4)
  deriving DecidableEq, Repr

/-- The storage in which an ECC error shows (R275). -/
inductive EccPlace where
  | corrected
  | cleanCopy (core pa : Nat)
  | home (pa : Nat)
  | table (team k : Nat)
  | teamState (team : Nat)
  | teamTable (cluster : Nat)
  deriving DecidableEq, Repr

/-- A register of the physical function's BAR0, or of the guest page of virtual function `vi`, by byte
offset (R376, R378), or 8 bytes of the staging window of BAR2 (R381). -/
inductive RegPlace where
  | pf (offset : Nat)
  | guest (vi : Nat) (offset : Nat)
  | staging (offset : Nat)
  deriving DecidableEq, Repr

/-- A request to the loader (R285): the context's ASID, the image, the base asked for (none asks for
PBASE), the page-table words the runtime writes so that the loaded range is mapped (R287), and the
addresses the runtime gives the resolver stub and the next export cells (R302, R303). -/
structure LoadReq where
  asid   : BitVec 12
  image  : List Byte
  base   : Option Nat
  tables : List (Nat × DWord)
  stub   : Nat
  cells  : Nat
  deriving DecidableEq, Repr

/-- One constructor for each row of spec/opcode_table.json. -/
inductive Instr where
  /-- NOP (R137). Does nothing. -/
  | nop
  /-- TRAP (R137). Raises precise trap 0x0E with TPC = PC + 4 and the code in TINFO[6:0]. -/
  | trap (d : BitVec 7)
  /-- ERET (R264). In trap mode returns to TPC, or completes a region or kernel-entry restart; otherwise has no effect. -/
  | eret
  /-- SYSR (R138). Reads system register B into S[D]. -/
  | sysr (d b : BitVec 7)
  /-- SYSW (R138). Writes S[A] to system register B, keeping read-only bits; a write to SEED reseeds the lanes. -/
  | sysw (a b : BitVec 7)
  /-- YIELD (R137). Withholds the team from issue for up to 16 front cycles. -/
  | yield
  /-- PERF (R142). Sets the team's performance request level from S[A][1:0]. -/
  | perf (a : BitVec 7)
  /-- REGION (R43). Makes the next instruction the region entry, retakes the snapshot, empties the log and clears the bypass; acts as a NOP when split or in trap mode. -/
  | region
  /-- VERS (R140). Sets S[D] to the architecture version 0x0103. -/
  | vers (d : BitVec 7)
  /-- CYCLES (R140). Sets S[D] to the lane cycles of the current cluster since reset. -/
  | cycles (d : BitVec 7)
  /-- ICINV (R143). Waits for earlier stores, then invalidates the range in every instruction cache and loop buffer of the package. -/
  | icinv (a b : BitVec 7)
  /-- PGREQ (R144). Requests residency for the page of S[A] on access path 6. -/
  | pgreq (a : BitVec 7)
  /-- LAUNCH (R145). Appends the 256-byte launch record at S[A] to a hardware queue of the team's interface. -/
  | launch (a b : BitVec 7)
  /-- EXIT (R141). Closes open windows and ends the issuing fragment. -/
  | exit
  /-- BKPT (R137). Raises the precise breakpoint trap 0x0D. -/
  | bkpt
  /-- MODE.SET (R139). Merges S[A] into MODE under mask S[B] and closes every open window. -/
  | modeSet (a b : BitVec 7)
  /-- MODE.GET (R139). Copies MODE into S[D]. -/
  | modeGet (d : BitVec 7)
  /-- S.ADD (R116). S[D] gets S[A] + S[B] mod 2^64. -/
  | sAdd (d a b : BitVec 7)
  /-- S.SUB (R116). S[D] gets S[A] - S[B] mod 2^64. -/
  | sSub (d a b : BitVec 7)
  /-- S.MUL (R116). S[D] gets the low 64 bits of the product. -/
  | sMul (d a b : BitVec 7)
  /-- S.MULH (R116). S[D] gets the high 64 bits of the signed product. -/
  | sMulh (d a b : BitVec 7)
  /-- S.MULHU (R116). S[D] gets the high 64 bits of the unsigned product. -/
  | sMulhu (d a b : BitVec 7)
  /-- S.DIV (R117). Signed division truncating toward zero, with fixed results for zero divisor and overflow. -/
  | sDiv (d a b : BitVec 7)
  /-- S.DIVU (R117). Unsigned division, all ones for a zero divisor. -/
  | sDivu (d a b : BitVec 7)
  /-- S.REM (R117). Signed remainder with the sign of the dividend. -/
  | sRem (d a b : BitVec 7)
  /-- S.REMU (R117). Unsigned remainder. -/
  | sRemu (d a b : BitVec 7)
  /-- S.AND (R116). Bitwise AND of two S registers. -/
  | sAnd (d a b : BitVec 7)
  /-- S.OR (R116). Bitwise OR of two S registers. -/
  | sOr (d a b : BitVec 7)
  /-- S.XOR (R116). Bitwise XOR of two S registers. -/
  | sXor (d a b : BitVec 7)
  /-- S.SHL (R116). Logical left shift by S[B] mod 64. -/
  | sShl (d a b : BitVec 7)
  /-- S.SHR (R116). Logical right shift by S[B] mod 64. -/
  | sShr (d a b : BitVec 7)
  /-- S.SAR (R116). Arithmetic right shift by S[B] mod 64. -/
  | sSar (d a b : BitVec 7)
  /-- S.MIN (R116). Signed minimum. -/
  | sMin (d a b : BitVec 7)
  /-- S.MAX (R116). Signed maximum. -/
  | sMax (d a b : BitVec 7)
  /-- S.MINU (R116). Unsigned minimum. -/
  | sMinu (d a b : BitVec 7)
  /-- S.MAXU (R116). Unsigned maximum. -/
  | sMaxu (d a b : BitVec 7)
  /-- S.SLT (R116). Sets 1 when S[A] is less than S[B], signed. -/
  | sSlt (d a b : BitVec 7)
  /-- S.SLTU (R116). Sets 1 when S[A] is less than S[B], unsigned. -/
  | sSltu (d a b : BitVec 7)
  /-- S.SEQ (R116). Sets 1 when S[A] equals S[B]. -/
  | sSeq (d a b : BitVec 7)
  /-- S.CLZ (R116). Counts leading zero bits of S[A]. -/
  | sClz (d a : BitVec 7)
  /-- S.POPC (R116). Counts one bits of S[A]. -/
  | sPopc (d a : BitVec 7)
  /-- S.ADDI (R118). Adds the sign-extended 12-bit immediate. -/
  | sAddi (d a : BitVec 7) (imm : BitVec 12)
  /-- S.ANDI (R118). ANDs the sign-extended immediate. -/
  | sAndi (d a : BitVec 7) (imm : BitVec 12)
  /-- S.ORI (R118). ORs the sign-extended immediate. -/
  | sOri (d a : BitVec 7) (imm : BitVec 12)
  /-- S.XORI (R118). XORs the sign-extended immediate. -/
  | sXori (d a : BitVec 7) (imm : BitVec 12)
  /-- S.SHLI (R118). Logical left shift by an immediate of 0 to 63. -/
  | sShli (d a : BitVec 7) (imm : BitVec 12)
  /-- S.SHRI (R118). Logical right shift by an immediate of 0 to 63. -/
  | sShri (d a : BitVec 7) (imm : BitVec 12)
  /-- S.SARI (R118). Arithmetic right shift by an immediate of 0 to 63. -/
  | sSari (d a : BitVec 7) (imm : BitVec 12)
  /-- S.SLTI (R118). Signed compare of S[A] with the immediate. -/
  | sSlti (d a : BitVec 7) (imm : BitVec 12)
  /-- S.LUI (R119). Loads the sign-extended 20-bit immediate times 4,096. -/
  | sLui (d : BitVec 6) (imm : BitVec 20)
  /-- S.AUPC (R119). Adds the scaled 20-bit immediate to the PC. -/
  | sAupc (d : BitVec 6) (imm : BitVec 20)
  /-- S.LD (R121). Loads 1 to 8 bytes, sign-extended, into S[D] with a lookahead window. -/
  | sLd (d a : BitVec 6) (la : BitVec 4) (w : Strength) (size : Size) (imm : BitVec 7)
  /-- S.LDU (R121). Loads 1 to 4 bytes, zero-extended, into S[D] with a lookahead window. -/
  | sLdu (d a : BitVec 6) (la : BitVec 4) (w : Strength) (size : Size) (imm : BitVec 7)
  /-- S.ST (R121). Stores 1 to 8 bytes of S[D], weak or strong. -/
  | sSt (d a : BitVec 6) (w : Strength) (size : Size) (imm : BitVec 7)
  /-- S.ATOM.ADD (R125). Indivisible 64-bit add at the home, returning the old value. -/
  | sAtomAdd (d : BitVec 7) (a : BitVec 6) (b : BitVec 7) (order : Order)
  /-- S.ATOM.AND (R125). Indivisible 64-bit AND, returning the old value. -/
  | sAtomAnd (d : BitVec 7) (a : BitVec 6) (b : BitVec 7) (order : Order)
  /-- S.ATOM.OR (R125). Indivisible 64-bit OR, returning the old value. -/
  | sAtomOr (d : BitVec 7) (a : BitVec 6) (b : BitVec 7) (order : Order)
  /-- S.ATOM.XOR (R125). Indivisible 64-bit XOR, returning the old value. -/
  | sAtomXor (d : BitVec 7) (a : BitVec 6) (b : BitVec 7) (order : Order)
  /-- S.ATOM.MIN (R125). Indivisible signed 64-bit minimum. -/
  | sAtomMin (d : BitVec 7) (a : BitVec 6) (b : BitVec 7) (order : Order)
  /-- S.ATOM.MAX (R125). Indivisible signed 64-bit maximum. -/
  | sAtomMax (d : BitVec 7) (a : BitVec 6) (b : BitVec 7) (order : Order)
  /-- S.ATOM.MINU (R125). Indivisible unsigned 64-bit minimum. -/
  | sAtomMinu (d : BitVec 7) (a : BitVec 6) (b : BitVec 7) (order : Order)
  /-- S.ATOM.MAXU (R125). Indivisible unsigned 64-bit maximum. -/
  | sAtomMaxu (d : BitVec 7) (a : BitVec 6) (b : BitVec 7) (order : Order)
  /-- S.ATOM.SWAP (R125). Indivisible 64-bit swap. -/
  | sAtomSwap (d : BitVec 7) (a : BitVec 6) (b : BitVec 7) (order : Order)
  /-- S.ATOM.CAS (R125). Indivisible 64-bit compare-and-swap using S[D] and S[D+1]. -/
  | sAtomCas (d : BitVec 7) (a : BitVec 6) (order : Order)
  /-- S.ATOM.LD (R125). Strong 64-bit atomic load, relaxed or acquire. -/
  | sAtomLd (d : BitVec 7) (a : BitVec 6) (order : Order)
  /-- S.ATOM.ST (R125). Strong 64-bit atomic store, relaxed or release. -/
  | sAtomSt (a : BitVec 6) (b : BitVec 7) (order : Order)
  /-- BR (R127). Moves the fragment's PC by a 26-bit word offset. -/
  | br (off : BitVec 26)
  /-- CALL (R127). Pushes the return address on the link stack and branches. -/
  | call (off : BitVec 26)
  /-- BRZ (R128). Branches when S[C] is zero. -/
  | brz (c : BitVec 7) (off : BitVec 19)
  /-- BRNZ (R128). Branches when S[C] is nonzero. -/
  | brnz (c : BitVec 7) (off : BitVec 19)
  /-- BRP (R129). Branches the whole fragment on an ANY, ALL, NONE or NOTALL test of a predicate. -/
  | brp (p : BitVec 4) (test : Test) (off : BitVec 19)
  /-- BRD (R131). Divergent branch that may split the fragment into two at the next level. -/
  | brd (p : BitVec 4) (off : BitVec 19)
  /-- RECV (R130). Sets the pending fuse address. -/
  | recv (off : BitVec 19)
  /-- LOOP (R132). Pushes a loop-stack entry that repeats the following body S[C] times. -/
  | loop (c : BitVec 7) (off : BitVec 19)
  /-- CALLR (R135). Pushes the return address and jumps to S[A]. -/
  | callr (a : BitVec 7)
  /-- JMPR (R135). Jumps to S[A]. -/
  | jmpr (a : BitVec 7)
  /-- RET (R135). Pops the link stack, refilling from LSP if needed, and jumps there. -/
  | ret
  /-- PPUSH (R136). Pushes top AND P[A] onto the fragment's predicate stack. -/
  | ppush (a : BitVec 7)
  /-- PINV (R136). Inverts the predicate-stack top within its parent. -/
  | pinv
  /-- PPOP (R136). Pops the fragment's predicate stack. -/
  | ppop
  /-- PSTK.GET (R136). Reads the fragment's predicate-stack depth into S[D]. -/
  | pstkGet (d : BitVec 7)
  /-- V.ADD (R152). Element-wise add in every guarded lane. -/
  | vAdd (d a b : BitVec 7)
  /-- V.SUB (R152). Element-wise subtract. -/
  | vSub (d a b : BitVec 7)
  /-- V.MUL (R152). Element-wise multiply. -/
  | vMul (d a b : BitVec 7)
  /-- V.MULH (R152). Element-wise high half of an integer product. -/
  | vMulh (d a b : BitVec 7)
  /-- V.FMA (R152). Element-wise a×b+d with one rounding. -/
  | vFma (d a b : BitVec 7)
  /-- V.FMS (R152). Element-wise a×b−d with one rounding. -/
  | vFms (d a b : BitVec 7)
  /-- V.FNMA (R152). Element-wise d−a×b with one rounding. -/
  | vFnma (d a b : BitVec 7)
  /-- V.MIN (R152). Element-wise minimum. -/
  | vMin (d a b : BitVec 7)
  /-- V.MAX (R152). Element-wise maximum. -/
  | vMax (d a b : BitVec 7)
  /-- V.ABS (R152). Element-wise absolute value. -/
  | vAbs (d a : BitVec 7)
  /-- V.NEG (R152). Element-wise negation. -/
  | vNeg (d a : BitVec 7)
  /-- V.DOT2 (R153). Adds two BF16 products to an FP32 accumulator with one rounding. -/
  | vDot2 (d a b : BitVec 7)
  /-- V.MOV (R152). Copies all 32 bits of V[A]. -/
  | vMov (d a : BitVec 7)
  /-- V.AND (R154). Bitwise AND of lane registers. -/
  | vAnd (d a b : BitVec 7)
  /-- V.OR (R154). Bitwise OR of lane registers. -/
  | vOr (d a b : BitVec 7)
  /-- V.XOR (R154). Bitwise XOR of lane registers. -/
  | vXor (d a b : BitVec 7)
  /-- V.NOT (R154). Bitwise NOT of a lane register. -/
  | vNot (d a : BitVec 7)
  /-- V.SHL (R154). Element-wise left shift. -/
  | vShl (d a b : BitVec 7)
  /-- V.SHR (R154). Element-wise logical right shift. -/
  | vShr (d a b : BitVec 7)
  /-- V.SAR (R154). Element-wise arithmetic right shift. -/
  | vSar (d a b : BitVec 7)
  /-- V.ROTL (R154). Element-wise rotate left. -/
  | vRotl (d a b : BitVec 7)
  /-- V.SEL (R154). Selects V[A] or V[B] by P[MODE.SP]. -/
  | vSel (d a b : BitVec 7)
  /-- V.CLZ (R154). Element-wise count of leading zeros. -/
  | vClz (d a : BitVec 7)
  /-- V.POPC (R154). Element-wise count of one bits. -/
  | vPopc (d a : BitVec 7)
  /-- V.CMP.EQ (R156). Sets P[D] where every element of the lane is equal. -/
  | vCmpEq (d a b : BitVec 7)
  /-- V.CMP.NE (R156). Sets P[D] where every element differs. -/
  | vCmpNe (d a b : BitVec 7)
  /-- V.CMP.LT (R156). Less-than comparison into a predicate. -/
  | vCmpLt (d a b : BitVec 7)
  /-- V.CMP.LE (R156). Less-or-equal comparison into a predicate. -/
  | vCmpLe (d a b : BitVec 7)
  /-- V.CMP.GT (R156). Greater-than comparison into a predicate. -/
  | vCmpGt (d a b : BitVec 7)
  /-- V.CMP.GE (R156). Greater-or-equal comparison into a predicate. -/
  | vCmpGe (d a b : BitVec 7)
  /-- V.CMP.LTU (R156). Unsigned less-than comparison. -/
  | vCmpLtu (d a b : BitVec 7)
  /-- V.CMP.LEU (R156). Unsigned less-or-equal comparison. -/
  | vCmpLeu (d a b : BitVec 7)
  /-- V.CMP.GTU (R156). Unsigned greater-than comparison. -/
  | vCmpGtu (d a b : BitVec 7)
  /-- V.CMP.GEU (R156). Unsigned greater-or-equal comparison. -/
  | vCmpGeu (d a b : BitVec 7)
  /-- V.CMP.UN (R156). Tests whether either float operand is NaN. -/
  | vCmpUn (d a b : BitVec 7)
  /-- V.CMP.ORD (R156). Tests whether neither float operand is NaN. -/
  | vCmpOrd (d a b : BitVec 7)
  /-- V.RCP (R159). Correctly rounded reciprocal. -/
  | vRcp (d a : BitVec 7)
  /-- V.RSQ (R159). Faithfully rounded reciprocal square root. -/
  | vRsq (d a : BitVec 7)
  /-- V.SQRT (R159). Correctly rounded square root. -/
  | vSqrt (d a : BitVec 7)
  /-- V.EXP2 (R159). Faithfully rounded power of two. -/
  | vExp2 (d a : BitVec 7)
  /-- V.LOG2 (R159). Faithfully rounded base-2 logarithm. -/
  | vLog2 (d a : BitVec 7)
  /-- V.RRED (R161). Reduces an FP32 argument by pi/2 into r and quadrant q. -/
  | vRred (d a : BitVec 7)
  /-- V.SINR (R162). Sine of a reduced argument and quadrant. -/
  | vSinr (d a : BitVec 7)
  /-- V.COSR (R162). Cosine of a reduced argument and quadrant. -/
  | vCosr (d a : BitVec 7)
  /-- V.CVT (R163). Converts the elements of V[A] to a target type or slot format. -/
  | vCvt (d a : BitVec 7) (rnd : RoundOverride) (target : ConvTarget)
  /-- V.PACK (R165). Narrows several registers into one packed register. -/
  | vPack (d a : BitVec 7) (rnd : RoundOverride) (target : ConvTarget)
  /-- V.UNPK (R166). Widens the elements of one half of V[A] exactly. -/
  | vUnpk (d a : BitVec 7) (half : Half)
  /-- V.PERM.XOR (R167). Permutes lanes within each group by XOR with k. -/
  | vPermXor (d a b : BitVec 7)
  /-- V.PERM.ROT (R167). Rotates lanes within each group by k. -/
  | vPermRot (d a b : BitVec 7)
  /-- V.PERM.BC (R167). Broadcasts column k within each group. -/
  | vPermBc (d a b : BitVec 7)
  /-- V.PERM.IDX (R167). Gathers within each group by per-lane index. -/
  | vPermIdx (d a b : BitVec 7)
  /-- V.BCAST (R169). Writes S[A][31:0] into every guarded lane. -/
  | vBcast (d a : BitVec 7)
  /-- V.LANEID (R169). Writes a lane index chosen by sel. -/
  | vLaneid (d : BitVec 7) (sel : LaneSel)
  /-- V.RED (R170). Reduces V[A] over the tree into S[D]. -/
  | vRed (d a : BitVec 7) (op : RedOp)
  /-- V.SCAN (R170). Writes the inclusive tree scan of V[A]. -/
  | vScan (d a : BitVec 7) (op : RedOp)
  /-- V.VTOS (R169). Copies the lowest guarded lane of V[A] into S[D]. -/
  | vVtos (d a : BitVec 7)
  /-- V.BALLOT (R169). Gathers a predicate of one group into a 32-bit word. -/
  | vBallot (d a b : BitVec 7)
  /-- V.ADDI (R157). Adds a sign-extended immediate to every integer element. -/
  | vAddi (d a : BitVec 7) (imm : BitVec 12)
  /-- V.MOVI (R158). Writes a sign-extended 19-bit immediate. -/
  | vMovi (d : BitVec 7) (imm : BitVec 19)
  /-- PRED.AND (R171). Predicate AND. -/
  | predAnd (d a b : BitVec 7)
  /-- PRED.OR (R171). Predicate OR. -/
  | predOr (d a b : BitVec 7)
  /-- PRED.XOR (R171). Predicate XOR. -/
  | predXor (d a b : BitVec 7)
  /-- PRED.ANDN (R171). Predicate AND NOT. -/
  | predAndn (d a b : BitVec 7)
  /-- PRED.NOT (R171). Predicate NOT. -/
  | predNot (d a : BitVec 7)
  /-- PRED.MOV (R171). Predicate copy. -/
  | predMov (d a : BitVec 7)
  /-- PRED.SET (R171). Sets a predicate in every guarded lane. -/
  | predSet (d : BitVec 7)
  /-- PRED.CLR (R171). Clears a predicate in every guarded lane. -/
  | predClr (d : BitVec 7)
  /-- PRED.ANY (R171). S[D] gets 1 when some guarded lane has the predicate set. -/
  | predAny (d a : BitVec 7)
  /-- PRED.ALL (R171). S[D] gets 1 when every guarded lane has the predicate set. -/
  | predAll (d a : BitVec 7)
  /-- PRED.COUNT (R171). Counts guarded lanes with the predicate set. -/
  | predCount (d a : BitVec 7)
  /-- PRED.FROMS (R171). Sets a predicate from bit l mod 64 of S[A]. -/
  | predFroms (d a : BitVec 7)
  /-- V.LD (R188). Weak per-lane load, sign-extended, with a lookahead window. -/
  | vLd (d : BitVec 7) (a : BitVec 6) (b : BitVec 7) (la : BitVec 4) (size : Size)
  /-- V.LDU (R188). Weak per-lane load, zero-extended. -/
  | vLdu (d : BitVec 7) (a : BitVec 6) (b : BitVec 7) (la : BitVec 4) (size : Size)
  /-- V.ST (R188). Weak per-lane store. -/
  | vSt (d : BitVec 7) (a : BitVec 6) (b : BitVec 7) (size : Size)
  /-- V.LDX (R188). Strong per-lane load, logged as an effect. -/
  | vLdx (d : BitVec 7) (a : BitVec 6) (b : BitVec 7) (la : BitVec 4) (size : Size)
  /-- V.STX (R188). Strong per-lane store, logged as an effect. -/
  | vStx (d : BitVec 7) (a : BitVec 6) (b : BitVec 7) (size : Size)
  /-- V.ATOM.ADD (R190). Per-lane indivisible 32-bit add. -/
  | vAtomAdd (d : BitVec 7) (a : BitVec 6) (b : BitVec 7) (order : Order)
  /-- V.ATOM.AND (R190). Per-lane indivisible 32-bit AND. -/
  | vAtomAnd (d : BitVec 7) (a : BitVec 6) (b : BitVec 7) (order : Order)
  /-- V.ATOM.OR (R190). Per-lane indivisible 32-bit OR. -/
  | vAtomOr (d : BitVec 7) (a : BitVec 6) (b : BitVec 7) (order : Order)
  /-- V.ATOM.XOR (R190). Per-lane indivisible 32-bit XOR. -/
  | vAtomXor (d : BitVec 7) (a : BitVec 6) (b : BitVec 7) (order : Order)
  /-- V.ATOM.MIN (R190). Per-lane indivisible signed minimum. -/
  | vAtomMin (d : BitVec 7) (a : BitVec 6) (b : BitVec 7) (order : Order)
  /-- V.ATOM.MAX (R190). Per-lane indivisible signed maximum. -/
  | vAtomMax (d : BitVec 7) (a : BitVec 6) (b : BitVec 7) (order : Order)
  /-- V.ATOM.MINU (R190). Per-lane indivisible unsigned minimum. -/
  | vAtomMinu (d : BitVec 7) (a : BitVec 6) (b : BitVec 7) (order : Order)
  /-- V.ATOM.MAXU (R190). Per-lane indivisible unsigned maximum. -/
  | vAtomMaxu (d : BitVec 7) (a : BitVec 6) (b : BitVec 7) (order : Order)
  /-- V.ATOM.SWAP (R190). Per-lane indivisible swap. -/
  | vAtomSwap (d : BitVec 7) (a : BitVec 6) (b : BitVec 7) (order : Order)
  /-- V.ATOM.CAS (R190). Per-lane indivisible compare-and-swap. -/
  | vAtomCas (d : BitVec 7) (a : BitVec 6) (b : BitVec 7) (order : Order)
  /-- V.ATOM.ADDF (R190). Per-lane indivisible FP32 add, RNE. -/
  | vAtomAddf (d : BitVec 7) (a : BitVec 6) (b : BitVec 7) (order : Order)
  /-- V.ATOM.ADDBF (R190). Per-lane indivisible paired BF16 add, RNE. -/
  | vAtomAddbf (d : BitVec 7) (a : BitVec 6) (b : BitVec 7) (order : Order)
  /-- V.ATOM.LD (R190). Per-lane atomic load. -/
  | vAtomLd (d : BitVec 7) (a : BitVec 6) (b : BitVec 7) (order : Order)
  /-- V.ATOM.ST (R190). Per-lane atomic store, not stalling. -/
  | vAtomSt (d : BitVec 7) (a : BitVec 6) (b : BitVec 7) (order : Order)
  /-- P.LD (R192). Loads a whole plane from memory by a layout into its sheets. -/
  | pLd (g : BitVec 3) (a b : BitVec 6) (lay : Layout) (la : BitVec 4) (w : Strength)
  /-- P.ST (R192). Stores every element of a plane by a layout, never a phantom. -/
  | pSt (g : BitVec 3) (a b : BitVec 6) (lay : Layout) (w : Strength)
  /-- P.SHIFT (R175). Shifts a plane along an axis by a distance, reading edges by policy. -/
  | pShift (gd gs : BitVec 3) (axis : Axis) (b : BitVec 6) (imm : BitVec 8)
  /-- P.ROT (R175). Rotates a plane along an axis with wrap. -/
  | pRot (gd gs : BitVec 3) (axis : Axis) (b : BitVec 6) (imm : BitVec 8)
  /-- P.SPREAD (R175). Spreads one row or column across the plane. -/
  | pSpread (gd gs : BitVec 3) (axis : Axis) (b : BitVec 6) (imm : BitVec 8)
  /-- P.FOLD.ADD (R176). Folds a plane in half along an axis by addition. -/
  | pFoldAdd (gd gs : BitVec 3) (axis : Axis)
  /-- P.FOLD.MAX (R176). Folds a plane in half by maximum. -/
  | pFoldMax (gd gs : BitVec 3) (axis : Axis)
  /-- P.FOLD.MIN (R176). Folds a plane in half by minimum. -/
  | pFoldMin (gd gs : BitVec 3) (axis : Axis)
  /-- P.FOLD.STACK (R177). Folds a plane in half by moving the far half into a new outer index. -/
  | pFoldStack (gd gs : BitVec 3) (axis : Axis)
  /-- P.REFOLD (R178). Copies a plane into a different grid and folding. -/
  | pRefold (gd gs : BitVec 3)
  /-- P.GSET (R179). Writes a plane descriptor from S[B] and S[B+1]. -/
  | pGset (gd : BitVec 3) (b : BitVec 6)
  /-- P.GGET (R179). Reads a plane descriptor into S[B] and S[B+1]. -/
  | pGget (gs : BitVec 3) (b : BitVec 6)
  /-- L.WR (R180). Writes guarded lanes into loupe rows offset by S[B]. -/
  | lWr (a b : BitVec 7)
  /-- L.RDT (R180). Reads the loupe transposed. -/
  | lRdt (d : BitVec 7)
  /-- L.RD (R180). Reads the loupe by rows. -/
  | lRd (d : BitVec 7)
  /-- L.CLR (R180). Clears every loupe word. -/
  | lClr
  /-- FENCE (R195). Closes windows, then acts as a release and an acquire. -/
  | fence
  /-- FENCE.ACQ (R195). Waits for earlier loads, then acts as an acquire. -/
  | fenceAcq
  /-- FENCE.REL (R195). Release: waits until earlier stores have registered. -/
  | fenceRel
  /-- BAR.INIT (R200). Initialises a barrier object with an expected count. -/
  | barInit (a b : BitVec 7)
  /-- BAR.ARRIVE (R200). Release arrival at a barrier, returning the phase and checking completion. -/
  | barArrive (d a : BitVec 7)
  /-- BAR.EXPECT (R200). Adds expected pending bytes to a barrier, consuming credit first. -/
  | barExpect (a b : BitVec 7)
  /-- BAR.WAIT (R200). Withholds the team until the barrier phase differs from S[B][0]. -/
  | barWait (a b : BitVec 7)
  /-- WAIT (R196). Stalls until an access path's in-flight counter is at or below S[A]. -/
  | wait (path : BitVec 3) (a : BitVec 7)
  /-- QFENCE (R197). Orders later operations of the named queues after earlier ones and marks them for the next release. -/
  | qfence (a : BitVec 7)
  /-- WALKSYNC (R203). Waits until earlier stores are registered and dropped by every walker. -/
  | walksync
  /-- SC.WB (R204). Writes dirty mapped scratch words back to their global addresses. -/
  | scWb (a b : BitVec 7)
  /-- SC.DROP (R204). Marks mapped scratch words clean and unfilled without writing. -/
  | scDrop (a b : BitVec 7)
  /-- CPY (R205). Reads an 80-byte copy descriptor and queues the copy on a copy queue. -/
  | cpy (a b : BitVec 7)
  /-- CHAIN (R209). Reads a 64-byte chain descriptor and queues the chain on Q4. -/
  | chain (a : BitVec 7)
  /-- MX.MMA (R222). Queues a 64x64 dense matrix product into a C tile. -/
  | mxMma (t sl : BitVec 3) (a b : BitVec 6) (acc gang ta tb : Bool)
  /-- MX.KMMA (R238). Queues a table-lookup product of BX4 weights into half a C tile. -/
  | mxKmma (t sl : BitVec 3) (a b : BitVec 6) (acc gang hi : Bool)
  /-- MX.ZERO (R228). Queues the zeroing of a C tile. -/
  | mxZero (t : BitVec 3)
  /-- MX.ACCRD (R228). Queues the store of a C tile to memory. -/
  | mxAccrd (t : BitVec 3) (a b : BitVec 6)
  /-- MX.ACCWR (R228). Queues the load of a C tile from memory. -/
  | mxAccwr (t : BitVec 3) (a b : BitVec 6)
  /-- MX.FENCE (R229). Returns the open batch number, closes it and opens the next. -/
  | mxFence (a : BitVec 6)
  /-- MX.WAIT (R229). Stalls until batches up to S[A] are complete. -/
  | mxWait (a : BitVec 6)
  /-- MX.SAVE (R231). Queues the save of the engine state and tiles to an area. -/
  | mxSave (a : BitVec 6)
  /-- MX.RESUME (R231). Reads a save header and queues the restore and continuation of engine state. -/
  | mxResume (a : BitVec 6)
  /-- MX.STREAM.OPEN (R219). Opens an operand stream for the place from a stream descriptor. -/
  | mxStreamOpen (a b : BitVec 6)
  /-- MX.SUB (R220). Subscribes the team to a stream with a window count. -/
  | mxSub (a b : BitVec 6)
  /-- MX.SETGANG (R224). Sets the GANG register. -/
  | mxSetgang (a : BitVec 6)
  /-- TBL.KBUILD (R235). Queues the build of lookup tables from scratch activations into a K register. -/
  | tblKbuild (t sl : BitVec 3) (a : BitVec 6)
  /-- TBL.KINV (R239). Queues emptying a table register. -/
  | tblKinv (t : BitVec 3)
  /-- TBL.KDETACH (R239). Queues detaching a table from its watch. -/
  | tblKdetach (t : BitVec 3)
  /-- TBL.KTEST (R239). Reports a table register's state, rows and k-groups into S[A]. -/
  | tblKtest (t : BitVec 3) (a : BitVec 6)
  /-- RESERVED_ENCODING (R99). Issue of a reserved encoding or reserved use: illegal-encoding trap, or a probe NOP setting probe-hit. -/
  | reservedEncoding (w : Word)
  /-- WINDOW_CLOSE (R50). A lookahead window reaches its count and the load's destination is written. -/
  | windowClose (team : Nat)
  /-- TRANSIENT_EXPIRE (R26). A transient V127 result ages past three issued instructions and reads as zero thereafter. -/
  | transientExpire (team : Nat)
  /-- RESULT_READY (R52). A multi-cycle result becomes ready and releases interlocked instructions. -/
  | resultReady (team : Nat) (n : Nat)
  /-- LOAD_RETURN (R185). A load's value returns and its in-flight counter falls in issue order. -/
  | loadReturn (team : Nat) (op : Nat)
  /-- STORE_REGISTER (R244). A store registers ownership at its home or is acknowledged, and its counter falls. -/
  | storeRegister (team : Nat) (op : Nat) (word : Nat)
  /-- TRAP_ENTRY (R259). A pending or raised fault is taken: windows close, TCAUSE, TPC and TINFO are set and the vector is entered. -/
  | trapEntry (team : Nat) (frag : Nat)
  /-- ISSUE_SELECT (R321). Each front cycle each core selects at most one fragment to issue. -/
  | issueSelect (cluster : Nat)
  /-- TEAM_BOOST (R321). A team's wait count reaches 4,096 and it becomes boosted. -/
  | teamBoost (team : Nat)
  /-- YIELD_EXPIRE (R137). A YIELD's 16 front cycles run out and the team is eligible again. -/
  | yieldExpire (team : Nat)
  /-- UNIT_POWER_DOWN (R356). A unit powers down after 64 idle lane cycles. -/
  | unitPowerDown (cluster core : Nat) (u : CoreUnit)
  /-- UNIT_WAKE (R356). A powered-down unit becomes awake 12 lane cycles after work is sent to it. -/
  | unitWake (cluster core : Nat) (u : CoreUnit)
  /-- CLOCK_LEVEL_CHANGE (R355). The cluster relocks to a new PERF level. -/
  | clockLevelChange (cluster : Nat)
  /-- SHUTTER_STEP (R361). At a 4-front-cycle boundary the shutter performs stops, grants starts and charges filler. -/
  | shutterStep (cluster : Nat)
  /-- ENGINE_READY (R369). An engine operation becomes ready to start and its engine requests a start. -/
  | engineReady (team : Nat) (q : EngineQueue)
  /-- ENGINE_OP_START (R214). A queued engine operation starts after its predecessor and the table interlock. -/
  | engineOpStart (team : Nat) (q : EngineQueue)
  /-- TILE_FETCH (R217). The tile fetch unit reads and pins an operand line. -/
  | tileFetch (team : Nat) (q : EngineQueue) (va : DWord)
  /-- ENGINE_OP_COMPLETE (R213). An engine operation completes and ORs its flags into TFLAGS. -/
  | engineOpComplete (team : Nat) (q : EngineQueue)
  /-- COPY_OP_START (R207). A queued copy or chain starts after the earlier operations of its queue. -/
  | copyOpStart (team : Nat) (q : Nat)
  /-- COPY_COMPLETE (R207). Every written byte of a copy has registered and path 4 falls. -/
  | copyComplete (team : Nat) (q : Nat)
  /-- COPY_CREDIT (R202). A copy's credit subtracts its written bytes from a barrier and checks completion. -/
  | copyCredit (team : Nat) (q : Nat)
  /-- CHAIN_COMPLETE (R210). A chain completes, ORs its flags and lowers path 5. -/
  | chainComplete (team : Nat)
  /-- BAR_WAIT_COMPLETE (R201). The barrier phase turns and the waiting team's BAR.WAIT completes as an acquire. -/
  | barWaitComplete (team : Nat)
  /-- REMOTE_BARRIER_POLL (R349). A team waiting on a remote barrier reads it at its home at least every 2 microseconds. -/
  | remoteBarrierPoll (team : Nat)
  /-- WAIT_COMPLETE (R196). A path counter falls to the threshold and WAIT completes as an acquire. -/
  | waitComplete (team : Nat)
  /-- MX_WAIT_COMPLETE (R229). The awaited batches complete and MX.WAIT completes as an acquire. -/
  | mxWaitComplete (team : Nat)
  /-- FENCE_ACQ_COMPLETE (R195). Earlier loads have returned and FENCE.ACQ takes effect as an acquire. -/
  | fenceAcqComplete (team : Nat)
  /-- GANG_RENDEZVOUS (R225). Every listed member is latched and the gang operation issues together. -/
  | gangRendezvous (team : Nat)
  /-- STREAM_TILE_FETCH (R220). The distributor fetches a stream tile once and replays it to every subscriber. -/
  | streamTileFetch (cluster stream : Nat)
  /-- PAGE_WALK (R337). A TLB miss walks the context and page tables and any second stage. -/
  | pageWalk (core : Nat) (asid : BitVec 12) (va : DWord) (leaf : Option (BitVec 5))
  /-- SCRATCH_MAP_FILL (R329). The first access to an unfilled mapped scratch line fills it from its global words. -/
  | scratchMapFill (team : Nat) (offset : Nat)
  /-- PRQDONE_WRITE (R343). The runtime's completion write re-walks the page and completes or refuses its requests. -/
  | prqdoneWrite (vi : Nat) (seq : Word) (res : BitVec 2)
  /-- TLBI_RANGE (R342). Invalidation of a VA range of one ASID. -/
  | tlbiRange (vi : Nat) (asid : BitVec 12) (va len : DWord)
  /-- TLBI_ASID (R342). Invalidation of every translation of one ASID. -/
  | tlbiAsid (vi : Nat) (asid : BitVec 12)
  /-- TLBI_INTERFACE (R342). Invalidation of every ASID of the interface and its window table. -/
  | tlbiInterface (vi : Nat)
  /-- TLBI_COMPLETE (R342). Every TLB, walker and translated access has finished and BUSY clears. -/
  | tlbiComplete (vi : Nat)
  /-- RECORD_TAKE (R310). The scheduler takes and checks the next published launch record of a queue. -/
  | recordTake (q : Nat)
  /-- LAUNCH_DISTRIBUTE (R314). A launch's wait barriers open and its distribution begins. -/
  | launchDistribute (launch : Nat)
  /-- PLACE_ADMIT (R316). A place is admitted to a cluster with its siblings' entries, scratch, parking and log areas. -/
  | placeAdmit (launch : Nat) (areas : List Area)
  /-- TEAM_RESIDENT (R317). An admitted team becomes resident on a core with room. -/
  | teamResident (team : Nat)
  /-- CLUSTER_PREEMPT (R318). A waiting higher-priority team pre-empts lower-priority resident teams. -/
  | clusterPreempt (team : Nat)
  /-- TEAM_PARK (R267). A withheld team is parked and its state written to the parking area. -/
  | teamPark (team : Nat) (step : Nat)
  /-- DRAIN_EXPIRE (R267). The drain limit runs out and remaining resident teams are force-saved. -/
  | drainExpire (cluster : Nat)
  /-- FORCED_SAVE (R268). A team is saved at an issue boundary after its outstanding work drains. -/
  | forcedSave (team : Nat) (step : Nat)
  /-- TEAM_UNPARK (R270). A parked team is restored on a core and issues at its saved PC. -/
  | teamUnpark (team core : Nat)
  /-- TEAM_RETIRE (R141). An ended team retires once counters are zero, batches complete and stores registered. -/
  | teamRetire (team : Nat)
  /-- GRID_COMPLETE (R319). Every team of a grid has retired; entries are freed and CBAR receives an arrival. -/
  | gridComplete (launch : Nat)
  /-- PLACE_MIGRATE (R272). A place and its scratch move to another cluster of the same die. -/
  | placeMigrate (launch place cluster : Nat) (areas : List Area)
  /-- QUEUE_CFG_RELOAD (R322). The scheduler re-reads a changed queue CFG line. -/
  | queueCfgReload (q : Nat)
  /-- CHECKER_MISMATCH (R273). A residue or parity checker withholds a result and raises a pipeline error. -/
  | checkerMismatch (site : CheckerSite)
  /-- ECC_ERROR (R275). An ECC error is corrected, or poisons, stales or stops by the storage concerned. -/
  | eccError (place : EccPlace)
  /-- SCHEDULER_ILLEGAL_STATE (R276). A scheduler state machine detects an illegal state and stops issue on the cluster. -/
  | schedulerIllegalState (cluster : Nat)
  /-- SCHEDULER_REBUILD_DONE (R276). The scheduler state is rebuilt from the team tables and issue resumes. -/
  | schedulerRebuildDone (cluster : Nat)
  /-- PORT_LANE_FAIL (R344). A port lane fails: spare substitution, x2 retrain, or removal from service. -/
  | portLaneFail (port : Nat)
  /-- PORT_RETRAIN_DONE (R277). A port finishes its retrain and waiting requests proceed. -/
  | portRetrainDone (port : Nat)
  /-- REMOTE_REQUEST (R347). A remote request arrives at the target and is checked against its source windows. -/
  | remoteRequest (req : RemoteReq)
  /-- REMOTE_RESPONSE (R348). An answer to a remote request arrives at the initiator. -/
  | remoteResponse (id : Nat) (ans : RemoteAnswer)
  /-- REMOTE_TIMEOUT (R350). A remote request has no answer after 250 microseconds and is treated as sent to a dead target. -/
  | remoteTimeout (id : Nat)
  /-- MEMBER_WRITE (R346). The host driver writes a membership mask register. -/
  | memberWrite (n : BitVec 4) (mask : DWord)
  /-- MEMBER_CLEAR_APPLY (R351). A cleared member bit takes effect: requests drop, L1 copies discard, outstanding requests end as dead. -/
  | memberClearApply (dev : BitVec 10)
  /-- SHELF_FRAME (R363). A 64-bit shelf frame is received, checked and counted. -/
  | shelfFrame (frame : DWord)
  /-- FRAME_LOSS (R364). No valid frame for 500 microseconds sets P to LOSSP. -/
  | frameLoss
  /-- CAP_UPDATE (R358). The refill begins using a new cap within 100 microseconds of a frame. -/
  | capUpdate
  /-- SHED_FORCE_SAVE (R365). A shed-class team still resident 1.5 ms after shedding is force-saved. -/
  | shedForceSave (team : Nat) (step : Nat)
  /-- CLASS_RESTORE (R366). After 20 ms of frames at or above the restore level a shed class is restored. -/
  | classRestore (cls : BitVec 2)
  /-- HOST_CXL_MEM_ACCESS (R372). A host CXL.mem read, write or atomic reaches device HBM4 and registers at its home. -/
  | hostCxlMemAccess (acc : HostAccess)
  /-- HOST_CXL_CACHE_SNOOP (R331). The host's CXL.cache coherence request acts on host lines held in L2. -/
  | hostCxlCacheSnoop (line : Nat) (kind : SnoopKind)
  /-- POWER_ON (R381). The host powers the device and deasserts reset; the ROM trains the link and awaits an image. -/
  | powerOn
  /-- HOST_RESET_ASSERT (R4). The host asserts PERST# and holds the device in reset. -/
  | hostResetAssert
  /-- POWER_REMOVE (R388). Host power is removed and all device state is lost. -/
  | powerRemove
  /-- VF_FLR (R377). Function-level reset of a VF discards its teams, requests and translations. -/
  | vfFlr (vi : Nat)
  /-- VICTL_WRITE (R377). A write to VICTL enables an interface or, clearing EN, resets it. -/
  | victlWrite (vi : Nat) (val : DWord)
  /-- VIPERF_WRITE (R355). A write to an interface's cap level re-evaluates cluster levels. -/
  | viperfWrite (vi : Nat) (val : DWord)
  /-- REGISTER_WRITE (R357). A driver write to a register without a row of its own, ignored when out of range. -/
  | registerWrite (reg : RegPlace) (val : DWord)
  /-- MB_LOAD (R382). Mailbox LOAD verifies the firmware image and runs boot steps 3 to 5. -/
  | mbLoad
  /-- MB_EXTEND (R386). Mailbox EXTEND folds a digest into measurement Mi. -/
  | mbExtend
  /-- MB_QUOTE (R386). Mailbox QUOTE signs the nonce, measurements and identity with the identity key. -/
  | mbQuote
  /-- MB_IDKEY (R380). Mailbox IDKEY returns the identity public key and identity. -/
  | mbIdkey
  /-- MB_SHUTDOWN (R388). Mailbox SHUTDOWN discards teams, writes back host lines and reaches STAGE 6. -/
  | mbShutdown
  /-- OBJECT_LOAD (R285). The loader checks, places and relocates a code object, or rejects it with a status. -/
  | objectLoad (req : LoadReq)
  /-- OBJECT_UNLOAD (R294). An unload request takes effect once nothing refers to the object's text. -/
  | objectUnload (asid : BitVec 12) (handle : DWord)
  /-- TEXT_COMPACTION (R296). The loader moves an object's text by an offset under running teams. -/
  | textCompaction (handle : DWord) (base : Nat) (tables : List (Nat × DWord))
  /-- RETRANSLATION_SWAP (R296). The loader replaces an object's text with a translation under running teams. -/
  | retranslationSwap (handle : DWord) (req : LoadReq)
  /-- LOADER_SWEEP (R297). After earlier teams retire, the loader sweeps entries and cells again for old-text addresses. -/
  | loaderSweep (handle : DWord)
  /-- ICINV_COMPLETE (R143). Every instruction cache and loop buffer of the package has acknowledged the invalidation, and the stalled team continues. -/
  | icinvComplete (team : Nat)
  /-- WALKSYNC_COMPLETE (R203). Every page-table walker of the package has dropped its cached copies of the stored lines, and the stalled team continues. -/
  | walksyncComplete (team : Nat)
  /-- TEAM_DISCARD (R313). The runtime discards a stopped or parked team from its team table through its interface. -/
  | teamDiscard (team : Nat)
  deriving DecidableEq, Repr

end Sys2Proof
end

