-- ==== Sys2Proof/WellFormed.lean ====
section
/-! DEFINITION. Well-formedness of an instruction: the field values that R92, R95 and R97 reserve whatever
team issues it. Values that depend on the team (its register budget, its tiles and tables) are checked at
issue. -/

namespace Sys2Proof

/-- The check that fails. -/
inductive IllFormed where
  /-- An S register number of 64 or more (R92). -/
  | scalar
  /-- A P register number of 16 or more (R92). -/
  | predicate
  /-- A K register number of 4 or more (R92). -/
  | table
  /-- An implied pair of S registers at S63 (R92). -/
  | scalarPair
  /-- A shift immediate outside 0 to 63 (R95). -/
  | shiftImmediate
  /-- S.LDU or V.LDU of 64 bits (R97). -/
  | badSize
  /-- An order that the atomic load or store does not have (R97). -/
  | badOrder
  deriving DecidableEq, Repr

namespace IllFormed

def regS (n : BitVec 7) : Option IllFormed := if n.toNat < 64 then none else some scalar
def regP (n : BitVec 7) : Option IllFormed := if n.toNat < 16 then none else some predicate
def regK {w : Nat} (n : BitVec w) : Option IllFormed := if n.toNat < 4 then none else some table
def pair (n : BitVec 7) : Option IllFormed :=
  if n.toNat < 63 then none else if n.toNat = 63 then some scalarPair else some scalar
def pair6 (n : BitVec 6) : Option IllFormed := if n.toNat < 63 then none else some scalarPair
def shift (i : BitVec 12) : Option IllFormed := if i.toNat < 64 then none else some shiftImmediate
def narrow (z : Size) : Option IllFormed := if z = .b64 then some badSize else none
def loadOrder (o : Order) : Option IllFormed := if o = .rlx ∨ o = .acq then none else some badOrder
def storeOrder (o : Order) : Option IllFormed := if o = .rlx ∨ o = .rel then none else some badOrder

end IllFormed

open IllFormed in
/-- The first check that an instruction fails. An event has no fields of a word to check. -/
def Instr.illFormed : Instr → Option IllFormed
  | .sysr d _ | .vers d | .cycles d
  | .modeGet d | .pstkGet d | .vRed d _ _
  | .vVtos d _ =>
    regS d
  | .sysw a _ | .perf a | .pgreq a
  | .callr a | .jmpr a | .vBcast _ a
  | .wait _ a | .qfence a | .chain a =>
    regS a
  | .icinv a b | .launch a b | .modeSet a b
  | .barInit a b | .barExpect a b | .barWait a b
  | .scWb a b | .scDrop a b | .cpy a b =>
    regS a <|> regS b
  | .sAdd d a b | .sSub d a b | .sMul d a b
  | .sMulh d a b | .sMulhu d a b | .sDiv d a b
  | .sDivu d a b | .sRem d a b | .sRemu d a b
  | .sAnd d a b | .sOr d a b | .sXor d a b
  | .sShl d a b | .sShr d a b | .sSar d a b
  | .sMin d a b | .sMax d a b | .sMinu d a b
  | .sMaxu d a b | .sSlt d a b | .sSltu d a b
  | .sSeq d a b =>
    regS d <|> regS a <|> regS b
  | .sClz d a | .sPopc d a | .sAddi d a _
  | .sAndi d a _ | .sOri d a _ | .sXori d a _
  | .sSlti d a _ | .barArrive d a =>
    regS d <|> regS a
  | .sShli d a imm | .sShri d a imm | .sSari d a imm =>
    regS d <|> regS a <|> shift imm
  | .sLdu _ _ _ _ size _ | .vLdu _ _ _ _ size =>
    narrow size
  | .sAtomAdd d _ b _ | .sAtomAnd d _ b _ | .sAtomOr d _ b _
  | .sAtomXor d _ b _ | .sAtomMin d _ b _ | .sAtomMax d _ b _
  | .sAtomMinu d _ b _ | .sAtomMaxu d _ b _ | .sAtomSwap d _ b _ =>
    regS d <|> regS b
  | .sAtomCas d _ _ =>
    pair d
  | .sAtomLd d _ order =>
    regS d <|> loadOrder order
  | .sAtomSt _ b order =>
    regS b <|> storeOrder order
  | .brz c _ | .brnz c _ | .loop c _ =>
    regS c
  | .ppush a =>
    regP a
  | .vCmpEq d _ _ | .vCmpNe d _ _ | .vCmpLt d _ _
  | .vCmpLe d _ _ | .vCmpGt d _ _ | .vCmpGe d _ _
  | .vCmpLtu d _ _ | .vCmpLeu d _ _ | .vCmpGtu d _ _
  | .vCmpGeu d _ _ | .vCmpUn d _ _ | .vCmpOrd d _ _
  | .predSet d | .predClr d =>
    regP d
  | .vPermXor _ _ b | .vPermRot _ _ b | .vPermBc _ _ b
  | .lWr _ b =>
    regS b
  | .vBallot d a b =>
    regS d <|> regP a <|> regS b
  | .predAnd d a b | .predOr d a b | .predXor d a b
  | .predAndn d a b =>
    regP d <|> regP a <|> regP b
  | .predNot d a | .predMov d a =>
    regP d <|> regP a
  | .predAny d a | .predAll d a | .predCount d a =>
    regS d <|> regP a
  | .predFroms d a =>
    regP d <|> regS a
  | .vAtomLd _ _ _ order =>
    loadOrder order
  | .vAtomSt _ _ _ order =>
    storeOrder order
  | .pGset _ b | .pGget _ b =>
    pair6 b
  | .mxKmma _ _ a _ _ _ _ =>
    regK a
  | .tblKbuild t _ _ | .tblKinv t | .tblKdetach t
  | .tblKtest t _ =>
    regK t
  | .nop | .trap _ | .eret | .yield
  | .region | .exit | .bkpt | .sLui _ _
  | .sAupc _ _ | .sLd _ _ _ _ _ _ | .sSt _ _ _ _ _ | .br _
  | .call _ | .brp _ _ _ | .brd _ _ | .recv _
  | .ret | .pinv | .ppop | .vAdd _ _ _
  | .vSub _ _ _ | .vMul _ _ _ | .vMulh _ _ _ | .vFma _ _ _
  | .vFms _ _ _ | .vFnma _ _ _ | .vMin _ _ _ | .vMax _ _ _
  | .vAbs _ _ | .vNeg _ _ | .vDot2 _ _ _ | .vMov _ _
  | .vAnd _ _ _ | .vOr _ _ _ | .vXor _ _ _ | .vNot _ _
  | .vShl _ _ _ | .vShr _ _ _ | .vSar _ _ _ | .vRotl _ _ _
  | .vSel _ _ _ | .vClz _ _ | .vPopc _ _ | .vRcp _ _
  | .vRsq _ _ | .vSqrt _ _ | .vExp2 _ _ | .vLog2 _ _
  | .vRred _ _ | .vSinr _ _ | .vCosr _ _ | .vCvt _ _ _ _
  | .vPack _ _ _ _ | .vUnpk _ _ _ | .vPermIdx _ _ _ | .vLaneid _ _
  | .vScan _ _ _ | .vAddi _ _ _ | .vMovi _ _ | .vLd _ _ _ _ _
  | .vSt _ _ _ _ | .vLdx _ _ _ _ _ | .vStx _ _ _ _ | .vAtomAdd _ _ _ _
  | .vAtomAnd _ _ _ _ | .vAtomOr _ _ _ _ | .vAtomXor _ _ _ _ | .vAtomMin _ _ _ _
  | .vAtomMax _ _ _ _ | .vAtomMinu _ _ _ _ | .vAtomMaxu _ _ _ _ | .vAtomSwap _ _ _ _
  | .vAtomCas _ _ _ _ | .vAtomAddf _ _ _ _ | .vAtomAddbf _ _ _ _ | .pLd _ _ _ _ _ _
  | .pSt _ _ _ _ _ | .pShift _ _ _ _ _ | .pRot _ _ _ _ _ | .pSpread _ _ _ _ _
  | .pFoldAdd _ _ _ | .pFoldMax _ _ _ | .pFoldMin _ _ _ | .pFoldStack _ _ _
  | .pRefold _ _ | .lRdt _ | .lRd _ | .lClr
  | .fence | .fenceAcq | .fenceRel | .walksync
  | .mxMma _ _ _ _ _ _ _ _ | .mxZero _ | .mxAccrd _ _ _ | .mxAccwr _ _ _
  | .mxFence _ | .mxWait _ | .mxSave _ | .mxResume _
  | .mxStreamOpen _ _ | .mxSub _ _ | .mxSetgang _ | .reservedEncoding _
  | .windowClose _ | .transientExpire _ | .resultReady _ _ | .loadReturn _ _
  | .storeRegister _ _ _ | .trapEntry _ _ | .issueSelect _ | .teamBoost _
  | .yieldExpire _ | .unitPowerDown _ _ _ | .unitWake _ _ _ | .clockLevelChange _
  | .shutterStep _ | .engineReady _ _ | .engineOpStart _ _ | .tileFetch _ _ _
  | .engineOpComplete _ _ | .copyOpStart _ _ | .copyComplete _ _ | .copyCredit _ _
  | .chainComplete _ | .barWaitComplete _ | .remoteBarrierPoll _ | .waitComplete _
  | .mxWaitComplete _ | .fenceAcqComplete _ | .gangRendezvous _ | .streamTileFetch _ _
  | .pageWalk _ _ _ _ | .scratchMapFill _ _ | .prqdoneWrite _ _ _ | .tlbiRange _ _ _ _
  | .tlbiAsid _ _ | .tlbiInterface _ | .tlbiComplete _ | .recordTake _
  | .launchDistribute _ | .placeAdmit _ _ | .teamResident _ | .clusterPreempt _
  | .teamPark _ _ | .drainExpire _ | .forcedSave _ _ | .teamUnpark _ _
  | .teamRetire _ | .gridComplete _ | .placeMigrate _ _ _ _ | .queueCfgReload _
  | .checkerMismatch _ | .eccError _ | .schedulerIllegalState _ | .schedulerRebuildDone _
  | .portLaneFail _ | .portRetrainDone _ | .remoteRequest _ | .remoteResponse _ _
  | .remoteTimeout _ | .memberWrite _ _ | .memberClearApply _ | .shelfFrame _
  | .frameLoss | .capUpdate | .shedForceSave _ _ | .classRestore _
  | .hostCxlMemAccess _ | .hostCxlCacheSnoop _ _ | .powerOn | .hostResetAssert
  | .powerRemove | .vfFlr _ | .victlWrite _ _ | .viperfWrite _ _
  | .registerWrite _ _ | .mbLoad | .mbExtend | .mbQuote
  | .mbIdkey | .mbShutdown | .objectLoad _ | .objectUnload _ _
  | .textCompaction _ _ _ | .retranslationSwap _ _ | .loaderSweep _ | .icinvComplete _
  | .walksyncComplete _ | .teamDiscard _ => none

/-- An instruction that no check refuses. -/
def Instr.WellFormed (i : Instr) : Prop := i.illFormed = none

end Sys2Proof
end

