-- ==== Sys2Proof/Decode.lean ====
section
/-! DEFINITION. Decoding of the instruction word (R89 to R98), total and rejecting by name, and the encoder,
both from the opcode map of R93 and the fields of R90 to R96. -/

namespace Sys2Proof

/-- Why a word is a reserved encoding (R97). -/
inductive DecodeError where
  /-- OP is 0x3F: permanently reserved, so that probe mode does not apply (R89, R98). -/
  | permanentlyReserved
  /-- OP is 0x2F to 0x3E, or F is not listed for its major (R93). -/
  | unlisted
  /-- A field that is marked unused or zero is not zero (R94 to R96). -/
  | unusedField
  | reservedConversion | reservedSelector | reservedReduction | reservedLayout | reservedTest
  /-- A field holds a value that R92 or R95 reserves, or by items 4 and 5 of R97. -/
  | illFormed (e : IllFormed)
  deriving DecidableEq, Repr

/-! Subfields (R91, R96). -/

def Size.ofBits (b : BitVec 2) : Size :=
  match b.toNat with | 0 => .b8 | 1 => .b16 | 2 => .b32 | _ => .b64
def Size.bits : Size → BitVec 2
  | .b8 => 0 | .b16 => 1 | .b32 => 2 | .b64 => 3
def Strength.ofBits (b : BitVec 1) : Strength := if b = 0 then .weak else .strong
def Strength.bits : Strength → BitVec 1
  | .weak => 0 | .strong => 1
def Order.ofBits (b : BitVec 2) : Order :=
  match b.toNat with | 0 => .rlx | 1 => .acq | 2 => .rel | _ => .ar
def Order.bits : Order → BitVec 2
  | .rlx => 0 | .acq => 1 | .rel => 2 | .ar => 3
def Axis.ofBits (b : BitVec 2) : Axis :=
  match b.toNat with | 0 => .e | 1 => .w | 2 => .s | _ => .n
def Axis.bits : Axis → BitVec 2
  | .e => 0 | .w => 1 | .s => 2 | .n => 3
def Half.ofBits (b : BitVec 1) : Half := if b = 0 then .lo else .hi
def Half.bits : Half → BitVec 1
  | .lo => 0 | .hi => 1
def Layout.ofBits (b : BitVec 3) : Option Layout :=
  match b.toNat with
  | 0 => some .row | 1 => some .col | 2 => some .xor1 | 3 => some .xor2 | 4 => some .xor3 | 5 => some .xor4
  | _ => none
def Layout.bits : Layout → BitVec 3
  | .row => 0 | .col => 1 | .xor1 => 2 | .xor2 => 3 | .xor3 => 4 | .xor4 => 5
def Test.ofBits (b : BitVec 3) : Option Test :=
  match b.toNat with | 0 => some .any | 1 => some .all | 2 => some .none | 3 => some .notall | _ => Option.none
def Test.bits : Test → BitVec 3
  | .any => 0 | .all => 1 | .none => 2 | .notall => 3
def LaneSel.ofBits (b : BitVec 7) : Option LaneSel :=
  match b.toNat with
  | 0 => some .linear | 1 => some .column | 2 => some .group | 3 => some .virtualLinear | _ => none
def LaneSel.bits : LaneSel → BitVec 7
  | .linear => 0 | .column => 1 | .group => 2 | .virtualLinear => 3
def RedOp.ofBits (b : BitVec 7) : Option RedOp :=
  match b.toNat with
  | 0 => some .add | 1 => some .min | 2 => some .max | 3 => some .and | 4 => some .or | 5 => some .xor
  | _ => none
def RedOp.bits : RedOp → BitVec 7
  | .add => 0 | .min => 1 | .max => 2 | .and => 3 | .or => 4 | .xor => 5
def RoundOverride.ofBits (b : BitVec 2) : RoundOverride :=
  match b.toNat with | 0 => .mode | 1 => .rne | 2 => .rtz | _ => .sr
def RoundOverride.bits : RoundOverride → BitVec 2
  | .mode => 0 | .rne => 1 | .rtz => 2 | .sr => 3

/-- A type code; 13 to 15 are reserved (R53). -/
def ElemType.ofCode (b : BitVec 4) : Option ElemType :=
  match b.toNat with
  | 0 => some .int32 | 1 => some .uint32 | 2 => some .int16 | 3 => some .uint16 | 4 => some .int8
  | 5 => some .uint8 | 6 => some .fp32 | 7 => some .bf16 | 8 => some .fp16 | 9 => some .e4m3
  | 10 => some .e5m2 | 11 => some .bx8 | 12 => some .bx4 | _ => none
def ElemType.code : ElemType → BitVec 4
  | .int32 => 0 | .uint32 => 1 | .int16 => 2 | .uint16 => 3 | .int8 => 4 | .uint8 => 5 | .fp32 => 6
  | .bf16 => 7 | .fp16 => 8 | .e4m3 => 9 | .e5m2 => 10 | .bx8 => 11 | .bx4 => 12

/-- Bits [4:0] of the cc subfield (R96): slot mode, then a type code or a slot number. -/
def ConvTarget.ofBits (b : BitVec 5) : Option ConvTarget :=
  if b.getLsbD 4 then
    if b.getLsbD 3 then none else some (.slot (b.extractLsb' 0 3))
  else (ElemType.ofCode (b.extractLsb' 0 4)).map .type
def ConvTarget.bits : ConvTarget → BitVec 5
  | .type t => 0#1 ++ t.code
  | .slot n => 2#2 ++ n

/-- Continue only when the n bits from lo up are zero (item 2 of R97). -/
def needZero (w : Word) (lo n : Nat) (k : Except DecodeError Instr) : Except DecodeError Instr :=
  if w.extractLsb' lo n = 0 then k else .error .unusedField

/-! One function for each major opcode with an F field. -/

def decodeSystem (w : Word) : Except DecodeError Instr :=
  match (w.extractLsb' 0 5).toNat with
  | 0 => needZero w 5 21 <| .ok .nop
  | 1 => needZero w 5 14 <| .ok (.trap (w.extractLsb' 19 7))
  | 2 => needZero w 5 21 <| .ok .eret
  | 3 => needZero w 12 7 <| .ok (.sysr (w.extractLsb' 19 7) (w.extractLsb' 5 7))
  | 4 => needZero w 19 7 <| .ok (.sysw (w.extractLsb' 12 7) (w.extractLsb' 5 7))
  | 5 => needZero w 5 21 <| .ok .yield
  | 6 => needZero w 5 7 <| needZero w 19 7 <| .ok (.perf (w.extractLsb' 12 7))
  | 7 => needZero w 5 21 <| .ok .region
  | 8 => needZero w 5 14 <| .ok (.vers (w.extractLsb' 19 7))
  | 9 => needZero w 5 14 <| .ok (.cycles (w.extractLsb' 19 7))
  | 10 => needZero w 19 7 <| .ok (.icinv (w.extractLsb' 12 7) (w.extractLsb' 5 7))
  | 11 => needZero w 5 7 <| needZero w 19 7 <| .ok (.pgreq (w.extractLsb' 12 7))
  | 12 => needZero w 19 7 <| .ok (.launch (w.extractLsb' 12 7) (w.extractLsb' 5 7))
  | 13 => needZero w 5 21 <| .ok .exit
  | 14 => needZero w 5 21 <| .ok .bkpt
  | 15 => needZero w 19 7 <| .ok (.modeSet (w.extractLsb' 12 7) (w.extractLsb' 5 7))
  | 16 => needZero w 5 14 <| .ok (.modeGet (w.extractLsb' 19 7))
  | _ => .error .unlisted

def decodeScalar (w : Word) : Except DecodeError Instr :=
  match (w.extractLsb' 0 5).toNat with
  | 0 => .ok (.sAdd (w.extractLsb' 19 7) (w.extractLsb' 12 7) (w.extractLsb' 5 7))
  | 1 => .ok (.sSub (w.extractLsb' 19 7) (w.extractLsb' 12 7) (w.extractLsb' 5 7))
  | 2 => .ok (.sMul (w.extractLsb' 19 7) (w.extractLsb' 12 7) (w.extractLsb' 5 7))
  | 3 => .ok (.sMulh (w.extractLsb' 19 7) (w.extractLsb' 12 7) (w.extractLsb' 5 7))
  | 4 => .ok (.sMulhu (w.extractLsb' 19 7) (w.extractLsb' 12 7) (w.extractLsb' 5 7))
  | 5 => .ok (.sDiv (w.extractLsb' 19 7) (w.extractLsb' 12 7) (w.extractLsb' 5 7))
  | 6 => .ok (.sDivu (w.extractLsb' 19 7) (w.extractLsb' 12 7) (w.extractLsb' 5 7))
  | 7 => .ok (.sRem (w.extractLsb' 19 7) (w.extractLsb' 12 7) (w.extractLsb' 5 7))
  | 8 => .ok (.sRemu (w.extractLsb' 19 7) (w.extractLsb' 12 7) (w.extractLsb' 5 7))
  | 9 => .ok (.sAnd (w.extractLsb' 19 7) (w.extractLsb' 12 7) (w.extractLsb' 5 7))
  | 10 => .ok (.sOr (w.extractLsb' 19 7) (w.extractLsb' 12 7) (w.extractLsb' 5 7))
  | 11 => .ok (.sXor (w.extractLsb' 19 7) (w.extractLsb' 12 7) (w.extractLsb' 5 7))
  | 12 => .ok (.sShl (w.extractLsb' 19 7) (w.extractLsb' 12 7) (w.extractLsb' 5 7))
  | 13 => .ok (.sShr (w.extractLsb' 19 7) (w.extractLsb' 12 7) (w.extractLsb' 5 7))
  | 14 => .ok (.sSar (w.extractLsb' 19 7) (w.extractLsb' 12 7) (w.extractLsb' 5 7))
  | 15 => .ok (.sMin (w.extractLsb' 19 7) (w.extractLsb' 12 7) (w.extractLsb' 5 7))
  | 16 => .ok (.sMax (w.extractLsb' 19 7) (w.extractLsb' 12 7) (w.extractLsb' 5 7))
  | 17 => .ok (.sMinu (w.extractLsb' 19 7) (w.extractLsb' 12 7) (w.extractLsb' 5 7))
  | 18 => .ok (.sMaxu (w.extractLsb' 19 7) (w.extractLsb' 12 7) (w.extractLsb' 5 7))
  | 19 => .ok (.sSlt (w.extractLsb' 19 7) (w.extractLsb' 12 7) (w.extractLsb' 5 7))
  | 20 => .ok (.sSltu (w.extractLsb' 19 7) (w.extractLsb' 12 7) (w.extractLsb' 5 7))
  | 21 => .ok (.sSeq (w.extractLsb' 19 7) (w.extractLsb' 12 7) (w.extractLsb' 5 7))
  | 22 => needZero w 5 7 <| .ok (.sClz (w.extractLsb' 19 7) (w.extractLsb' 12 7))
  | 23 => needZero w 5 7 <| .ok (.sPopc (w.extractLsb' 19 7) (w.extractLsb' 12 7))
  | _ => .error .unlisted

def decodeScalarAtomic (w : Word) : Except DecodeError Instr :=
  match (w.extractLsb' 0 4).toNat with
  | 0 => .ok (.sAtomAdd (w.extractLsb' 19 7) (w.extractLsb' 13 6) (w.extractLsb' 6 7) (Order.ofBits (w.extractLsb' 4 2)))
  | 1 => .ok (.sAtomAnd (w.extractLsb' 19 7) (w.extractLsb' 13 6) (w.extractLsb' 6 7) (Order.ofBits (w.extractLsb' 4 2)))
  | 2 => .ok (.sAtomOr (w.extractLsb' 19 7) (w.extractLsb' 13 6) (w.extractLsb' 6 7) (Order.ofBits (w.extractLsb' 4 2)))
  | 3 => .ok (.sAtomXor (w.extractLsb' 19 7) (w.extractLsb' 13 6) (w.extractLsb' 6 7) (Order.ofBits (w.extractLsb' 4 2)))
  | 4 => .ok (.sAtomMin (w.extractLsb' 19 7) (w.extractLsb' 13 6) (w.extractLsb' 6 7) (Order.ofBits (w.extractLsb' 4 2)))
  | 5 => .ok (.sAtomMax (w.extractLsb' 19 7) (w.extractLsb' 13 6) (w.extractLsb' 6 7) (Order.ofBits (w.extractLsb' 4 2)))
  | 6 => .ok (.sAtomMinu (w.extractLsb' 19 7) (w.extractLsb' 13 6) (w.extractLsb' 6 7) (Order.ofBits (w.extractLsb' 4 2)))
  | 7 => .ok (.sAtomMaxu (w.extractLsb' 19 7) (w.extractLsb' 13 6) (w.extractLsb' 6 7) (Order.ofBits (w.extractLsb' 4 2)))
  | 8 => .ok (.sAtomSwap (w.extractLsb' 19 7) (w.extractLsb' 13 6) (w.extractLsb' 6 7) (Order.ofBits (w.extractLsb' 4 2)))
  | 9 => needZero w 6 7 <| .ok (.sAtomCas (w.extractLsb' 19 7) (w.extractLsb' 13 6) (Order.ofBits (w.extractLsb' 4 2)))
  | 12 => needZero w 6 7 <| .ok (.sAtomLd (w.extractLsb' 19 7) (w.extractLsb' 13 6) (Order.ofBits (w.extractLsb' 4 2)))
  | 13 => needZero w 19 7 <| .ok (.sAtomSt (w.extractLsb' 13 6) (w.extractLsb' 6 7) (Order.ofBits (w.extractLsb' 4 2)))
  | _ => .error .unlisted

def decodeControl (w : Word) : Except DecodeError Instr :=
  match (w.extractLsb' 0 5).toNat with
  | 0 => needZero w 5 7 <| needZero w 19 7 <| .ok (.callr (w.extractLsb' 12 7))
  | 1 => needZero w 5 7 <| needZero w 19 7 <| .ok (.jmpr (w.extractLsb' 12 7))
  | 2 => needZero w 5 21 <| .ok .ret
  | 3 => needZero w 5 7 <| needZero w 19 7 <| .ok (.ppush (w.extractLsb' 12 7))
  | 4 => needZero w 5 21 <| .ok .pinv
  | 5 => needZero w 5 21 <| .ok .ppop
  | 6 => needZero w 5 14 <| .ok (.pstkGet (w.extractLsb' 19 7))
  | _ => .error .unlisted

def decodeLaneArith (w : Word) : Except DecodeError Instr :=
  match (w.extractLsb' 0 5).toNat with
  | 0 => .ok (.vAdd (w.extractLsb' 19 7) (w.extractLsb' 12 7) (w.extractLsb' 5 7))
  | 1 => .ok (.vSub (w.extractLsb' 19 7) (w.extractLsb' 12 7) (w.extractLsb' 5 7))
  | 2 => .ok (.vMul (w.extractLsb' 19 7) (w.extractLsb' 12 7) (w.extractLsb' 5 7))
  | 3 => .ok (.vMulh (w.extractLsb' 19 7) (w.extractLsb' 12 7) (w.extractLsb' 5 7))
  | 4 => .ok (.vFma (w.extractLsb' 19 7) (w.extractLsb' 12 7) (w.extractLsb' 5 7))
  | 5 => .ok (.vFms (w.extractLsb' 19 7) (w.extractLsb' 12 7) (w.extractLsb' 5 7))
  | 6 => .ok (.vFnma (w.extractLsb' 19 7) (w.extractLsb' 12 7) (w.extractLsb' 5 7))
  | 7 => .ok (.vMin (w.extractLsb' 19 7) (w.extractLsb' 12 7) (w.extractLsb' 5 7))
  | 8 => .ok (.vMax (w.extractLsb' 19 7) (w.extractLsb' 12 7) (w.extractLsb' 5 7))
  | 9 => needZero w 5 7 <| .ok (.vAbs (w.extractLsb' 19 7) (w.extractLsb' 12 7))
  | 10 => needZero w 5 7 <| .ok (.vNeg (w.extractLsb' 19 7) (w.extractLsb' 12 7))
  | 11 => .ok (.vDot2 (w.extractLsb' 19 7) (w.extractLsb' 12 7) (w.extractLsb' 5 7))
  | 12 => needZero w 5 7 <| .ok (.vMov (w.extractLsb' 19 7) (w.extractLsb' 12 7))
  | _ => .error .unlisted

def decodeLaneBit (w : Word) : Except DecodeError Instr :=
  match (w.extractLsb' 0 5).toNat with
  | 0 => .ok (.vAnd (w.extractLsb' 19 7) (w.extractLsb' 12 7) (w.extractLsb' 5 7))
  | 1 => .ok (.vOr (w.extractLsb' 19 7) (w.extractLsb' 12 7) (w.extractLsb' 5 7))
  | 2 => .ok (.vXor (w.extractLsb' 19 7) (w.extractLsb' 12 7) (w.extractLsb' 5 7))
  | 3 => needZero w 5 7 <| .ok (.vNot (w.extractLsb' 19 7) (w.extractLsb' 12 7))
  | 4 => .ok (.vShl (w.extractLsb' 19 7) (w.extractLsb' 12 7) (w.extractLsb' 5 7))
  | 5 => .ok (.vShr (w.extractLsb' 19 7) (w.extractLsb' 12 7) (w.extractLsb' 5 7))
  | 6 => .ok (.vSar (w.extractLsb' 19 7) (w.extractLsb' 12 7) (w.extractLsb' 5 7))
  | 7 => .ok (.vRotl (w.extractLsb' 19 7) (w.extractLsb' 12 7) (w.extractLsb' 5 7))
  | 8 => .ok (.vSel (w.extractLsb' 19 7) (w.extractLsb' 12 7) (w.extractLsb' 5 7))
  | 9 => needZero w 5 7 <| .ok (.vClz (w.extractLsb' 19 7) (w.extractLsb' 12 7))
  | 10 => needZero w 5 7 <| .ok (.vPopc (w.extractLsb' 19 7) (w.extractLsb' 12 7))
  | _ => .error .unlisted

def decodeCompare (w : Word) : Except DecodeError Instr :=
  match (w.extractLsb' 0 5).toNat with
  | 0 => .ok (.vCmpEq (w.extractLsb' 19 7) (w.extractLsb' 12 7) (w.extractLsb' 5 7))
  | 1 => .ok (.vCmpNe (w.extractLsb' 19 7) (w.extractLsb' 12 7) (w.extractLsb' 5 7))
  | 2 => .ok (.vCmpLt (w.extractLsb' 19 7) (w.extractLsb' 12 7) (w.extractLsb' 5 7))
  | 3 => .ok (.vCmpLe (w.extractLsb' 19 7) (w.extractLsb' 12 7) (w.extractLsb' 5 7))
  | 4 => .ok (.vCmpGt (w.extractLsb' 19 7) (w.extractLsb' 12 7) (w.extractLsb' 5 7))
  | 5 => .ok (.vCmpGe (w.extractLsb' 19 7) (w.extractLsb' 12 7) (w.extractLsb' 5 7))
  | 6 => .ok (.vCmpLtu (w.extractLsb' 19 7) (w.extractLsb' 12 7) (w.extractLsb' 5 7))
  | 7 => .ok (.vCmpLeu (w.extractLsb' 19 7) (w.extractLsb' 12 7) (w.extractLsb' 5 7))
  | 8 => .ok (.vCmpGtu (w.extractLsb' 19 7) (w.extractLsb' 12 7) (w.extractLsb' 5 7))
  | 9 => .ok (.vCmpGeu (w.extractLsb' 19 7) (w.extractLsb' 12 7) (w.extractLsb' 5 7))
  | 10 => .ok (.vCmpUn (w.extractLsb' 19 7) (w.extractLsb' 12 7) (w.extractLsb' 5 7))
  | 11 => .ok (.vCmpOrd (w.extractLsb' 19 7) (w.extractLsb' 12 7) (w.extractLsb' 5 7))
  | _ => .error .unlisted

def decodeSpecial (w : Word) : Except DecodeError Instr :=
  match (w.extractLsb' 0 5).toNat with
  | 0 => needZero w 5 7 <| .ok (.vRcp (w.extractLsb' 19 7) (w.extractLsb' 12 7))
  | 1 => needZero w 5 7 <| .ok (.vRsq (w.extractLsb' 19 7) (w.extractLsb' 12 7))
  | 2 => needZero w 5 7 <| .ok (.vSqrt (w.extractLsb' 19 7) (w.extractLsb' 12 7))
  | 3 => needZero w 5 7 <| .ok (.vExp2 (w.extractLsb' 19 7) (w.extractLsb' 12 7))
  | 4 => needZero w 5 7 <| .ok (.vLog2 (w.extractLsb' 19 7) (w.extractLsb' 12 7))
  | 5 => needZero w 5 7 <| .ok (.vRred (w.extractLsb' 19 7) (w.extractLsb' 12 7))
  | 6 => needZero w 5 7 <| .ok (.vSinr (w.extractLsb' 19 7) (w.extractLsb' 12 7))
  | 7 => needZero w 5 7 <| .ok (.vCosr (w.extractLsb' 19 7) (w.extractLsb' 12 7))
  | 8 => (ConvTarget.ofBits (w.extractLsb' 5 5)).elim (.error .reservedConversion) fun cc => .ok (.vCvt (w.extractLsb' 19 7) (w.extractLsb' 12 7) (RoundOverride.ofBits (w.extractLsb' 10 2)) cc)
  | 9 => (ConvTarget.ofBits (w.extractLsb' 5 5)).elim (.error .reservedConversion) fun cc => .ok (.vPack (w.extractLsb' 19 7) (w.extractLsb' 12 7) (RoundOverride.ofBits (w.extractLsb' 10 2)) cc)
  | 10 => needZero w 6 6 <| .ok (.vUnpk (w.extractLsb' 19 7) (w.extractLsb' 12 7) (Half.ofBits (w.extractLsb' 5 1)))
  | _ => .error .unlisted

def decodeCrossLane (w : Word) : Except DecodeError Instr :=
  match (w.extractLsb' 0 5).toNat with
  | 0 => .ok (.vPermXor (w.extractLsb' 19 7) (w.extractLsb' 12 7) (w.extractLsb' 5 7))
  | 1 => .ok (.vPermRot (w.extractLsb' 19 7) (w.extractLsb' 12 7) (w.extractLsb' 5 7))
  | 2 => .ok (.vPermBc (w.extractLsb' 19 7) (w.extractLsb' 12 7) (w.extractLsb' 5 7))
  | 3 => .ok (.vPermIdx (w.extractLsb' 19 7) (w.extractLsb' 12 7) (w.extractLsb' 5 7))
  | 4 => needZero w 5 7 <| .ok (.vBcast (w.extractLsb' 19 7) (w.extractLsb' 12 7))
  | 5 => needZero w 5 7 <| (LaneSel.ofBits (w.extractLsb' 12 7)).elim (.error .reservedSelector) fun sel => .ok (.vLaneid (w.extractLsb' 19 7) sel)
  | 6 => (RedOp.ofBits (w.extractLsb' 5 7)).elim (.error .reservedReduction) fun op => .ok (.vRed (w.extractLsb' 19 7) (w.extractLsb' 12 7) op)
  | 7 => (RedOp.ofBits (w.extractLsb' 5 7)).elim (.error .reservedReduction) fun op => .ok (.vScan (w.extractLsb' 19 7) (w.extractLsb' 12 7) op)
  | 8 => needZero w 5 7 <| .ok (.vVtos (w.extractLsb' 19 7) (w.extractLsb' 12 7))
  | 9 => .ok (.vBallot (w.extractLsb' 19 7) (w.extractLsb' 12 7) (w.extractLsb' 5 7))
  | _ => .error .unlisted

def decodePredicate (w : Word) : Except DecodeError Instr :=
  match (w.extractLsb' 0 5).toNat with
  | 0 => .ok (.predAnd (w.extractLsb' 19 7) (w.extractLsb' 12 7) (w.extractLsb' 5 7))
  | 1 => .ok (.predOr (w.extractLsb' 19 7) (w.extractLsb' 12 7) (w.extractLsb' 5 7))
  | 2 => .ok (.predXor (w.extractLsb' 19 7) (w.extractLsb' 12 7) (w.extractLsb' 5 7))
  | 3 => .ok (.predAndn (w.extractLsb' 19 7) (w.extractLsb' 12 7) (w.extractLsb' 5 7))
  | 4 => needZero w 5 7 <| .ok (.predNot (w.extractLsb' 19 7) (w.extractLsb' 12 7))
  | 5 => needZero w 5 7 <| .ok (.predMov (w.extractLsb' 19 7) (w.extractLsb' 12 7))
  | 6 => needZero w 5 14 <| .ok (.predSet (w.extractLsb' 19 7))
  | 7 => needZero w 5 14 <| .ok (.predClr (w.extractLsb' 19 7))
  | 8 => needZero w 5 7 <| .ok (.predAny (w.extractLsb' 19 7) (w.extractLsb' 12 7))
  | 9 => needZero w 5 7 <| .ok (.predAll (w.extractLsb' 19 7) (w.extractLsb' 12 7))
  | 10 => needZero w 5 7 <| .ok (.predCount (w.extractLsb' 19 7) (w.extractLsb' 12 7))
  | 11 => needZero w 5 7 <| .ok (.predFroms (w.extractLsb' 19 7) (w.extractLsb' 12 7))
  | _ => .error .unlisted

def decodeLaneAtomic (w : Word) : Except DecodeError Instr :=
  match (w.extractLsb' 0 4).toNat with
  | 0 => .ok (.vAtomAdd (w.extractLsb' 19 7) (w.extractLsb' 13 6) (w.extractLsb' 6 7) (Order.ofBits (w.extractLsb' 4 2)))
  | 1 => .ok (.vAtomAnd (w.extractLsb' 19 7) (w.extractLsb' 13 6) (w.extractLsb' 6 7) (Order.ofBits (w.extractLsb' 4 2)))
  | 2 => .ok (.vAtomOr (w.extractLsb' 19 7) (w.extractLsb' 13 6) (w.extractLsb' 6 7) (Order.ofBits (w.extractLsb' 4 2)))
  | 3 => .ok (.vAtomXor (w.extractLsb' 19 7) (w.extractLsb' 13 6) (w.extractLsb' 6 7) (Order.ofBits (w.extractLsb' 4 2)))
  | 4 => .ok (.vAtomMin (w.extractLsb' 19 7) (w.extractLsb' 13 6) (w.extractLsb' 6 7) (Order.ofBits (w.extractLsb' 4 2)))
  | 5 => .ok (.vAtomMax (w.extractLsb' 19 7) (w.extractLsb' 13 6) (w.extractLsb' 6 7) (Order.ofBits (w.extractLsb' 4 2)))
  | 6 => .ok (.vAtomMinu (w.extractLsb' 19 7) (w.extractLsb' 13 6) (w.extractLsb' 6 7) (Order.ofBits (w.extractLsb' 4 2)))
  | 7 => .ok (.vAtomMaxu (w.extractLsb' 19 7) (w.extractLsb' 13 6) (w.extractLsb' 6 7) (Order.ofBits (w.extractLsb' 4 2)))
  | 8 => .ok (.vAtomSwap (w.extractLsb' 19 7) (w.extractLsb' 13 6) (w.extractLsb' 6 7) (Order.ofBits (w.extractLsb' 4 2)))
  | 9 => .ok (.vAtomCas (w.extractLsb' 19 7) (w.extractLsb' 13 6) (w.extractLsb' 6 7) (Order.ofBits (w.extractLsb' 4 2)))
  | 10 => .ok (.vAtomAddf (w.extractLsb' 19 7) (w.extractLsb' 13 6) (w.extractLsb' 6 7) (Order.ofBits (w.extractLsb' 4 2)))
  | 11 => .ok (.vAtomAddbf (w.extractLsb' 19 7) (w.extractLsb' 13 6) (w.extractLsb' 6 7) (Order.ofBits (w.extractLsb' 4 2)))
  | 12 => .ok (.vAtomLd (w.extractLsb' 19 7) (w.extractLsb' 13 6) (w.extractLsb' 6 7) (Order.ofBits (w.extractLsb' 4 2)))
  | 13 => .ok (.vAtomSt (w.extractLsb' 19 7) (w.extractLsb' 13 6) (w.extractLsb' 6 7) (Order.ofBits (w.extractLsb' 4 2)))
  | _ => .error .unlisted

def decodePlane (w : Word) : Except DecodeError Instr :=
  match (w.extractLsb' 8 4).toNat with
  | 0 => .ok (.pShift (w.extractLsb' 23 3) (w.extractLsb' 20 3) (Axis.ofBits (w.extractLsb' 18 2)) (w.extractLsb' 12 6) (w.extractLsb' 0 8))
  | 1 => .ok (.pRot (w.extractLsb' 23 3) (w.extractLsb' 20 3) (Axis.ofBits (w.extractLsb' 18 2)) (w.extractLsb' 12 6) (w.extractLsb' 0 8))
  | 2 => .ok (.pSpread (w.extractLsb' 23 3) (w.extractLsb' 20 3) (Axis.ofBits (w.extractLsb' 18 2)) (w.extractLsb' 12 6) (w.extractLsb' 0 8))
  | 3 => needZero w 0 8 <| needZero w 12 6 <| .ok (.pFoldAdd (w.extractLsb' 23 3) (w.extractLsb' 20 3) (Axis.ofBits (w.extractLsb' 18 2)))
  | 4 => needZero w 0 8 <| needZero w 12 6 <| .ok (.pFoldMax (w.extractLsb' 23 3) (w.extractLsb' 20 3) (Axis.ofBits (w.extractLsb' 18 2)))
  | 5 => needZero w 0 8 <| needZero w 12 6 <| .ok (.pFoldMin (w.extractLsb' 23 3) (w.extractLsb' 20 3) (Axis.ofBits (w.extractLsb' 18 2)))
  | 6 => needZero w 0 8 <| needZero w 12 6 <| .ok (.pFoldStack (w.extractLsb' 23 3) (w.extractLsb' 20 3) (Axis.ofBits (w.extractLsb' 18 2)))
  | 7 => needZero w 0 8 <| needZero w 12 8 <| .ok (.pRefold (w.extractLsb' 23 3) (w.extractLsb' 20 3))
  | 8 => needZero w 0 8 <| needZero w 18 5 <| .ok (.pGset (w.extractLsb' 23 3) (w.extractLsb' 12 6))
  | 9 => needZero w 0 8 <| needZero w 18 2 <| needZero w 23 3 <| .ok (.pGget (w.extractLsb' 20 3) (w.extractLsb' 12 6))
  | _ => .error .unlisted

def decodeLoupe (w : Word) : Except DecodeError Instr :=
  match (w.extractLsb' 0 5).toNat with
  | 0 => needZero w 19 7 <| .ok (.lWr (w.extractLsb' 12 7) (w.extractLsb' 5 7))
  | 1 => needZero w 5 14 <| .ok (.lRdt (w.extractLsb' 19 7))
  | 2 => needZero w 5 14 <| .ok (.lRd (w.extractLsb' 19 7))
  | 3 => needZero w 5 21 <| .ok .lClr
  | _ => .error .unlisted

def decodeSync (w : Word) : Except DecodeError Instr :=
  match (w.extractLsb' 0 5).toNat with
  | 0 => needZero w 5 21 <| .ok .fence
  | 1 => needZero w 5 21 <| .ok .fenceAcq
  | 2 => needZero w 5 21 <| .ok .fenceRel
  | 3 => needZero w 19 7 <| .ok (.barInit (w.extractLsb' 12 7) (w.extractLsb' 5 7))
  | 4 => needZero w 5 7 <| .ok (.barArrive (w.extractLsb' 19 7) (w.extractLsb' 12 7))
  | 5 => needZero w 19 7 <| .ok (.barExpect (w.extractLsb' 12 7) (w.extractLsb' 5 7))
  | 6 => needZero w 19 7 <| .ok (.barWait (w.extractLsb' 12 7) (w.extractLsb' 5 7))
  | 7 => needZero w 5 7 <| needZero w 22 4 <| .ok (.wait (w.extractLsb' 19 3) (w.extractLsb' 12 7))
  | 8 => needZero w 5 7 <| needZero w 19 7 <| .ok (.qfence (w.extractLsb' 12 7))
  | 10 => needZero w 5 21 <| .ok .walksync
  | 11 => needZero w 19 7 <| .ok (.scWb (w.extractLsb' 12 7) (w.extractLsb' 5 7))
  | 12 => needZero w 19 7 <| .ok (.scDrop (w.extractLsb' 12 7) (w.extractLsb' 5 7))
  | _ => .error .unlisted

def decodeCopy (w : Word) : Except DecodeError Instr :=
  match (w.extractLsb' 0 5).toNat with
  | 0 => needZero w 19 7 <| .ok (.cpy (w.extractLsb' 12 7) (w.extractLsb' 5 7))
  | 2 => needZero w 5 7 <| needZero w 19 7 <| .ok (.chain (w.extractLsb' 12 7))
  | _ => .error .unlisted

def decodeMatrix (w : Word) : Except DecodeError Instr :=
  match (w.extractLsb' 4 4).toNat with
  | 0 => .ok (.mxMma (w.extractLsb' 23 3) (w.extractLsb' 20 3) (w.extractLsb' 14 6) (w.extractLsb' 8 6) (w.getLsbD 0) (w.getLsbD 1) (w.getLsbD 2) (w.getLsbD 3))
  | 1 => needZero w 3 1 <| .ok (.mxKmma (w.extractLsb' 23 3) (w.extractLsb' 20 3) (w.extractLsb' 14 6) (w.extractLsb' 8 6) (w.getLsbD 0) (w.getLsbD 1) (w.getLsbD 2))
  | 2 => needZero w 0 4 <| needZero w 8 15 <| .ok (.mxZero (w.extractLsb' 23 3))
  | 3 => needZero w 0 4 <| needZero w 20 3 <| .ok (.mxAccrd (w.extractLsb' 23 3) (w.extractLsb' 14 6) (w.extractLsb' 8 6))
  | 4 => needZero w 0 4 <| needZero w 20 3 <| .ok (.mxAccwr (w.extractLsb' 23 3) (w.extractLsb' 14 6) (w.extractLsb' 8 6))
  | 5 => needZero w 0 4 <| needZero w 8 6 <| needZero w 20 6 <| .ok (.mxFence (w.extractLsb' 14 6))
  | 6 => needZero w 0 4 <| needZero w 8 6 <| needZero w 20 6 <| .ok (.mxWait (w.extractLsb' 14 6))
  | 7 => needZero w 0 4 <| needZero w 8 6 <| needZero w 20 6 <| .ok (.mxSave (w.extractLsb' 14 6))
  | 8 => needZero w 0 4 <| needZero w 8 6 <| needZero w 20 6 <| .ok (.mxResume (w.extractLsb' 14 6))
  | 9 => needZero w 0 4 <| needZero w 20 6 <| .ok (.mxStreamOpen (w.extractLsb' 14 6) (w.extractLsb' 8 6))
  | 10 => needZero w 0 4 <| needZero w 20 6 <| .ok (.mxSub (w.extractLsb' 14 6) (w.extractLsb' 8 6))
  | 11 => needZero w 0 4 <| needZero w 8 6 <| needZero w 20 6 <| .ok (.mxSetgang (w.extractLsb' 14 6))
  | _ => .error .unlisted

def decodeTable (w : Word) : Except DecodeError Instr :=
  match (w.extractLsb' 4 4).toNat with
  | 0 => needZero w 0 4 <| needZero w 8 6 <| .ok (.tblKbuild (w.extractLsb' 23 3) (w.extractLsb' 20 3) (w.extractLsb' 14 6))
  | 1 => needZero w 0 4 <| needZero w 8 15 <| .ok (.tblKinv (w.extractLsb' 23 3))
  | 2 => needZero w 0 4 <| needZero w 8 15 <| .ok (.tblKdetach (w.extractLsb' 23 3))
  | 3 => needZero w 0 4 <| needZero w 8 6 <| needZero w 20 3 <| .ok (.tblKtest (w.extractLsb' 23 3) (w.extractLsb' 14 6))
  | _ => .error .unlisted

/-- The opcode map (R93): what the fields of a word say, before the checks of `Instr.illFormed`. -/
def decodeFields (w : Word) : Except DecodeError Instr :=
  match (w.extractLsb' 26 6).toNat with
  | 0 => decodeSystem w
  | 1 => decodeScalar w
  | 2 => .ok (.sAddi (w.extractLsb' 19 7) (w.extractLsb' 12 7) (w.extractLsb' 0 12))
  | 3 => .ok (.sAndi (w.extractLsb' 19 7) (w.extractLsb' 12 7) (w.extractLsb' 0 12))
  | 4 => .ok (.sOri (w.extractLsb' 19 7) (w.extractLsb' 12 7) (w.extractLsb' 0 12))
  | 5 => .ok (.sXori (w.extractLsb' 19 7) (w.extractLsb' 12 7) (w.extractLsb' 0 12))
  | 6 => .ok (.sShli (w.extractLsb' 19 7) (w.extractLsb' 12 7) (w.extractLsb' 0 12))
  | 7 => .ok (.sShri (w.extractLsb' 19 7) (w.extractLsb' 12 7) (w.extractLsb' 0 12))
  | 8 => .ok (.sSari (w.extractLsb' 19 7) (w.extractLsb' 12 7) (w.extractLsb' 0 12))
  | 9 => .ok (.sSlti (w.extractLsb' 19 7) (w.extractLsb' 12 7) (w.extractLsb' 0 12))
  | 10 => .ok (.sLui (w.extractLsb' 20 6) (w.extractLsb' 0 20))
  | 11 => .ok (.sAupc (w.extractLsb' 20 6) (w.extractLsb' 0 20))
  | 12 => .ok (.sLd (w.extractLsb' 20 6) (w.extractLsb' 14 6) (w.extractLsb' 10 4) (Strength.ofBits (w.extractLsb' 9 1)) (Size.ofBits (w.extractLsb' 7 2)) (w.extractLsb' 0 7))
  | 13 => .ok (.sLdu (w.extractLsb' 20 6) (w.extractLsb' 14 6) (w.extractLsb' 10 4) (Strength.ofBits (w.extractLsb' 9 1)) (Size.ofBits (w.extractLsb' 7 2)) (w.extractLsb' 0 7))
  | 14 => needZero w 10 4 <| .ok (.sSt (w.extractLsb' 20 6) (w.extractLsb' 14 6) (Strength.ofBits (w.extractLsb' 9 1)) (Size.ofBits (w.extractLsb' 7 2)) (w.extractLsb' 0 7))
  | 15 => decodeScalarAtomic w
  | 16 => .ok (.br (w.extractLsb' 0 26))
  | 17 => .ok (.call (w.extractLsb' 0 26))
  | 18 => .ok (.brz (w.extractLsb' 19 7) (w.extractLsb' 0 19))
  | 19 => .ok (.brnz (w.extractLsb' 19 7) (w.extractLsb' 0 19))
  | 20 => (Test.ofBits (w.extractLsb' 19 3)).elim (.error .reservedTest) fun test => .ok (.brp (w.extractLsb' 22 4) test (w.extractLsb' 0 19))
  | 21 => needZero w 19 3 <| .ok (.brd (w.extractLsb' 22 4) (w.extractLsb' 0 19))
  | 22 => needZero w 19 7 <| .ok (.recv (w.extractLsb' 0 19))
  | 23 => .ok (.loop (w.extractLsb' 19 7) (w.extractLsb' 0 19))
  | 24 => decodeControl w
  | 25 => decodeLaneArith w
  | 26 => decodeLaneBit w
  | 27 => decodeCompare w
  | 28 => decodeSpecial w
  | 29 => decodeCrossLane w
  | 30 => .ok (.vAddi (w.extractLsb' 19 7) (w.extractLsb' 12 7) (w.extractLsb' 0 12))
  | 31 => .ok (.vMovi (w.extractLsb' 19 7) (w.extractLsb' 0 19))
  | 32 => decodePredicate w
  | 33 => .ok (.vLd (w.extractLsb' 19 7) (w.extractLsb' 13 6) (w.extractLsb' 6 7) (w.extractLsb' 2 4) (Size.ofBits (w.extractLsb' 0 2)))
  | 34 => .ok (.vLdu (w.extractLsb' 19 7) (w.extractLsb' 13 6) (w.extractLsb' 6 7) (w.extractLsb' 2 4) (Size.ofBits (w.extractLsb' 0 2)))
  | 35 => needZero w 2 4 <| .ok (.vSt (w.extractLsb' 19 7) (w.extractLsb' 13 6) (w.extractLsb' 6 7) (Size.ofBits (w.extractLsb' 0 2)))
  | 36 => .ok (.vLdx (w.extractLsb' 19 7) (w.extractLsb' 13 6) (w.extractLsb' 6 7) (w.extractLsb' 2 4) (Size.ofBits (w.extractLsb' 0 2)))
  | 37 => needZero w 2 4 <| .ok (.vStx (w.extractLsb' 19 7) (w.extractLsb' 13 6) (w.extractLsb' 6 7) (Size.ofBits (w.extractLsb' 0 2)))
  | 38 => decodeLaneAtomic w
  | 39 => needZero w 0 3 <| (Layout.ofBits (w.extractLsb' 8 3)).elim (.error .reservedLayout) fun lay => .ok (.pLd (w.extractLsb' 23 3) (w.extractLsb' 17 6) (w.extractLsb' 11 6) lay (w.extractLsb' 4 4) (Strength.ofBits (w.extractLsb' 3 1)))
  | 40 => needZero w 0 3 <| needZero w 4 4 <| (Layout.ofBits (w.extractLsb' 8 3)).elim (.error .reservedLayout) fun lay => .ok (.pSt (w.extractLsb' 23 3) (w.extractLsb' 17 6) (w.extractLsb' 11 6) lay (Strength.ofBits (w.extractLsb' 3 1)))
  | 41 => decodePlane w
  | 42 => decodeLoupe w
  | 43 => decodeSync w
  | 44 => decodeCopy w
  | 45 => decodeMatrix w
  | 46 => decodeTable w
  | 63 => .error .permanentlyReserved
  | _ => .error .unlisted

/-- Decoding: the instruction that a word is, or why it is a reserved encoding (R97). -/
def decode (w : Word) : Except DecodeError Instr :=
  match decodeFields w with
  | .error e => .error e
  | .ok i =>
    match i.illFormed with
    | none => .ok i
    | some e => .error (.illFormed e)

/-- A word from its four bytes, the least significant first (R7, R89). -/
def wordOfBytes (b0 b1 b2 b3 : Byte) : Word := b3 ++ b2 ++ b1 ++ b0

/-- Decoding of bytes in memory order; what follows the word is given back. -/
def decodeBytes : List Byte → Option (Except DecodeError Instr × List Byte)
  | b0 :: b1 :: b2 :: b3 :: rest => some (decode (wordOfBytes b0 b1 b2 b3), rest)
  | _ => none

/-- The instruction that the decoder reads from a word as the opcode table numbers it. -/
def decodeTableWord (nbits w : Nat) : Option Instr :=
  let x : Word := BitVec.ofNat 32 (w % 2 ^ nbits)
  match decodeBytes [x.extractLsb' 0 8, x.extractLsb' 8 8, x.extractLsb' 16 8, x.extractLsb' 24 8] with
  | some (.ok i, _) => some i
  | _ => none

/-! Encoding. One function for each format of R90. -/

def fmtRR (op : BitVec 6) (d a b : BitVec 7) (f : BitVec 5) : Word := op ++ d ++ a ++ b ++ f
def fmtIM (op : BitVec 6) (d a : BitVec 7) (i : BitVec 12) : Word := op ++ d ++ a ++ i
def fmtUP (op : BitVec 6) (d : BitVec 6) (i : BitVec 20) : Word := op ++ d ++ i
def fmtSM (op d a : BitVec 6) (l : BitVec 4) (w : BitVec 1) (z : BitVec 2) (i : BitVec 7) : Word :=
  op ++ d ++ a ++ l ++ w ++ z ++ i
def fmtAT (op : BitVec 6) (d : BitVec 7) (a : BitVec 6) (b : BitVec 7) (o : BitVec 2) (f : BitVec 4) : Word :=
  op ++ d ++ a ++ b ++ o ++ f
def fmtJP (op : BitVec 6) (o : BitVec 26) : Word := op ++ o
def fmtBC (op : BitVec 6) (c : BitVec 7) (o : BitVec 19) : Word := op ++ c ++ o
def fmtVI (op : BitVec 6) (d : BitVec 7) (i : BitVec 19) : Word := op ++ d ++ i
def fmtVM (op : BitVec 6) (d : BitVec 7) (a : BitVec 6) (b : BitVec 7) (l : BitVec 4) (z : BitVec 2) : Word :=
  op ++ d ++ a ++ b ++ l ++ z
def fmtPM (op : BitVec 6) (g : BitVec 3) (a b : BitVec 6) (y : BitVec 3) (l : BitVec 4) (w : BitVec 1)
    (x : BitVec 3) : Word := op ++ g ++ a ++ b ++ y ++ l ++ w ++ x
def fmtPL (op : BitVec 6) (g h : BitVec 3) (x : BitVec 2) (b : BitVec 6) (f : BitVec 4) (i : BitVec 8) : Word :=
  op ++ g ++ h ++ x ++ b ++ f ++ i
def fmtMX (op : BitVec 6) (t s : BitVec 3) (a b : BitVec 6) (f x : BitVec 4) : Word :=
  op ++ t ++ s ++ a ++ b ++ f ++ x

/-- A flag bit. -/
def flag (b : Bool) : BitVec 1 := BitVec.ofBool b

/-- The word of an instruction (R90 to R96); none for an event, which has no encoding. -/
def encode : Instr → Option Word
  | .nop => some (fmtRR 0 0 0 0 0)
  | .trap d => some (fmtRR 0 d 0 0 1)
  | .eret => some (fmtRR 0 0 0 0 2)
  | .sysr d b => some (fmtRR 0 d 0 b 3)
  | .sysw a b => some (fmtRR 0 0 a b 4)
  | .yield => some (fmtRR 0 0 0 0 5)
  | .perf a => some (fmtRR 0 0 a 0 6)
  | .region => some (fmtRR 0 0 0 0 7)
  | .vers d => some (fmtRR 0 d 0 0 8)
  | .cycles d => some (fmtRR 0 d 0 0 9)
  | .icinv a b => some (fmtRR 0 0 a b 10)
  | .pgreq a => some (fmtRR 0 0 a 0 11)
  | .launch a b => some (fmtRR 0 0 a b 12)
  | .exit => some (fmtRR 0 0 0 0 13)
  | .bkpt => some (fmtRR 0 0 0 0 14)
  | .modeSet a b => some (fmtRR 0 0 a b 15)
  | .modeGet d => some (fmtRR 0 d 0 0 16)
  | .sAdd d a b => some (fmtRR 1 d a b 0)
  | .sSub d a b => some (fmtRR 1 d a b 1)
  | .sMul d a b => some (fmtRR 1 d a b 2)
  | .sMulh d a b => some (fmtRR 1 d a b 3)
  | .sMulhu d a b => some (fmtRR 1 d a b 4)
  | .sDiv d a b => some (fmtRR 1 d a b 5)
  | .sDivu d a b => some (fmtRR 1 d a b 6)
  | .sRem d a b => some (fmtRR 1 d a b 7)
  | .sRemu d a b => some (fmtRR 1 d a b 8)
  | .sAnd d a b => some (fmtRR 1 d a b 9)
  | .sOr d a b => some (fmtRR 1 d a b 10)
  | .sXor d a b => some (fmtRR 1 d a b 11)
  | .sShl d a b => some (fmtRR 1 d a b 12)
  | .sShr d a b => some (fmtRR 1 d a b 13)
  | .sSar d a b => some (fmtRR 1 d a b 14)
  | .sMin d a b => some (fmtRR 1 d a b 15)
  | .sMax d a b => some (fmtRR 1 d a b 16)
  | .sMinu d a b => some (fmtRR 1 d a b 17)
  | .sMaxu d a b => some (fmtRR 1 d a b 18)
  | .sSlt d a b => some (fmtRR 1 d a b 19)
  | .sSltu d a b => some (fmtRR 1 d a b 20)
  | .sSeq d a b => some (fmtRR 1 d a b 21)
  | .sClz d a => some (fmtRR 1 d a 0 22)
  | .sPopc d a => some (fmtRR 1 d a 0 23)
  | .sAddi d a imm => some (fmtIM 2 d a imm)
  | .sAndi d a imm => some (fmtIM 3 d a imm)
  | .sOri d a imm => some (fmtIM 4 d a imm)
  | .sXori d a imm => some (fmtIM 5 d a imm)
  | .sShli d a imm => some (fmtIM 6 d a imm)
  | .sShri d a imm => some (fmtIM 7 d a imm)
  | .sSari d a imm => some (fmtIM 8 d a imm)
  | .sSlti d a imm => some (fmtIM 9 d a imm)
  | .sLui d imm => some (fmtUP 10 d imm)
  | .sAupc d imm => some (fmtUP 11 d imm)
  | .sLd d a la w size imm => some (fmtSM 12 d a la w.bits size.bits imm)
  | .sLdu d a la w size imm => some (fmtSM 13 d a la w.bits size.bits imm)
  | .sSt d a w size imm => some (fmtSM 14 d a 0 w.bits size.bits imm)
  | .sAtomAdd d a b order => some (fmtAT 15 d a b order.bits 0)
  | .sAtomAnd d a b order => some (fmtAT 15 d a b order.bits 1)
  | .sAtomOr d a b order => some (fmtAT 15 d a b order.bits 2)
  | .sAtomXor d a b order => some (fmtAT 15 d a b order.bits 3)
  | .sAtomMin d a b order => some (fmtAT 15 d a b order.bits 4)
  | .sAtomMax d a b order => some (fmtAT 15 d a b order.bits 5)
  | .sAtomMinu d a b order => some (fmtAT 15 d a b order.bits 6)
  | .sAtomMaxu d a b order => some (fmtAT 15 d a b order.bits 7)
  | .sAtomSwap d a b order => some (fmtAT 15 d a b order.bits 8)
  | .sAtomCas d a order => some (fmtAT 15 d a 0 order.bits 9)
  | .sAtomLd d a order => some (fmtAT 15 d a 0 order.bits 12)
  | .sAtomSt a b order => some (fmtAT 15 0 a b order.bits 13)
  | .br off => some (fmtJP 16 off)
  | .call off => some (fmtJP 17 off)
  | .brz c off => some (fmtBC 18 c off)
  | .brnz c off => some (fmtBC 19 c off)
  | .brp p test off => some (fmtBC 20 (p ++ test.bits) off)
  | .brd p off => some (fmtBC 21 (p ++ 0#3) off)
  | .recv off => some (fmtBC 22 0 off)
  | .loop c off => some (fmtBC 23 c off)
  | .callr a => some (fmtRR 24 0 a 0 0)
  | .jmpr a => some (fmtRR 24 0 a 0 1)
  | .ret => some (fmtRR 24 0 0 0 2)
  | .ppush a => some (fmtRR 24 0 a 0 3)
  | .pinv => some (fmtRR 24 0 0 0 4)
  | .ppop => some (fmtRR 24 0 0 0 5)
  | .pstkGet d => some (fmtRR 24 d 0 0 6)
  | .vAdd d a b => some (fmtRR 25 d a b 0)
  | .vSub d a b => some (fmtRR 25 d a b 1)
  | .vMul d a b => some (fmtRR 25 d a b 2)
  | .vMulh d a b => some (fmtRR 25 d a b 3)
  | .vFma d a b => some (fmtRR 25 d a b 4)
  | .vFms d a b => some (fmtRR 25 d a b 5)
  | .vFnma d a b => some (fmtRR 25 d a b 6)
  | .vMin d a b => some (fmtRR 25 d a b 7)
  | .vMax d a b => some (fmtRR 25 d a b 8)
  | .vAbs d a => some (fmtRR 25 d a 0 9)
  | .vNeg d a => some (fmtRR 25 d a 0 10)
  | .vDot2 d a b => some (fmtRR 25 d a b 11)
  | .vMov d a => some (fmtRR 25 d a 0 12)
  | .vAnd d a b => some (fmtRR 26 d a b 0)
  | .vOr d a b => some (fmtRR 26 d a b 1)
  | .vXor d a b => some (fmtRR 26 d a b 2)
  | .vNot d a => some (fmtRR 26 d a 0 3)
  | .vShl d a b => some (fmtRR 26 d a b 4)
  | .vShr d a b => some (fmtRR 26 d a b 5)
  | .vSar d a b => some (fmtRR 26 d a b 6)
  | .vRotl d a b => some (fmtRR 26 d a b 7)
  | .vSel d a b => some (fmtRR 26 d a b 8)
  | .vClz d a => some (fmtRR 26 d a 0 9)
  | .vPopc d a => some (fmtRR 26 d a 0 10)
  | .vCmpEq d a b => some (fmtRR 27 d a b 0)
  | .vCmpNe d a b => some (fmtRR 27 d a b 1)
  | .vCmpLt d a b => some (fmtRR 27 d a b 2)
  | .vCmpLe d a b => some (fmtRR 27 d a b 3)
  | .vCmpGt d a b => some (fmtRR 27 d a b 4)
  | .vCmpGe d a b => some (fmtRR 27 d a b 5)
  | .vCmpLtu d a b => some (fmtRR 27 d a b 6)
  | .vCmpLeu d a b => some (fmtRR 27 d a b 7)
  | .vCmpGtu d a b => some (fmtRR 27 d a b 8)
  | .vCmpGeu d a b => some (fmtRR 27 d a b 9)
  | .vCmpUn d a b => some (fmtRR 27 d a b 10)
  | .vCmpOrd d a b => some (fmtRR 27 d a b 11)
  | .vRcp d a => some (fmtRR 28 d a 0 0)
  | .vRsq d a => some (fmtRR 28 d a 0 1)
  | .vSqrt d a => some (fmtRR 28 d a 0 2)
  | .vExp2 d a => some (fmtRR 28 d a 0 3)
  | .vLog2 d a => some (fmtRR 28 d a 0 4)
  | .vRred d a => some (fmtRR 28 d a 0 5)
  | .vSinr d a => some (fmtRR 28 d a 0 6)
  | .vCosr d a => some (fmtRR 28 d a 0 7)
  | .vCvt d a rnd target => some (fmtRR 28 d a (rnd.bits ++ target.bits) 8)
  | .vPack d a rnd target => some (fmtRR 28 d a (rnd.bits ++ target.bits) 9)
  | .vUnpk d a half => some (fmtRR 28 d a (0#6 ++ half.bits) 10)
  | .vPermXor d a b => some (fmtRR 29 d a b 0)
  | .vPermRot d a b => some (fmtRR 29 d a b 1)
  | .vPermBc d a b => some (fmtRR 29 d a b 2)
  | .vPermIdx d a b => some (fmtRR 29 d a b 3)
  | .vBcast d a => some (fmtRR 29 d a 0 4)
  | .vLaneid d sel => some (fmtRR 29 d sel.bits 0 5)
  | .vRed d a op => some (fmtRR 29 d a op.bits 6)
  | .vScan d a op => some (fmtRR 29 d a op.bits 7)
  | .vVtos d a => some (fmtRR 29 d a 0 8)
  | .vBallot d a b => some (fmtRR 29 d a b 9)
  | .vAddi d a imm => some (fmtIM 30 d a imm)
  | .vMovi d imm => some (fmtVI 31 d imm)
  | .predAnd d a b => some (fmtRR 32 d a b 0)
  | .predOr d a b => some (fmtRR 32 d a b 1)
  | .predXor d a b => some (fmtRR 32 d a b 2)
  | .predAndn d a b => some (fmtRR 32 d a b 3)
  | .predNot d a => some (fmtRR 32 d a 0 4)
  | .predMov d a => some (fmtRR 32 d a 0 5)
  | .predSet d => some (fmtRR 32 d 0 0 6)
  | .predClr d => some (fmtRR 32 d 0 0 7)
  | .predAny d a => some (fmtRR 32 d a 0 8)
  | .predAll d a => some (fmtRR 32 d a 0 9)
  | .predCount d a => some (fmtRR 32 d a 0 10)
  | .predFroms d a => some (fmtRR 32 d a 0 11)
  | .vLd d a b la size => some (fmtVM 33 d a b la size.bits)
  | .vLdu d a b la size => some (fmtVM 34 d a b la size.bits)
  | .vSt d a b size => some (fmtVM 35 d a b 0 size.bits)
  | .vLdx d a b la size => some (fmtVM 36 d a b la size.bits)
  | .vStx d a b size => some (fmtVM 37 d a b 0 size.bits)
  | .vAtomAdd d a b order => some (fmtAT 38 d a b order.bits 0)
  | .vAtomAnd d a b order => some (fmtAT 38 d a b order.bits 1)
  | .vAtomOr d a b order => some (fmtAT 38 d a b order.bits 2)
  | .vAtomXor d a b order => some (fmtAT 38 d a b order.bits 3)
  | .vAtomMin d a b order => some (fmtAT 38 d a b order.bits 4)
  | .vAtomMax d a b order => some (fmtAT 38 d a b order.bits 5)
  | .vAtomMinu d a b order => some (fmtAT 38 d a b order.bits 6)
  | .vAtomMaxu d a b order => some (fmtAT 38 d a b order.bits 7)
  | .vAtomSwap d a b order => some (fmtAT 38 d a b order.bits 8)
  | .vAtomCas d a b order => some (fmtAT 38 d a b order.bits 9)
  | .vAtomAddf d a b order => some (fmtAT 38 d a b order.bits 10)
  | .vAtomAddbf d a b order => some (fmtAT 38 d a b order.bits 11)
  | .vAtomLd d a b order => some (fmtAT 38 d a b order.bits 12)
  | .vAtomSt d a b order => some (fmtAT 38 d a b order.bits 13)
  | .pLd g a b lay la w => some (fmtPM 39 g a b lay.bits la w.bits 0)
  | .pSt g a b lay w => some (fmtPM 40 g a b lay.bits 0 w.bits 0)
  | .pShift gd gs axis b imm => some (fmtPL 41 gd gs axis.bits b 0 imm)
  | .pRot gd gs axis b imm => some (fmtPL 41 gd gs axis.bits b 1 imm)
  | .pSpread gd gs axis b imm => some (fmtPL 41 gd gs axis.bits b 2 imm)
  | .pFoldAdd gd gs axis => some (fmtPL 41 gd gs axis.bits 0 3 0)
  | .pFoldMax gd gs axis => some (fmtPL 41 gd gs axis.bits 0 4 0)
  | .pFoldMin gd gs axis => some (fmtPL 41 gd gs axis.bits 0 5 0)
  | .pFoldStack gd gs axis => some (fmtPL 41 gd gs axis.bits 0 6 0)
  | .pRefold gd gs => some (fmtPL 41 gd gs 0 0 7 0)
  | .pGset gd b => some (fmtPL 41 gd 0 0 b 8 0)
  | .pGget gs b => some (fmtPL 41 0 gs 0 b 9 0)
  | .lWr a b => some (fmtRR 42 0 a b 0)
  | .lRdt d => some (fmtRR 42 d 0 0 1)
  | .lRd d => some (fmtRR 42 d 0 0 2)
  | .lClr => some (fmtRR 42 0 0 0 3)
  | .fence => some (fmtRR 43 0 0 0 0)
  | .fenceAcq => some (fmtRR 43 0 0 0 1)
  | .fenceRel => some (fmtRR 43 0 0 0 2)
  | .barInit a b => some (fmtRR 43 0 a b 3)
  | .barArrive d a => some (fmtRR 43 d a 0 4)
  | .barExpect a b => some (fmtRR 43 0 a b 5)
  | .barWait a b => some (fmtRR 43 0 a b 6)
  | .wait path a => some (fmtRR 43 (0#4 ++ path) a 0 7)
  | .qfence a => some (fmtRR 43 0 a 0 8)
  | .walksync => some (fmtRR 43 0 0 0 10)
  | .scWb a b => some (fmtRR 43 0 a b 11)
  | .scDrop a b => some (fmtRR 43 0 a b 12)
  | .cpy a b => some (fmtRR 44 0 a b 0)
  | .chain a => some (fmtRR 44 0 a 0 2)
  | .mxMma t sl a b acc gang ta tb => some (fmtMX 45 t sl a b 0 (flag tb ++ flag ta ++ flag gang ++ flag acc))
  | .mxKmma t sl a b acc gang hi => some (fmtMX 45 t sl a b 1 (0#1 ++ flag hi ++ flag gang ++ flag acc))
  | .mxZero t => some (fmtMX 45 t 0 0 0 2 0)
  | .mxAccrd t a b => some (fmtMX 45 t 0 a b 3 0)
  | .mxAccwr t a b => some (fmtMX 45 t 0 a b 4 0)
  | .mxFence a => some (fmtMX 45 0 0 a 0 5 0)
  | .mxWait a => some (fmtMX 45 0 0 a 0 6 0)
  | .mxSave a => some (fmtMX 45 0 0 a 0 7 0)
  | .mxResume a => some (fmtMX 45 0 0 a 0 8 0)
  | .mxStreamOpen a b => some (fmtMX 45 0 0 a b 9 0)
  | .mxSub a b => some (fmtMX 45 0 0 a b 10 0)
  | .mxSetgang a => some (fmtMX 45 0 0 a 0 11 0)
  | .tblKbuild t sl a => some (fmtMX 46 t sl a 0 0 0)
  | .tblKinv t => some (fmtMX 46 t 0 0 0 1 0)
  | .tblKdetach t => some (fmtMX 46 t 0 0 0 2 0)
  | .tblKtest t a => some (fmtMX 46 t 0 a 0 3 0)
  | .reservedEncoding _ | .windowClose _ | .transientExpire _ | .resultReady _ _
  | .loadReturn _ _ | .storeRegister _ _ _ | .trapEntry _ _ | .issueSelect _
  | .teamBoost _ | .yieldExpire _ | .unitPowerDown _ _ _ | .unitWake _ _ _
  | .clockLevelChange _ | .shutterStep _ | .engineReady _ _ | .engineOpStart _ _
  | .tileFetch _ _ _ | .engineOpComplete _ _ | .copyOpStart _ _ | .copyComplete _ _
  | .copyCredit _ _ | .chainComplete _ | .barWaitComplete _ | .remoteBarrierPoll _
  | .waitComplete _ | .mxWaitComplete _ | .fenceAcqComplete _ | .gangRendezvous _
  | .streamTileFetch _ _ | .pageWalk _ _ _ _ | .scratchMapFill _ _ | .prqdoneWrite _ _ _
  | .tlbiRange _ _ _ _ | .tlbiAsid _ _ | .tlbiInterface _ | .tlbiComplete _
  | .recordTake _ | .launchDistribute _ | .placeAdmit _ _ | .teamResident _
  | .clusterPreempt _ | .teamPark _ _ | .drainExpire _ | .forcedSave _ _
  | .teamUnpark _ _ | .teamRetire _ | .gridComplete _ | .placeMigrate _ _ _ _
  | .queueCfgReload _ | .checkerMismatch _ | .eccError _ | .schedulerIllegalState _
  | .schedulerRebuildDone _ | .portLaneFail _ | .portRetrainDone _ | .remoteRequest _
  | .remoteResponse _ _ | .remoteTimeout _ | .memberWrite _ _ | .memberClearApply _
  | .shelfFrame _ | .frameLoss | .capUpdate | .shedForceSave _ _
  | .classRestore _ | .hostCxlMemAccess _ | .hostCxlCacheSnoop _ _ | .powerOn
  | .hostResetAssert | .powerRemove | .vfFlr _ | .victlWrite _ _
  | .viperfWrite _ _ | .registerWrite _ _ | .mbLoad | .mbExtend
  | .mbQuote | .mbIdkey | .mbShutdown | .objectLoad _
  | .objectUnload _ _ | .textCompaction _ _ _ | .retranslationSwap _ _ | .loaderSweep _
  | .icinvComplete _ | .walksyncComplete _ | .teamDiscard _ => none

end Sys2Proof
end

