-- ==== Sys2Proof/Config.lean ====
section
/-! DEFINITION. What the implementation fixes (R2), and the values that the manual leaves open: an opaque
constant has no body, so nothing can be proved of its value. -/

namespace Sys2Proof

/-- The rounding modes of MODE.RM (R32, R61). -/
inductive RoundMode where
  | rne | rtz | rdn | rup | sr
  deriving DecidableEq, Repr

/-- The functions whose result the architecture leaves open between two values (R159) or within a
bound (R162). -/
inductive SpecialFn where
  | rsq | exp2 | log2 | sinr | cosr
  deriving DecidableEq, Repr

/-- A failed unit that the boot self-test finds: kind 1 core, 2 L2 slice, 3 vault bank, 4 port lane, in
the fields of BADj (R385). -/
structure BadUnit where
  kind : Nat
  die  : Nat
  sub  : Nat
  unit : Nat
  deriving DecidableEq, Repr

namespace Config

/-- Clusters of the package (R2). -/
def clusters : Nat := 32
/-- Exposed cores of a cluster (R2). -/
def coresPerCluster : Nat := 8
/-- Resident team slots of a core (R2, R317). -/
def slotsPerCore : Nat := 16
/-- Bytes of a core's lane register file (R2, R24). -/
def laneFileBytes : Nat := 524288
/-- Table registers and accumulator tiles of a core (R2, R30). -/
def tablesPerCore : Nat := 4
def tilesPerCore : Nat := 8
/-- Team-table entries of a cluster (R2). -/
def teamTableEntries : Nat := 256
/-- Bytes of a cluster's vault, and the spacing of the vaults in the PA map (R323, R324). -/
def vaultBytes : Nat := 0xC00000
def vaultSpan : Nat := 0x1000000
/-- First PA of the vaults (R323). -/
def vaultBase : Nat := 0x10000000000
/-- First PA above the HBM4 (R323). -/
def hbmEnd : Nat := 0x7735940000
/-- First PA of host memory (R323). -/
def hostBase : Nat := 0x8000000000000
/-- First PA above the map: device PAs have 52 bits (R323). -/
def paEnd : Nat := 0x10000000000000
/-- 128-byte lines of a core's L1, words of a cluster's instruction cache, words of a core's loop buffer (R2, R134, R330). -/
def l1Lines : Nat := 2048
def icacheWords : Nat := 65536
def loopWords : Nat := 512
/-- Outstanding memory requests of a core (R2, R341). -/
def coreRequests : Nat := 8192
/-- Entries of the TLBs of a core, a cluster and a die (R340). -/
def tlbOfCore : Nat := 256
def tlbOfCluster : Nat := 4096
def tlbOfDie : Nat := 16384
/-- Ticks of wall time in a microsecond: one tick is one lane cycle at 1.5 GHz (R2). -/
def ticksPerUs : Nat := 1500

/-- Of the two representable values that bracket the true value of RSQ, EXP2 or LOG2, whether the upper
is returned: left open by R159, the same for the same input, mode and type. -/
opaque pickUpper : SpecialFn → RoundMode → ElemType → Word → Bool
/-- The leaf of a broken contiguous group that a walk takes (R338), by ASID, address and front cycle: none for the
address's own, else the leaf of that place in the group. -/
opaque groupPick : BitVec 12 → Nat → Nat → Option (BitVec 5)
/-- The result of V.SINR and V.COSR before the bound of R162 is applied: left open within it. -/
opaque sinCos : SpecialFn → Word → BitVec 2 → Word
/-- SHAKE256 with an output of the given number of bytes (R387): named, not given, by the manual. -/
opaque shake256 : List Byte → Nat → List Byte
/-- Verification of an SLH-DSA-SHAKE-256s signature: key, message, signature (R387, FIPS 205). -/
opaque slhVerify : List Byte → List Byte → List Byte → Bool
/-- The deterministic SLH-DSA-SHAKE-256f signature: SK.seed, SK.prf, PK.seed, message (R387). -/
opaque slhSign : List Byte → List Byte → List Byte → List Byte → List Byte
/-- PK.root of the key pair generated from SK.seed, SK.prf, PK.seed (R387). -/
opaque slhRoot : List Byte → List Byte → List Byte → List Byte
/-- The PUF key that the base die reconstructs from HELPER (R383, R385). -/
opaque pufKey : List Byte → List Byte
/-- The bytes of the mask ROM, measured as M0 (R386). -/
opaque romImage : List Byte
/-- The key hash that the mask ROM stores (R382). -/
opaque romKeyHash : List Byte
/-- What the boot self-test finds (R381, R384). -/
opaque selfTestBad : List BadUnit
/-- Where the firmware sets the context table: CTXBASE[51:16] (R378). -/
opaque ctxBase : BitVec 36
/-- What a byte of host memory holds after the device that had its line modified has lost power (R388), by wall time and
device PA. -/
opaque hostLost : Nat → Nat → BitVec 8
/-- Whether a store that a reset catches unregistered is performed, by its physical word (R377). -/
opaque resetPerforms : Nat → Bool

end Config

end Sys2Proof
end

