-- ==== Sys2Proof/Machine/State.lean ====
section
/-! DEFINITION. The state of the package: all that the spec gives the device and its teams, as plain data.
Fields that are the model's own (no state of the spec) say so in their docstrings. -/

namespace Sys2Proof.Machine

/-- Memory: bytes by device physical address (R323), in the one canonical form of `Sparse`. -/
abbrev Memory := List Host.Cell

/-- A choice that the hardware makes and no instruction or event of the table names: what stays in a
cache or TLB, and what of a held line the home still brings (R330, R338, R340), an instruction word fetched ahead (R143, R251), two weak stores merged
(R249), descriptors of an operation that are still on their way or have come (R369), and the passing of wall time.
DESIGN CHOICE (log 9). -/
inductive Choice where
  | tick (n : Nat)
  | evictL1 (core pa : Nat)
  | fillL1 (core pa : Nat)
  | evictTlb (n : Nat)
  | dropWalk (n : Nat)
  | evictIcache (n : Nat)
  | prefetch (team : Nat) (va : DWord)
  | mergeStore (team op word : Nat)
  | descLate (team : Nat)
  | descReturn (team : Nat)
  deriving DecidableEq, Repr

/-- One entry of the agenda: an event of the opcode table, or a silent choice. DESIGN CHOICE (log 1). -/
inductive Action where
  | event (i : Instr)
  | choice (c : Choice)
  deriving DecidableEq, Repr

/-- State of a split-table entry (R36). -/
inductive FragState where
  | free | running | waiting
  deriving DecidableEq, Repr

/-- A split-table entry (R36). `path` names, innermost first, the splits the fragment descends from,
each with the predicate-stack depth of the splitting fragment (R37); `replay` marks a fragment whose next
effect is not the next entry of the log (R48). -/
structure Frag where
  mask  : LaneMask
  pc    : DWord
  depth : Nat
  level : Nat
  st    : FragState
  path  : List (Nat × Nat)
  replay : Bool
  deriving DecidableEq, Repr

/-- A loop-stack entry (R132). -/
structure LoopEntry where
  first     : DWord
  last      : DWord
  remaining : DWord
  linkDepth : Nat
  deriving DecidableEq, Repr

/-- A transient result: the values by lane, and the number of the instruction that produced it (R26). -/
structure Transient where
  producer : Nat
  lanes    : Sparse 32
  deriving DecidableEq, Repr

/-- What a load writes when its window closes (R50): a scalar register, or the masked bits of one lane
of a lane register. -/
inductive WinWrite where
  | s (d : BitVec 6) (val : DWord)
  | v (reg lane : Nat) (mask val : Word)
  deriving DecidableEq, Repr

/-- Where an access of a load goes: a scalar register or a lane of V[reg], extended by sign or by zero (8 bytes take
two lane registers), or the bits of a lane register that hold an element of a plane. -/
inductive LoadDest where
  | s (d : BitVec 6) (signed : Bool)
  | v (reg lane : Nat) (signed : Bool)
  | elem (reg lane shift : Nat) (mask : Word)
  deriving DecidableEq, Repr

/-- An access of a load whose bytes another member still has to bring (R348): the request, the offset of the bytes in its
answer, the bytes that the issue had already, the address, the lanes it stands for, where it goes, and the entry of the replay
log with the offset there that takes its bytes too (R47). -/
structure LoadPart where
  req   : Nat
  off   : Nat
  known : List (Option Byte)
  va    : DWord
  lanes : LaneMask
  dest  : LoadDest
  log   : Option (Nat × Nat)
  deriving DecidableEq, Repr

/-- An open lookahead window: the number of the load, the number of the instruction before which it
closes, and what it writes (R50, R51); the accesses whose bytes are still to come, and MODE.RP at the load, whose predicate takes
their missing lanes (R184). -/
structure Window where
  opened  : Nat
  closeAt : Nat
  writes  : List WinWrite
  waits   : List LoadPart
  rp      : Nat
  deriving DecidableEq, Repr

/-- A register file, for the interlock (R52, R149). -/
inductive RegFile where
  | s | v | p | g | loupe
  deriving DecidableEq, Repr

/-- A result that is not ready yet: its register, and the front or lane cycle count of the cluster at
which it is (R52, R114, R149). -/
structure Busy where
  file    : RegFile
  reg     : Nat
  lane    : Bool
  readyAt : Nat
  deriving DecidableEq, Repr

/-- The kinds of operation that an in-flight counter counts (R38, R185). -/
inductive FlightKind where
  | load
  | store
  | copy (serial : Nat)
  | page (va : DWord)
  deriving DecidableEq, Repr

/-- An operation that an access path counts (R38): its path, whether it is strong, its bytes that have
not registered at their homes, by PA (R244), its remote packets that have no answer (R348), whether it
has returned, the address it began at, the serial of the next queued operation at its issue (R263), and the fault that its
answers so far bring, with the request it came from: one instruction raises one. -/
structure Flight where
  path   : Nat
  kind   : FlightKind
  strong : Bool
  whole  : Bool
  bytes  : List (Nat × Byte)
  remote : List Nat
  done   : Bool
  va     : DWord
  next   : Nat
  fault  : Option (Nat × BitVec 8 × DWord)
  deriving DecidableEq, Repr

/-- A replay-log entry (R47): PC, mask at issue, returned data; failed marks (R208, R241); the serial of
the queued operation it stands for, 0 for none, and the K register of a KBUILD (R241). -/
structure LogEntry where
  pc     : DWord
  mask   : LaneMask
  data   : List Byte
  failed : Bool
  serial : Nat
  kreg   : Option Nat
  deriving DecidableEq, Repr

/-- The control snapshot of a region entry (R44). -/
structure Snapshot where
  mask      : LaneMask
  depth     : Nat
  linkDepth : Nat
  pend      : Option DWord
  deriving DecidableEq, Repr

/-- A fault that is pending (R208, R232, R241, R258, R263): an earlier instruction's pipeline error goes
first, then the earliest-issued operation's fault. `access` marks one of an instruction's load or store, `store` one of a store,
which holds releases back (R258); its serial is that of the next queued operation at its issue. -/
structure PendFault where
  cause    : BitVec 8
  tinfo    : DWord
  serial   : Nat
  pipeline : Bool
  store    : Bool
  access   : Bool
  deriving DecidableEq, Repr

/-- The double-trap record (R261); cause 0 when there is none. `ecc` tells a stop by an uncorrectable error (R275). -/
structure DoubleTrap where
  cause : BitVec 8
  pc    : DWord
  tinfo : DWord
  ecc   : Bool
  deriving DecidableEq, Repr

/-- Why a team is withheld from issue until an event ends the wait (R320). At the gang latch stand the word, whether it has an
operation (R100), and its descriptors as read at the arrival (R212, R225). -/
inductive Withheld where
  | yield (since : Nat)
  | wait (path : Nat) (threshold : DWord)
  | barWait (addr : DWord) (parity : Bool)
  | mxWait (batch : DWord)
  | fenceAcq (full : Bool)
  | icinv (va len : DWord)
  | walksync
  | gang (word : Word) (live : Bool) (adesc bdesc : List Byte)
  | shed
  deriving DecidableEq, Repr

/-- Why a team's next instruction does not issue: it stays unissued and is tried again. `sibling` waits for a sibling
to start (R182). -/
inductive Stall where
  | strong | interlock | release | counterFull | queueFull | streamBusy | ringFull | remote | replay | tables | drain | store
  | sibling
  deriving DecidableEq, Repr

/-- What the selection of an issue charged (R321, R359), to be given back when the instruction does not issue: the quanta,
what a reserved use costs, and the class run and wait count before it. -/
structure Charge where
  weight    : Nat
  least     : Nat
  lastClass : Nat
  run       : Nat
  waits     : Nat
  boosted   : Bool
  deriving DecidableEq, Repr

/-- State of a table register (R233). -/
inductive TabState where
  | empty | attached | stale | detached
  deriving DecidableEq, Repr

/-- A table register (R233): state, built rows and k-groups, slot, descriptor copy, watch range (its start
as a virtual address and in the vault, its length), and the entries T[s] of row m, k-group g at key (8·m + g)·128 + s (R75). -/
structure KTable where
  st      : TabState
  rows    : Nat
  groups  : Nat
  slot    : BitVec 3
  desc    : List Byte
  watchVa : Nat
  watchAt : Nat
  watchLen : Nat
  entries : Sparse 32
  deriving DecidableEq, Repr

/-- A queued engine operation (R211, R212, R230): its instruction and word, what it captured at issue,
its batch, its progress in step boundaries, partial sums of KMMA (A at 64·m + n, B 2048 above) and whether they
are live, flags raised, operand lines fetched (R217), the stream, by its identity, and tile of its B operand (R220), the page it
waits for (R329), the address at which a page fault suspended it, and `paused` until it is granted a start again (R232,
R361). `alone` marks an operation that MX.RESUME or an unpark continues (R231, R278), `joint` the team and operation that a
gang issued with (R225). `kept` is the C tile as it stood at the start, once a save has written into it (R232); `pend` and
`nans` are the outputs that have met an invalid case and a NaN operand (R74); `begun` is the lane cycle of its start; `late` tells
that the last of its descriptor bytes has not returned (R369). -/
structure EngineOp where
  serial   : Nat
  op       : Instr
  word     : Word
  mode     : Word
  gang     : DWord
  adesc    : List Byte
  bdesc    : List Byte
  batch    : Nat
  late     : Bool
  asked    : Bool
  started  : Bool
  step     : Nat
  partials : Sparse 32
  pv       : Bool
  flags    : BitVec 5
  lines    : List (Nat × List Byte)
  stream   : Option (Nat × Nat)
  page     : Option DWord
  suspended : Option DWord
  paused   : Bool
  alone    : Bool
  joint    : Option (Nat × Nat)
  kept     : Option (Sparse 32)
  pend     : List Nat
  nans     : List Nat
  begun    : Nat
  addr     : DWord
  pitch    : DWord
  deriving DecidableEq, Repr

/-- A queued copy or chain (R205 to R210): its descriptor as read at issue, the elements done (`pos`), whether
every byte is written and whether its counter has fallen, the page it waits for, flags raised. -/
structure CopyOp where
  serial  : Nat
  q       : Nat
  chain   : Bool
  desc    : List Byte
  pos     : Nat
  written : Bool
  fallen  : Bool
  page    : Option DWord
  flags   : BitVec 5
  deriving DecidableEq, Repr

/-- A mapped-scratch map of a team (R328) with its words filled and dirty, by region offset of the
word (R329). -/
structure ScratchMap where
  off    : Nat
  len    : Nat
  gva    : Nat
  filled : List Nat
  dirty  : List Nat
  deriving DecidableEq, Repr

/-- Where a team stands in its life (R316, R317, R141, R261). -/
inductive Life where
  | admitted | resident | parked | stopped | ended | retired
  deriving DecidableEq, Repr

/-- What the launch fixes for a team (R21, R40, R306, R307). -/
structure TeamConst where
  launch : Nat
  vi     : Nat
  serial : Word
  asid   : BitVec 12
  role   : Nat
  nrole  : Nat
  h      : Nat
  n      : Nat
  tables : Nat
  tiles  : Nat
  ex     : Nat
  ey     : Nat
  ez     : Nat
  x      : Nat
  y      : Nat
  z      : Nat
  entry  : DWord
  argp   : DWord
  handle : DWord
  scr    : Nat
  slots  : List QWord
  deriving DecidableEq, Repr

/-- A team's scheduling state (R316, R317, R321, R322, R355): `saveDue` is the number of instructions issued when a
forced save fell due (R268), `shedPark` that it parks at its next barrier boundary (R365), `rests` what the team waited for when it
was saved. -/
structure TeamSched where
  life     : Life
  started  : Bool
  cluster  : Nat
  core     : Nat
  slot     : Nat
  order    : Nat
  prio     : Nat
  pclass   : Nat
  waits    : Nat
  boosted  : Bool
  level    : BitVec 2
  parking  : Nat
  scratch  : Nat
  saveDue  : Option Nat
  shedPark : Bool
  rests    : Option Withheld
  deriving DecidableEq, Repr

/-- The registers of a team (R23). Lane l of Vn is at key 1024·n + l; word x of loupe row y at 32·y + x;
C[t][m][n] at 4096·t + 64·m + n. `srSeed` and `sr` give the generator of a lane: the state of a lane
that has stepped since the last seeding, and the seed of the others (R63). -/
structure Regs where
  s      : Sparse 64
  v      : Sparse 32
  p      : Sparse 1024
  g      : Sparse 128
  loupe  : Sparse 32
  c      : Sparse 32
  mode   : Word
  gang   : DWord
  srSeed : Word
  sr     : Sparse 32
  deriving DecidableEq, Repr

/-- The system registers that hold state of their own (R40); 18 to 31 are in `gp`. -/
structure SysRegs where
  tvec   : DWord
  tcause : DWord
  tpc    : DWord
  tinfo  : DWord
  tflags : DWord
  regpc  : DWord
  lsp    : DWord
  seed   : DWord
  gp     : Sparse 64
  deriving DecidableEq, Repr

/-- Control state: split table, fuse levels 1 to 8, pending fuse address, link stack newest first with
the spilled count, loop stack innermost first with its region copy, predicate-stack entries 1 to 16
(R34 to R37, R132, R133). `splits` numbers the splits (the model's own). -/
structure Control where
  frags   : List Frag
  fuse    : List (Option DWord)
  pend    : Option DWord
  link    : List DWord
  spilled : Nat
  loop    : List LoopEntry
  rloop   : List LoopEntry
  pstk    : Sparse 1024
  splits  : Nat
  deriving DecidableEq, Repr

/-- Issue state: the number of instructions issued, bypass (R26), open windows (R50), interlock (R52),
withholding, fetched-ahead words by VA (R251), operations in flight in issue order (R38), pending
faults (R263), the double-trap record (R261), the model's own record of what the selection charged, the slot that a
LAUNCH has claimed and not published: its fragment, queue and index (R145), and the fragment whose instruction has issued and
is under way, with its word. -/
structure Issue where
  issued   : Nat
  bypass   : List Transient
  windows  : List Window
  busy     : List Busy
  stalled  : Option Stall
  withheld : Option (Nat × Withheld)
  trapFrag : Option Nat
  ahead    : List (DWord × Word)
  flights  : List Flight
  faults   : List PendFault
  dtrap    : DoubleTrap
  charge   : Option Charge
  claim    : Option (Nat × Nat × DWord)
  begun    : Option (Nat × Word)
  deriving DecidableEq, Repr

/-- The replay log (R47, R48): entries, how many the replay has consumed, the snapshot, and whether the
restart point is the kernel entry (R44, R49); `splits` is the number of splits made before the entry, so
that a fuse at a level opened before it is seen (R44). -/
structure Replay where
  log      : List LogEntry
  consumed : Nat
  snap     : Snapshot
  kentry   : Bool
  splits   : Nat
  deriving DecidableEq, Repr

/-- Queues, batches and tables (R211, R213, R205). `qfences` holds the mask of each QFENCE and the serial
of the next operation at its issue (R197); `subs` the streams subscribed to: stream, window, count
(R220). -/
structure Engine where
  q5     : List EngineOp
  q6     : List EngineOp
  copies : List CopyOp
  opened : Nat
  closed : Nat
  next   : Nat
  qfences : List (BitVec 7 × Nat)
  k      : List KTable
  subs   : List (Nat × Nat × Nat)
  deriving DecidableEq, Repr

/-- A team (R17): admitted to a cluster. -/
structure Team where
  id     : Nat
  const  : TeamConst
  sched  : TeamSched
  regs   : Regs
  sys    : SysRegs
  ctl    : Control
  iss    : Issue
  rep    : Replay
  eng    : Engine
  maps   : List ScratchMap
  deriving DecidableEq, Repr

/-- A launch record that the scheduler has taken and is working on (R306, R314, R319): its queue, interface, serial and
record index, the record, the context and text base of its object, whether distribution has begun, the next place, and
whether every team has retired and only the completion arrival is under way. -/
structure Launch where
  id       : Nat
  q        : Nat
  vi       : Nat
  serial   : Word
  index    : DWord
  record   : List Byte
  asid     : BitVec 12
  text     : DWord
  began    : Bool
  place    : Nat
  complete : Bool
  deriving DecidableEq, Repr

/-- The power state of a unit of a core (R356): awake, with the lane cycle since which it is idle or at which its work ends;
down; or waking, with the lane cycle at which it is awake and the one at which the work sent to it ends. -/
inductive UnitPower where
  | awake (idleSince : Nat)
  | down
  | waking (at_ until_ : Nat)
  deriving DecidableEq, Repr

/-- The shutter's view of a matrix engine (R360, R361): active in the step, filler, a request with the
front cycle it was made in, the front cycle at which its work ended. -/
structure ShutEngine where
  active  : Bool
  filler  : Bool
  request : Option Nat
  ended   : Nat
  deriving DecidableEq, Repr

/-- A word of a core's loop buffer (R134): the team whose loop it is of, the VA it was fetched at, the PA it was read from. -/
structure LoopWord where
  team : Nat
  va   : Nat
  pa   : Nat
  word : Word
  deriving DecidableEq, Repr

/-- A core (R321, R356, R274): last issued class and run count, units, the lane cycle from which its lane datapath
is free (R149), loop buffer, engine, the wall times of its pipeline errors; `alive` is false for a core that no spare replaces. -/
structure Core where
  lastClass : Nat
  run       : Nat
  units     : List UnitPower
  laneFree  : Nat
  loopBuf   : List LoopWord
  engine    : ShutEngine
  errors    : List Nat
  alive     : Bool
  deriving DecidableEq, Repr

/-- A stream of a place (R218 to R220): its own identity in the cluster, owner launch and place, number, descriptor, next
tile to fetch, subscriptions made, tiles held (number, lines). A closed one stays while an operation still takes a tile of it. -/
structure Stream where
  id     : Nat
  launch : Nat
  place  : Nat
  num    : Nat
  desc   : List Byte
  next   : Nat
  joined : Nat
  tiles  : List (Nat × List (Nat × List Byte))
  closed : Bool
  deriving DecidableEq, Repr

/-- A cluster: CYCLEF, lane half-cycles, level (R354, R355), aperture (R358), shutter ramp (R360), cores,
streams, spare, issue stopped by an illegal scheduler state (R276), the pre-emptions under way, each with its priority and start (R267, R318), and the front cycle
whose step boundary the shutter has performed last (R361). -/
structure Cluster where
  cyclef   : Nat
  lane2    : Nat
  level    : BitVec 2
  aperture : Int
  ramp     : Option Nat
  cores    : List Core
  streams  : List Stream
  spare    : Bool
  halted   : Bool
  preempt  : List (Nat × Nat)
  shutAt   : Nat
  deriving DecidableEq, Repr

/-- A virtual interface: control page and guest page registers (R375, R376), next launch serial (R307),
page-request sequence (R343). -/
structure VirtIf where
  en       : Bool
  s2en     : Bool
  first    : Nat
  count    : Nat
  clm      : Word
  caplvl   : BitVec 2
  winbase  : Nat
  smapbase : Nat
  tlbi0    : DWord
  tlbi1    : DWord
  tlbi2    : Word
  drain    : BitVec 16
  vitvec   : DWord
  prqbase  : Nat
  prqlogn  : Nat
  prqwr    : DWord
  prqrd    : DWord
  prqdone  : DWord
  serial   : Word
  seq      : Word
  deriving DecidableEq, Repr

/-- A page request that waits for the runtime (R343): interface, ASID, granule, sequence, kind. -/
structure PageReq where
  vi   : Nat
  asid : BitVec 12
  page : Nat
  seq  : Word
  kind : Bool
  sent : Bool
  deriving DecidableEq, Repr

/-- Which copies of a TLB entry hold it (R340). -/
inductive TlbLevel where
  | core (n : Nat) | cluster (n : Nat) | die (n : Nat)
  deriving DecidableEq, Repr

/-- A TLB entry: one combined translation of a resident leaf, tagged with the ASID (R340); `vi` is the interface whose
walk made it (R327). -/
structure TlbEntry where
  level : TlbLevel
  asid  : BitVec 12
  vbase : Nat
  size  : Nat
  pbase : Nat
  r     : Bool
  w     : Bool
  x     : Bool
  dev   : Option (BitVec 10)
  vi    : Nat
  deriving DecidableEq, Repr

/-- A word of a core's L1, with its owner bit (R330). `dev` tells a remote device's word. -/
structure L1Word where
  core : Nat
  dev  : Option (BitVec 10)
  pa   : Nat
  val  : Word
  own  : Bool
  deriving DecidableEq, Repr

/-- A word of a cluster's instruction cache (R251), by the VA it was fetched at and the PA it was read from. -/
structure CodeWord where
  cluster : Nat
  va      : Nat
  pa      : Nat
  word    : Word
  deriving DecidableEq, Repr

/-- The memory system beside the bytes: owning core of each word at its home (R244), poisoned words
(R275), L1 words, instruction words, TLB entries, non-leaf entries that walkers keep (R341). -/
structure MemSys where
  owner  : List (Nat × Nat)
  poison : List Nat
  l1     : List L1Word
  icache : List CodeWord
  tlb    : List TlbEntry
  walk   : List (Nat × DWord)
  hostDirty : List Nat
  deriving DecidableEq, Repr

/-- What a remote request of this device serves: an access, by its key, of the instruction that a team issues, a load that has issued,
a queued operation of a team, by its serial (0 a fill of mapped scratch), a store in flight, a read of the object that a team waits on
(R349), a wait barrier (0, 1) or completion barrier (2) of a launch; `gone` when nothing waits for the answer any more. -/
inductive RemoteFor where
  | instruction (key : Nat)
  | load
  | queue (serial : Nat)
  | flight
  | poll
  | gate (launch n : Nat)
  | gone
  deriving DecidableEq, Repr

/-- A request sent on a port (R345, R348), with its answer once it has one; `dead` marks one that ended as
sent to a dead target (R350, R351), `stale` a read whose words an L1 must not keep: a write to its block, a strong read or an
acquire came after it (R254), `forming` a write packet of a queue that still gathers bytes and has not been sent (R348). -/
structure RemoteOut where
  id    : Nat
  team  : Nat
  use   : RemoteFor
  dev   : BitVec 10
  pa    : Nat
  va    : DWord
  kind  : RemoteKind
  port  : Nat
  at_   : Nat
  ans   : Option RemoteAnswer
  dead  : Bool
  stale : Bool
  forming : Bool
  deriving DecidableEq, Repr

/-- The pod block (R346), the membership in force (R351), lanes in service and spare lanes used (R344,
R277), the ports that requests go out on (R345), requests outstanding, answers sent. -/
structure Pod where
  podctl  : DWord
  member  : List DWord
  applied : List DWord
  swtbase : Nat
  crec    : DWord
  crwr    : DWord
  crrd    : DWord
  lanes   : List Nat
  spares  : List Bool
  retrain : List Bool
  inUse   : List Bool
  reqs    : List RemoteOut
  nextReq : Nat
  answers : List (BitVec 10 × Nat × RemoteAnswer)
  reported : List (BitVec 10 × Nat)
  deriving DecidableEq, Repr

/-- The power block (R357) and the governor (R363 to R366). -/
structure Power where
  apcfg   : DWord
  apcap   : DWord
  aw0     : DWord
  aw1     : DWord
  shut0   : DWord
  shut1   : DWord
  govctl  : DWord
  govth   : DWord
  dcf     : List DWord
  dcv     : List DWord
  p       : Nat
  used    : Nat
  shed    : List Bool
  shedAt  : List Nat
  okSince : List (Option Nat)
  badf    : BitVec 16
  gaps    : BitVec 16
  lastSeq : Option (BitVec 8)
  lastValid : Option Nat
  lost    : Bool
  deriving DecidableEq, Repr

/-- Boot, identity, mailbox and the physical function's registers (R378 to R388); `mbarg` holds the operands of the
running command, `msix` the signals sent (R373). -/
structure Boot where
  powered : Bool
  reset   : Bool
  stage   : BitVec 8
  err     : BitVec 8
  id      : Bool
  cores   : Nat
  qcbbase : Nat
  ctxbase : Nat
  vallot  : Nat
  mbcmd   : DWord
  mbstat  : DWord
  mbseq   : Word
  mbin    : Sparse 8
  mbarg   : Sparse 8
  meas    : List (List Byte)
  skseed  : List Byte
  skprf   : List Byte
  pkseed  : List Byte
  pkroot  : List Byte
  ident   : List Byte
  bad     : List BadUnit
  msix    : List (Nat × Nat)
  deriving DecidableEq, Repr

/-- A symbol of a loaded object (R284): name, binding, section kind, offset. -/
structure Symbol where
  name : List Byte
  bind : Nat
  kind : Nat
  off  : Nat
  deriving DecidableEq, Repr

/-- A relocation record (R288). -/
structure Reloc where
  off    : Nat
  type   : Nat
  sect   : Nat
  sym    : Nat
  addend : Int
  anchor : Nat
  deriving DecidableEq, Repr

/-- A section of an object (R282). -/
structure Section where
  kind  : Nat
  align : Nat
  foff  : Nat
  size  : Nat
  imoff : Nat
  deriving DecidableEq, Repr

/-- The text of an object as its image or its translation gives it (R295): unrelocated bytes, the records whose places
lie in it, the symbols that they name, the region entries. -/
structure Code where
  bytes  : List Byte
  relocs : List Reloc
  syms   : List Symbol
  region : List Nat
  deriving DecidableEq, Repr

/-- An old text that is still mapped after a move (R297): its range, where the text went, the map of a translation (none
for a compaction), the teams that the next sweep or the end waits for, whether the sweep is done. -/
structure OldText where
  start : Nat
  len   : Nat
  new   : Nat
  fwd   : Option (List (Nat × Nat))
  waits : List Nat
  swept : Bool
  deriving DecidableEq, Repr

/-- An object that a context holds loaded (R287, R294): handle, context, interface, base, where its text lies now (a move
moves the text alone, R295), versions, sections, symbols, records, its image, its text as it stands, stub (R302), whether
an unload is asked for, old texts still mapped. -/
structure Object where
  handle  : DWord
  asid    : BitVec 12
  vi      : Nat
  base    : Nat
  text    : Nat
  textLen : Nat
  major   : Nat
  minor   : Nat
  sects   : List Section
  syms    : List Symbol
  relocs  : List Reloc
  image   : List Byte
  code    : Code
  stub    : Nat
  unloading : Bool
  moved   : List OldText
  deriving DecidableEq, Repr

/-- An export cell (R303): context, name, address. -/
structure ExportCell where
  asid : BitVec 12
  name : List Byte
  addr : Nat
  deriving DecidableEq, Repr

/-- The loader (R281 to R304): objects in load order, export cells, next handle, and the results it has
returned: status and index (R285). -/
structure Loader where
  objects : List Object
  cells   : List ExportCell
  next    : DWord
  results : List (Nat × Nat)
  deriving DecidableEq, Repr

/-- The scheduler's own state: the CFG it last read of each queue (R322), the queue last granted a place at each
priority (R315) and the queue whose team last became resident at it (R317), launches, counters for ids and admission order, the interface that last held each 4 KiB of a vault (R316), the allotment in force of the vault
blocks whose change waits for an invalidation (R378), and the status records that wait for room in a queue's ring (R313). -/
structure Scheduler where
  cfg      : List (Nat × DWord)
  lastGrant : List (Nat × Nat)
  lastRes  : List (Nat × Nat)
  launches : List Launch
  nextLaunch : Nat
  nextTeam : Nat
  order    : Nat
  vaultVi  : List (Nat × Nat)
  allotHeld : List (Nat × Option Nat)
  reports  : List (Nat × List Byte)
  deriving DecidableEq, Repr

/-- The whole package. `agenda`, `slots`, `idle` and `log` are the model's own: what happens next, the
fragments selected to issue (R321), the cluster whose front cycle an idle step runs, and answers to the
host that the spec gives and no register holds. DESIGN CHOICE (log 53). -/
structure State where
  agenda  : List Action
  slots   : List (Nat × Nat)
  idle    : Nat
  now     : Nat
  mem     : Memory
  ms      : MemSys
  teams   : List Team
  clusters : List Cluster
  vis     : List VirtIf
  prq     : List PageReq
  sched   : Scheduler
  pod     : Pod
  pwr     : Power
  boot    : Boot
  ldr     : Loader
  replies : List (List Byte)
  deriving DecidableEq, Repr

/-- Why the machine stops. DESIGN CHOICE (log 60). -/
inductive Fault where
  /-- Raised by HOST_CXL_MEM_ACCESS when the host addresses a device PA outside the HDM range, or one that
  R323 calls unpopulated: the spec gives no access there. Safe: the device goes no further. -/
  | unpopulated (pa : Nat)
  deriving DecidableEq, Repr

/-- Why there is no meaning. DESIGN CHOICE (log 2). -/
inductive Refusal where
  /-- Raised by an arm of exec whose instruction has no meaning yet, by its mnemonic. Safe. -/
  | notModelled (mnemonic : String)
  /-- Raised by an event of another agent in a state in which that event cannot occur (a team that is not
  parked cannot be unparked), by the event's name. Safe: such an agenda is no run of the device. -/
  | notEnabled (event : String)
  /-- Raised by an encoded instruction when no resident fragment is selected to issue it. Safe: an
  instruction exists only as the issue of a fragment. -/
  | noIssuingFragment
  deriving DecidableEq, Repr

/-! The state right after reset (R4, R381): power is on, the mask ROM waits for an image (STAGE 0), nothing runs. -/

namespace State

/-- A core as the reset leaves it. DESIGN CHOICE (log 6). -/
def resetCore : Core :=
  { lastClass := 0, run := 0, units := List.replicate 5 (.awake 0), laneFree := 0, loopBuf := [],
    engine := ⟨false, false, none, 0⟩, errors := [], alive := true }

/-- A cluster as the reset leaves it: level 0, as no team is resident (R355), aperture at CAP (R358).
DESIGN CHOICE (log 6). -/
def resetCluster : Cluster :=
  { cyclef := 0, lane2 := 0, level := 0, aperture := 16384, ramp := none, cores := List.replicate 8 resetCore,
    streams := [], spare := true, halted := false, preempt := [], shutAt := 0 }

/-- An interface as the reset leaves it: CAPLVL 2 (R357), drain limit 200 (R376). DESIGN CHOICE (log 5). -/
def resetVi : VirtIf :=
  { en := false, s2en := false, first := 0, count := 0, clm := 0, caplvl := 2, winbase := 0, smapbase := 0,
    tlbi0 := 0, tlbi1 := 0, tlbi2 := 0, drain := 200, vitvec := 0, prqbase := 0, prqlogn := 0, prqwr := 0,
    prqrd := 0, prqdone := 0, serial := 0, seq := 0 }

/-- The power registers' reset values (R357). DESIGN CHOICE (log 6). -/
def resetPower : Power :=
  { apcfg := BitVec.ofNat 64 (16384 * 2 ^ 24 + 3000 * 2 ^ 12), apcap := 16384,
    aw0 := BitVec.ofNat 64 (20 * 2 ^ 48 + 24 * 2 ^ 32 + 16 * 2 ^ 16 + 4),
    aw1 := BitVec.ofNat 64 (512 * 2 ^ 48 + 4096 * 2 ^ 32 + 8 * 2 ^ 16 + 12),
    shut0 := 0x88888642, shut1 := BitVec.ofNat 64 (128 * 2 ^ 16 + 2),
    govctl := BitVec.ofNat 64 (1000 * 2 ^ 54 + 1000 * 2 ^ 44 + 50 * 2 ^ 34 + 850 * 2 ^ 24 + 50000),
    govth := BitVec.ofNat 64 (700 * 2 ^ 10 + 550),
    dcf := List.replicate 16 (BitVec.ofNat 64 (1000 * 2 ^ 32)), dcv := List.replicate 16 (BitVec.ofNat 64 (1000 * 2 ^ 32)),
    p := 1000, used := 1000, shed := List.replicate 3 false, shedAt := List.replicate 3 0,
    okSince := List.replicate 3 none, badf := 0, gaps := 0, lastSeq := none, lastValid := none, lost := false }

/-- The pod block: ports closed, all lanes in service (R344, R346). DESIGN CHOICE (log 5). -/
def resetPod : Pod :=
  { podctl := 0, member := List.replicate 16 0, applied := List.replicate 16 0, swtbase := 0, crec := 0, crwr := 0,
    crrd := 0, lanes := List.replicate 18 4, spares := List.replicate 18 false, retrain := List.replicate 18 false, inUse := List.replicate 18 true,
    reqs := [], nextReq := 0, answers := [], reported := [] }

/-- Boot state: STAGE 0, no identity, nothing measured (R378 to R386). DESIGN CHOICE (log 5). -/
def resetBoot : Boot :=
  { powered := true, reset := false, stage := 0, err := 0, id := false, cores := 0, qcbbase := 0, ctxbase := 0,
    vallot := 0, mbcmd := 0, mbstat := 0, mbseq := 0, mbin := [], mbarg := [], meas := [], skseed := [], skprf := [],
    pkseed := [], pkroot := [], ident := [], bad := [], msix := [] }

/-- The package right after reset. DEDUCED (log 8). -/
def reset : State :=
  { agenda := [], slots := [], idle := 0, now := 0, mem := [],
    ms := { owner := [], poison := [], l1 := [], icache := [], tlb := [], walk := [], hostDirty := [] },
    teams := [], clusters := List.replicate 32 resetCluster, vis := List.replicate 64 resetVi, prq := [],
    sched := { cfg := [], lastGrant := [], lastRes := [], launches := [], nextLaunch := 0, nextTeam := 0, order := 0, vaultVi := [], allotHeld := [],
               reports := [] },
    pod := resetPod, pwr := resetPower, boot := resetBoot,
    ldr := { objects := [], cells := [], next := 1, results := [] }, replies := [] }

end State

end Sys2Proof.Machine
end

