-- ==== Sys2Proof/Machine/Sparse.lean ====
section
/-! DEFINITION. Reading and writing the sparse stores of State and of memory, in their one canonical form:
keys strictly rising, no zero word listed. -/

namespace Sys2Proof

variable {w : Nat}

/-- The word at a key; zero where the key is not listed. -/
def Sparse.get : Sparse w → Nat → BitVec w
  | [], _ => Sparse.absent w
  | (k, v) :: r, a => if a < k then Sparse.absent w else if a = k then v else Sparse.get r a

/-- A store without the entries at its front that have keys up to a. -/
def Sparse.above (a : Nat) : Sparse w → Sparse w
  | [] => []
  | (k, v) :: r => if k ≤ a then Sparse.above a r else (k, v) :: r

/-- The store with word x at key a: writing zero unlists the key. -/
def Sparse.set : Sparse w → Nat → BitVec w → Sparse w
  | [], a, x => if x = Sparse.absent w then [] else [(a, x)]
  | (k, v) :: r, a, x =>
    if a < k then (if x = Sparse.absent w then (k, v) :: r else (a, x) :: (k, v) :: r)
    else if a = k then (if x = Sparse.absent w then Sparse.above a r else (a, x) :: r)
    else (k, v) :: Sparse.set r a x

/-- The words xs at the keys from a up. -/
def Sparse.put : Sparse w → Nat → List (BitVec w) → Sparse w
  | s, _, [] => s
  | s, a, x :: xs => Sparse.put (s.set a x) (a + 1) xs

/-- The words at n keys from a up. -/
def Sparse.read (s : Sparse w) (a : Nat) : Nat → List (BitVec w)
  | 0 => []
  | n + 1 => s.get a :: s.read (a + 1) n

/-- Writes of several keys, in order. -/
def Sparse.setAll (s : Sparse w) : List (Nat × BitVec w) → Sparse w
  | [] => s
  | (a, x) :: r => (s.set a x).setAll r

/-- The canonical form, with every key at least lo. -/
def Sparse.wfFrom (lo : Nat) : Sparse w → Bool
  | [] => true
  | (k, v) :: r => decide (lo ≤ k) && !decide (v = Sparse.absent w) && Sparse.wfFrom (k + 1) r

/-- The canonical form. -/
def Sparse.wf (s : Sparse w) : Bool := s.wfFrom 0

/-- The keys that are listed. -/
def Sparse.keys (s : Sparse w) : List Nat := s.map (·.1)

namespace Machine

/-- The canonical form of memory. -/
def Memory.wf (m : Memory) : Bool := Sparse.wf (w := 8) m

/-- The byte at a device physical address. DESIGN CHOICE (log 7). -/
def Memory.byte (m : Memory) (pa : Nat) : Byte := Sparse.get (w := 8) m pa

/-- Bytes from a device physical address up. -/
def Memory.bytes (m : Memory) (pa n : Nat) : List Byte := Sparse.read (w := 8) m pa n

/-- Memory with bytes written from a device physical address up. -/
def Memory.write (m : Memory) (pa : Nat) (bs : List Byte) : Memory := Sparse.put (w := 8) m pa bs

end Machine

end Sys2Proof
end

