-- ==== Sys2Proof/Machine/Bits.lean ====
section
/-! DEFINITION. Bit fields, byte order, lane masks and integer conversions that the meanings share (R6 to R10). -/

namespace Sys2Proof.Machine

/-- Sign extension of a field to 64 bits. -/
def sext {w : Nat} (x : BitVec w) : DWord := BitVec.signExtend 64 x

/-- Zero extension of a field to 64 bits. -/
def zext {w : Nat} (x : BitVec w) : DWord := BitVec.setWidth 64 x

/-- 0 or 1 in a scalar register. -/
def bit (b : Bool) : DWord := if b then 1 else 0

/-- Bits lo to lo+n-1 of a word, as a number. -/
def field {w : Nat} (x : BitVec w) (lo n : Nat) : Nat := (x.extractLsb' lo n).toNat

/-- A word with bits lo to lo+n-1 replaced by the low n bits of v. -/
def setField {w : Nat} (x : BitVec w) (lo n v : Nat) : BitVec w :=
  let m := (BitVec.ofNat w (2 ^ n - 1)) <<< lo
  (x &&& ~~~m) ||| ((BitVec.ofNat w (v % 2 ^ n)) <<< lo)

/-- A data or code address: bits [56:0] (R113). -/
def addr57 (x : DWord) : DWord := x &&& BitVec.ofNat 64 (2 ^ 57 - 1)

/-- The bytes of a number, the least significant first (R7). -/
def toBytes : Nat → Nat → List Byte
  | 0, _ => []
  | n + 1, x => BitVec.ofNat 8 x :: toBytes n (x / 256)

/-- The number that bytes hold, the least significant first (R7). -/
def ofBytes : List Byte → Nat
  | [] => 0
  | b :: r => b.toNat + 256 * ofBytes r

/-- A little-endian field of a record: n bytes at an offset. -/
def leField (r : List Byte) (off n : Nat) : Nat := ofBytes ((r.drop off).take n)

/-- A record with the n-byte field at an offset replaced. -/
def setLe (r : List Byte) (off n v : Nat) : List Byte := r.take off ++ toBytes n v ++ r.drop (off + n)

/-- n zero bytes. -/
def zeroBytes (n : Nat) : List Byte := List.replicate n 0

/-- The bytes of a record at their offsets: fields in rising order, gaps filled with zeros, cut or padded
to n bytes. -/
def layBytes (n : Nat) (fields : List (Nat × List Byte)) : List Byte :=
  let r := fields.foldl (fun acc f => acc ++ zeroBytes (f.1 - acc.length) ++ f.2) []
  (r ++ zeroBytes (n - r.length)).take n

/-- The lane positions 0 to n-1. -/
def lanesUpTo (n : Nat) : LaneMask := BitVec.ofNat 1024 (2 ^ n - 1)

/-- Every lane position. -/
def allLanes : LaneMask := BitVec.allOnes 1024

/-- A mask from a test of each lane below n. -/
def maskOf (n : Nat) (p : Nat → Bool) : LaneMask :=
  BitVec.ofNat 1024 ((List.range n).foldl (fun acc l => if p l then acc + 2 ^ l else acc) 0)

/-- The lanes below n that a mask holds, in ascending order. -/
def lanesIn (n : Nat) (m : LaneMask) : List Nat := (List.range n).filter m.getLsbD

/-- The number of one bits. -/
def popCount {w : Nat} (x : BitVec w) : Nat := ((List.range w).filter x.getLsbD).length

/-- The number of zero bits above the highest one bit; the width when there is none. -/
def clz {w : Nat} (x : BitVec w) : Nat := if x.toNat = 0 then w else w - 1 - Nat.log2 x.toNat

/-- The largest integer whose square is at most x, by fuel steps of binary search between lo and hi. -/
def isqrtFrom : Nat → Nat → Nat → Nat → Nat
  | 0, _, lo, _ => lo
  | fuel + 1, x, lo, hi =>
    if hi ≤ lo + 1 then lo
    else if ((lo + hi) / 2) * ((lo + hi) / 2) ≤ x then isqrtFrom fuel x ((lo + hi) / 2) hi
    else isqrtFrom fuel x lo ((lo + hi) / 2)

/-- The largest integer whose square is at most x. -/
def isqrt (x : Nat) : Nat := isqrtFrom (Nat.log2 x + 2) x 0 (2 ^ (Nat.log2 x / 2 + 1))

/-- Element i of a list with one element replaced. -/
def setAt {α : Type} : List α → Nat → α → List α
  | [], _, _ => []
  | _ :: r, 0, y => y :: r
  | x :: r, i + 1, y => x :: setAt r i y

/-- The first position at which a test holds. -/
def findIdx {α : Type} (p : α → Bool) : List α → Option Nat
  | [] => none
  | x :: r => if p x then some 0 else (findIdx p r).map (· + 1)

/-- Looking a key up in a list of pairs. -/
def lookupKey {α : Type} (k : Nat) : List (Nat × α) → Option α
  | [] => none
  | (a, x) :: r => if a = k then some x else lookupKey k r

/-- A list of pairs with the value of a key set. -/
def setKey {α : Type} (k : Nat) (x : α) : List (Nat × α) → List (Nat × α)
  | [] => [(k, x)]
  | (a, y) :: r => if a = k then (k, x) :: r else (a, y) :: setKey k x r

end Sys2Proof.Machine
end

