-- ==== Sys2Proof/Machine/Float.lean ====
section
/-! DEFINITION. Number formats (R53 to R60), rounding (R61 to R64) and exact sums and products: a finite value is
(-1)^neg · m · 2^e with m a natural number, computed exactly and rounded once. -/

namespace Sys2Proof

open Machine

/-- A floating format (R54): width, exponent bits, fraction bits, bias. -/
structure Fmt where
  w    : Nat
  eb   : Nat
  fb   : Nat
  bias : Nat
  deriving DecidableEq, Repr

def fp32 : Fmt := ⟨32, 8, 23, 127⟩
def bf16 : Fmt := ⟨16, 8, 7, 127⟩
def fp16 : Fmt := ⟨16, 5, 10, 15⟩
def e4m3 : Fmt := ⟨8, 4, 3, 7⟩
def e5m2 : Fmt := ⟨8, 5, 2, 15⟩

/-- The element width of a type (R53); block formats by their element. -/
def ElemType.width : ElemType → Nat
  | .int32 | .uint32 | .fp32 => 32
  | .int16 | .uint16 | .bf16 | .fp16 => 16
  | .int8 | .uint8 | .e4m3 | .e5m2 | .bx8 => 8
  | .bx4 => 4

/-- The format of a floating type, none for the others. -/
def ElemType.fmt : ElemType → Option Fmt
  | .fp32 => some Sys2Proof.fp32 | .bf16 => some Sys2Proof.bf16 | .fp16 => some Sys2Proof.fp16
  | .e4m3 => some Sys2Proof.e4m3 | .e5m2 => some Sys2Proof.e5m2 | _ => none

def ElemType.isInt (t : ElemType) : Bool := decide (t.code.toNat < 6)
def ElemType.signed : ElemType → Bool
  | .int32 | .int16 | .int8 => true | _ => false
/-- The packing factor of a 32-bit register (R83, R164). -/
def ElemType.per (t : ElemType) : Nat := 32 / t.width

/-- E4M3 has no infinities (R54). -/
def Fmt.hasInf (f : Fmt) : Bool := f != e4m3
/-- The largest finite magnitude, as bits (R54). -/
def Fmt.maxBits (f : Fmt) : Nat := if f = e4m3 then 0x7E else ((2 ^ f.eb - 2) * 2 ^ f.fb) + 2 ^ f.fb - 1
def Fmt.infBits (f : Fmt) : Nat := (2 ^ f.eb - 1) * 2 ^ f.fb
/-- The canonical NaN, with sign 0 (R54, R55). -/
def Fmt.nan (f : Fmt) : Nat := if f = e4m3 then 0x7F else f.infBits + 2 ^ (f.fb - 1)
def Fmt.signBit (f : Fmt) (neg : Bool) : Nat := if neg then 2 ^ (f.w - 1) else 0
def Fmt.emin (f : Fmt) : Int := 1 - (f.bias : Int)

/-- A value: NaN, an infinity, or an exact number. -/
inductive FVal where
  | nan
  | inf (neg : Bool)
  | fin (neg : Bool) (m : Nat) (e : Int)
  deriving DecidableEq, Repr

def FVal.isNan : FVal → Bool | .nan => true | _ => false
def FVal.neg : FVal → FVal
  | .nan => .nan | .inf n => .inf (!n) | .fin n m e => .fin (!n) m e
def FVal.isZero : FVal → Bool | .fin _ 0 _ => true | _ => false
def FVal.sign : FVal → Bool | .nan => false | .inf n => n | .fin n _ _ => n

/-- The value of a bit pattern (R54). -/
def Fmt.decode (f : Fmt) (x : Nat) : FVal :=
  let neg := decide (2 ^ (f.w - 1) ≤ x % 2 ^ f.w)
  let e := x / 2 ^ f.fb % 2 ^ f.eb
  let m := x % 2 ^ f.fb
  if e = 2 ^ f.eb - 1 ∧ f.hasInf then (if m = 0 then .inf neg else .nan)
  else if e = 2 ^ f.eb - 1 ∧ m = 2 ^ f.fb - 1 then .nan
  else if e = 0 then .fin neg m (f.emin - f.fb)
  else .fin neg (2 ^ f.fb + m) ((e : Int) - f.bias - f.fb)

/-- A subnormal input is flushed to zero of the same sign (R58). -/
def Fmt.flushIn (f : Fmt) (ftz : Bool) (v : FVal) : FVal :=
  match v with
  | .fin neg m e => if ftz && decide (0 < m) && decide (m < 2 ^ f.fb) && decide (e = f.emin - f.fb) then .fin neg 0 e else v
  | _ => v

def Fmt.read (f : Fmt) (ftz : Bool) (x : Nat) : FVal := f.flushIn ftz (f.decode x)

/-- m · 2^e for e ≥ 0, floor otherwise: comparison and alignment. -/
def scaleUp (m : Nat) (e : Int) : Nat := m * 2 ^ e.toNat

/-- Rounding m · 2^-sh to an integer, and whether it is inexact (R61, R64). -/
def roundShift (rm : RoundMode) (x : Word) (neg : Bool) (m sh : Nat) : Nat × Bool :=
  let q := m / 2 ^ sh
  let r := m % 2 ^ sh
  if r = 0 then (q, false)
  else
    let up := match rm with
      | .rne => decide (2 ^ sh < 2 * r) || (decide (2 * r = 2 ^ sh) && decide (q % 2 = 1))
      | .rtz => false
      | .rdn => neg
      | .rup => !neg
      | .sr => decide (2 ^ 16 ≤ r * 2 ^ 16 / 2 ^ sh + x.toNat / 2 ^ 16)
    (if up then q + 1 else q, true)

/-- Flag bits of TFLAGS (R40). -/
def fInvalid : Nat := 1
def fDivZero : Nat := 2
def fOverflow : Nat := 4
def fUnderflow : Nat := 8
def fInexact : Nat := 16

/-- The result of an overflow (R62). -/
def Fmt.overflow (f : Fmt) (rm : RoundMode) (satf neg : Bool) : Nat :=
  let toMax := satf || (match rm with | .rtz => true | .rdn => !neg | .rup => neg | _ => false)
  if toMax then f.signBit neg + f.maxBits
  else if f.hasInf then f.signBit neg + f.infBits else f.nan

/-- Options of a rounding: mode, SR state, FTZ, and a slot's saturate bit. -/
structure Rnd where
  rm   : RoundMode
  x    : Word
  ftz  : Bool
  satf : Bool
  deriving DecidableEq, Repr

def rne : Rnd := ⟨.rne, 0, false, false⟩

/-- The largest finite value exceeded by m · 2^e. -/
def Fmt.beyond (f : Fmt) (m : Nat) (e : Int) : Bool :=
  match f.decode f.maxBits with
  | .fin _ mm me => if me ≤ e then decide (mm < scaleUp m (e - me)) else decide (scaleUp mm (me - e) < m)
  | _ => false

/-- Round of an exact value to a format: its bits and the flags it raises (R57, R58, R61 to R64). -/
def Fmt.round (f : Fmt) (o : Rnd) : FVal → Nat × Nat
  | .nan => (f.nan, 0)
  | .inf neg => if f.hasInf then (f.signBit neg + f.infBits, 0)
      else if o.satf then (f.signBit neg + f.maxBits, fInvalid) else (f.nan, fInvalid)
  | .fin neg m e =>
    if m = 0 then (f.signBit neg, 0)
    else
      let top : Int := (Nat.log2 m : Int) + e
      let q : Int := max top f.emin - f.fb
      let (k, inex) := if q ≤ e then (scaleUp m (e - q), false) else roundShift o.rm o.x neg m (q - e).toNat
      if f.beyond k q then (f.overflow o.rm o.satf neg, fOverflow + fInexact)
      else
        let uq : Int := top - f.fb
        let tiny := decide (top < f.emin) && inex &&
          (let k' := if uq ≤ e then scaleUp m (e - uq) else (roundShift o.rm o.x neg m (uq - e).toNat).1
           decide ((Nat.log2 k' : Int) + uq < f.emin))
        let fl := (if inex then fInexact else 0) + (if tiny then fUnderflow else 0)
        if k < 2 ^ f.fb then
          if o.ftz && decide (0 < k) then (f.signBit neg, fUnderflow + fInexact) else (f.signBit neg + k, fl)
        else (f.signBit neg + (q + f.fb + f.bias).toNat * 2 ^ f.fb + (k - 2 ^ f.fb), fl)

/-! Exact arithmetic. A result carries the invalid flag that it raises. -/

/-- A product; 0 × ∞ is none. -/
def FVal.mul : FVal → FVal → Option FVal
  | .nan, _ | _, .nan => some .nan
  | .inf a, .inf b => some (.inf (a != b))
  | .inf a, .fin b m _ | .fin b m _, .inf a => if m = 0 then none else some (.inf (a != b))
  | .fin a m e, .fin b n k => some (.fin (a != b) (m * n) (e + k))

/-- A finite value as an integer at a common exponent. -/
def atExp (k : Int) : FVal → Int
  | .fin neg m e => if neg then -(scaleUp m (e - k) : Int) else (scaleUp m (e - k) : Int)
  | _ => 0

def minExp : List FVal → Int
  | [] => 0
  | [.fin _ _ e] => e
  | .fin _ _ e :: r => min e (minExp r)
  | _ :: r => minExp r

/-- The exact sum of terms, none for opposing infinities (R55); zero sums take their sign by R61. -/
def sumExact (rm : RoundMode) (xs : List FVal) : Option FVal :=
  if xs.any FVal.isNan then some .nan
  else
    let infs := xs.filter fun v => match v with | .inf _ => true | _ => false
    match infs with
    | i :: r => if r.all (· == i) then some i else none
    | [] =>
      let k := minExp xs
      let s := xs.foldl (fun acc v => acc + atExp k v) (0 : Int)
      if s = 0 then
        let neg := if xs.all fun v => v.isZero && v.sign then !xs.isEmpty
          else if xs.all fun v => v.isZero && !v.sign then false
          else rm == .rdn
        some (.fin neg 0 0)
      else some (.fin (decide (s < 0)) s.natAbs k)

/-- The sum of exact products and terms, with the invalid flag: a NaN operand takes precedence (R55). -/
def sumProducts (rm : RoundMode) (ps : List (FVal × FVal)) (ts : List FVal) : FVal × Nat :=
  if ps.any (fun p => p.1.isNan || p.2.isNan) || ts.any FVal.isNan then (.nan, 0)
  else
    let prods := ps.map fun p => p.1.mul p.2
    if prods.any Option.isNone then (.nan, fInvalid)
    else match sumExact rm (prods.filterMap id ++ ts) with
      | some v => (v, 0)
      | none => (.nan, fInvalid)

/-- Round of a value that may carry invalid: an invalid result does not also set inexact (R57). -/
def Fmt.roundI (f : Fmt) (o : Rnd) (v : FVal × Nat) : Nat × Nat :=
  let (b, fl) := f.round o v.1
  if v.2 = 0 then (b, fl) else (b, v.2)

/-! Comparison and minimum (R56, R156). -/

/-- Less-than of two values that are not NaN. -/
def FVal.lt : FVal → FVal → Bool
  | .nan, _ | _, .nan => false
  | .inf a, .inf b => a && !b
  | .inf a, .fin _ _ _ => a
  | .fin _ _ _, .inf b => !b
  | x@(.fin _ _ e), y@(.fin _ _ k) => decide (atExp (min e k) x < atExp (min e k) y)

def FVal.eq (x y : FVal) : Bool := !x.isNan && !y.isNan && !x.lt y && !y.lt x

/-- -0 orders below +0 in a minimum or maximum (R56). -/
def FVal.below (x y : FVal) : Bool := x.lt y || (x.isZero && y.isZero && x.sign && !y.sign)

/-- MIN and MAX over bit patterns of one format (R56). -/
def Fmt.minMax (f : Fmt) (max_ : Bool) (ftz : Bool) (a b : Nat) : Nat :=
  let x := f.read ftz a
  let y := f.read ftz b
  let out := fun (v : FVal) => (f.round rne v).1
  if x.isNan then (if y.isNan then f.nan else out y)
  else if y.isNan then out x
  else if (if max_ then x.below y else y.below x) then out y else out x

/-! Integers (R60). -/

/-- The value of an integer element. -/
def ElemType.int (t : ElemType) (x : Nat) : Int :=
  let x := x % 2 ^ t.width
  if t.signed && decide (2 ^ (t.width - 1) ≤ x) then (x : Int) - (2 ^ t.width : Nat) else x

def ElemType.intMin (t : ElemType) : Int := if t.signed then -((2 ^ (t.width - 1) : Nat) : Int) else 0
def ElemType.intMax (t : ElemType) : Int :=
  if t.signed then ((2 ^ (t.width - 1) : Nat) : Int) - 1 else ((2 ^ t.width : Nat) : Int) - 1

/-- The bit pattern of an integer modulo 2^w. -/
def wrapTo (w : Nat) (x : Int) : Nat := (x % ((2 ^ w : Nat) : Int)).toNat

/-- Sat (R60). -/
def ElemType.satInt (t : ElemType) (x : Int) : Int := max t.intMin (min t.intMax x)

/-- An integer result: wrapped, or saturated. -/
def ElemType.fit (t : ElemType) (sat : Bool) (x : Int) : Nat := wrapTo t.width (if sat then t.satInt x else x)

/-- An exact number as a value. -/
def ofInt (x : Int) : FVal := .fin (decide (x < 0)) x.natAbs 0

/-- Float to integer: rounded, then saturated; NaN gives 0 (R60, R163). -/
def ElemType.ofFloat (t : ElemType) (o : Rnd) : FVal → Nat × Nat
  | .nan => (0, fInvalid)
  | .inf neg => (wrapTo t.width (if neg then t.intMin else t.intMax), fInvalid)
  | .fin neg m e =>
    let (k, inex) := if 0 ≤ e then (scaleUp m e, false) else roundShift o.rm o.x neg m (-e).toNat
    let v : Int := if neg then -(k : Int) else k
    if v < t.intMin then (wrapTo t.width t.intMin, fInvalid)
    else if t.intMax < v then (wrapTo t.width t.intMax, fInvalid)
    else (wrapTo t.width v, if inex then fInexact else 0)

/-- An element of any type 0 to 10 as a value. -/
def ElemType.value (t : ElemType) (ftz : Bool) (x : Nat) : FVal :=
  match t.fmt with
  | some f => f.read ftz x
  | none => ofInt (t.int x)

/-- Conversion of an element to a target type (R163): its bits and flags. -/
def convert (src dst : ElemType) (o : Rnd) (x : Nat) : Nat × Nat :=
  match dst.fmt with
  | some f => f.round o (src.value o.ftz x)
  | none =>
    match src.fmt with
    | some f => dst.ofFloat o (f.read o.ftz x)
    | none => (wrapTo dst.width (dst.satInt (src.int x)), 0)

/-! Packed elements (R53). -/

/-- Element e of a register, of width w. -/
def elem (w : Nat) (x : Word) (e : Nat) : Nat := x.toNat / 2 ^ (w * e) % 2 ^ w

/-- A register from its elements. -/
def pack (w : Nat) (xs : List Nat) : Word :=
  BitVec.ofNat 32 ((xs.foldr (fun x acc => x % 2 ^ w + 2 ^ w * acc) 0))

/-! Stochastic rounding (R63). -/

/-- The state of a lane after seeding. -/
def srSeed (seed : Word) (l : Nat) : Word :=
  let x := seed ^^^ (0x9E3779B9 * BitVec.ofNat 32 (l + 1))
  if x = 0 then 1 else x

/-- One step of a lane's generator. -/
def srStep (x : Word) : Word :=
  let x := x ^^^ (x <<< 13)
  let x := x ^^^ (x >>> 17)
  x ^^^ (x <<< 5)

end Sys2Proof
end

