-- ==== Sys2Proof/Machine/Flags.lean ====
section
/-! DEFINITION. The flags of TFLAGS (R40, R57): their bits, and how an instruction or an operation raises them. The flags
of a result are computed with it: by the rounding of Float.lean, by the atomics of Atom.lean, by the engines. -/

namespace Sys2Proof.Machine

/-- The bits of TFLAGS (R40). -/
def flagInvalid : Nat := 1
def flagDivZero : Nat := 2
def flagOverflow : Nat := 4
def flagUnderflow : Nat := 8
def flagInexact : Nat := 16
def flagProbe : Nat := 32
def flagMiss : Nat := 64
def flagRemote : Nat := 128

/-- TFLAGS bits are sticky (R40, R57). -/
def Team.setFlags (t : Team) (bits : Nat) : Team :=
  { t with sys.tflags := t.sys.tflags ||| BitVec.ofNat 64 bits }

end Sys2Proof.Machine
end

