-- ==== Sys2Proof/Machine/Ops.lean ====
section
/-! DEFINITION. The operations over registers and control state that the meanings share: teams, registers and the
bypass, lookahead windows, taking an exception and returning from one, the replay log, and the issue of an
instruction. -/

namespace Sys2Proof.Machine

/-! Teams. -/

/-- The team with an id. -/
def State.team? (s : State) (id : Nat) : Option Team := s.teams.find? (·.id == id)

/-- The state with a team's record replaced, found by its id. -/
def State.setTeam (s : State) (t : Team) : State :=
  { s with teams := s.teams.map fun u => if u.id == t.id then t else u }

/-! MODE (R32). -/

def Team.mode (t : Team) : Word := t.regs.mode
/-- Guard predicate. -/
def Team.gp (t : Team) : Nat := field t.mode 0 4
/-- Element type; MODE never holds a reserved code, and 13 to 15 read as INT32 here. -/
def modeType (m : Word) : ElemType := (ElemType.ofCode (m.extractLsb' 4 4)).getD .int32
def Team.et (t : Team) : ElemType := modeType t.mode
def modeRound (m : Word) : RoundMode :=
  match field m 8 3 with | 1 => .rtz | 2 => .rdn | 3 => .rup | 4 => .sr | _ => .rne
def Team.rm (t : Team) : RoundMode := modeRound t.mode
def Team.ftz (t : Team) : Bool := t.mode.getLsbD 11
def Team.sat (t : Team) : Bool := t.mode.getLsbD 12
def Team.rp (t : Team) : Nat := field t.mode 13 4
def Team.sp (t : Team) : Nat := field t.mode 17 4
def Team.probe (t : Team) : Bool := t.mode.getLsbD 21
/-- Whether a MODE value holds nothing reserved (R32). -/
def modeLegal (m : Word) : Bool :=
  decide (field m 22 10 = 0) && decide (field m 8 3 ≤ 4) && decide (field m 4 4 ≤ 12)

/-! Lanes and fragments. -/

/-- Present lanes: 32·H (R18). -/
def Team.nLanes (t : Team) : Nat := 32 * t.const.h
def freeFrag : Frag := ⟨0, 0, 0, 0, .free, [], false⟩
def Team.frag (t : Team) (i : Nat) : Frag := t.ctl.frags.getD i freeFrag
def Team.setFrag (t : Team) (i : Nat) (f : Frag) : Team := { t with ctl.frags := setAt t.ctl.frags i f }
def Frag.live (f : Frag) : Bool := f.st != .free
/-- The number of live fragments. -/
def Team.liveCount (t : Team) : Nat := (t.ctl.frags.filter Frag.live).length
/-- Whether the team is split: it has more than one live fragment (R36). DEDUCED (log 54). -/
def Team.split (t : Team) : Bool := decide (1 < t.liveCount)
/-- The team's mask: the OR of its live fragments' masks (R37). -/
def Team.mask (t : Team) : LaneMask :=
  t.ctl.frags.foldl (fun m f => if f.live then m ||| f.mask else m) 0
/-- The first free split-table entry. -/
def Team.freeEntry (t : Team) : Option Nat := findIdx (fun f => !f.live) t.ctl.frags

/-- Link-stack depth, spilled entries counted. -/
def Team.linkDepth (t : Team) : Nat := t.ctl.link.length + t.ctl.spilled

/-! Registers. -/

/-- S[n]: S0 reads zero (R27). -/
def Team.readS (t : Team) (n : Nat) : DWord := if n = 0 then 0 else t.regs.s.get n
/-- A write to S0 is discarded (R27). -/
def Team.writeS (t : Team) (n : Nat) (x : DWord) : Team :=
  if n = 0 then t else { t with regs.s := t.regs.s.set n x }
/-- P[n]: P0 reads one in every lane (R28). -/
def Team.readP (t : Team) (n : Nat) : LaneMask := if n = 0 then allLanes else t.regs.p.get n
/-- A write to P0 is discarded (R28). -/
def Team.writeP (t : Team) (n : Nat) (x : LaneMask) : Team :=
  if n = 0 then t else { t with regs.p := t.regs.p.set n x }
/-- The bits of the lanes of a mask replaced in P[n]. -/
def Team.writePIn (t : Team) (n : Nat) (mask x : LaneMask) : Team :=
  t.writeP n ((t.readP n &&& ~~~mask) ||| (x &&& mask))
def Team.readG (t : Team) (n : Nat) : QWord := t.regs.g.get n
def Team.writeG (t : Team) (n : Nat) (x : QWord) : Team := { t with regs.g := t.regs.g.set n x }

/-- The most recent transient result: that of the latest producer (R26). DESIGN CHOICE (log 75). -/
def latest : List Transient → Option Transient
  | [] => none
  | x :: r => match latest r with
    | some y => if x.producer < y.producer then some y else some x
    | none => some x

/-- Whether one of the three instructions before number n produced the result (R26). -/
def Transient.liveAt (x : Transient) (n : Nat) : Bool := decide (n ≤ x.producer + 3)

/-- V127 in a lane (R26). -/
def Team.readBypass (t : Team) (l : Nat) : Word :=
  match latest t.iss.bypass with
  | some x => if x.liveAt t.iss.issued then x.lanes.get l else 0
  | none => 0

/-- V[n] in a lane. -/
def Team.readV (t : Team) (n l : Nat) : Word :=
  if n = 127 then t.readBypass l else t.regs.v.get (1024 * n + l)

/-- A result in V[n], in the lanes of a list of pairs (lane, value); a write to V127 is transient, and its
other lanes hold zero (R26). -/
def Team.writeV (t : Team) (n : Nat) (xs : List (Nat × Word)) : Team :=
  if n = 127 then { t with iss.bypass := ⟨t.iss.issued, Sparse.setAll [] xs⟩ :: t.iss.bypass }
  else { t with regs.v := t.regs.v.setAll (xs.map fun x => (1024 * n + x.1, x.2)) }

/-- Whether a transient value is live before the next issue. -/
def Team.transientLive (t : Team) : Bool := t.iss.bypass.any (·.liveAt t.iss.issued)

/-- The predicate-stack top of a fragment: the base at depth 0 reads as one (R35). -/
def Team.stackTop (t : Team) (f : Frag) : LaneMask :=
  if f.depth = 0 then allLanes else t.ctl.pstk.get f.depth

/-- The lanes of a fragment whose predicate-stack top is one. -/
def Team.topLanes (t : Team) (f : Frag) : LaneMask := f.mask &&& t.stackTop f

/-- Guard (R146): present (R18), active, stack top one, and guard predicate one. -/
def Team.guard (t : Team) (f : Frag) : LaneMask := t.topLanes f &&& t.readP t.gp &&& lanesUpTo t.nLanes

/-! Lookahead windows (R50 to R52). -/

/-- One write of a window that closes. A value for V127 belongs to the load's transient result. -/
def Team.closeWrite (t : Team) (producer : Nat) : WinWrite → Team
  | .s d x => t.writeS d.toNat x
  | .v reg l m x =>
    if reg = 127 then
      let upd := fun (b : Transient) => if b.producer = producer then { b with lanes := b.lanes.set l (x &&& m) } else b
      if t.iss.bypass.any (·.producer == producer) then { t with iss.bypass := t.iss.bypass.map upd }
      else { t with iss.bypass := ⟨producer, Sparse.set [] l (x &&& m)⟩ :: t.iss.bypass }
    else
      let k := 1024 * reg + l
      { t with regs.v := t.regs.v.set k ((t.regs.v.get k &&& ~~~m) ||| (x &&& m)) }

def Team.closeWindow (t : Team) (w : Window) : Team :=
  w.writes.foldl (fun t x => t.closeWrite w.opened x) t

/-- A value of n bytes, sign-extended to 64 bits. -/
def sextBytes (n : Nat) (bs : List Byte) : DWord := (BitVec.ofNat (8 * n) (ofBytes bs)).signExtend 64

/-- A value zero-extended to 64 bits. -/
def zextBytes (bs : List Byte) : DWord := BitVec.ofNat 64 (ofBytes bs)

/-- What a load writes with the bytes of one access (R121, R184, R188, R192). -/
def LoadDest.put (bs : List Byte) : LoadDest → List WinWrite
  | .s d signed => [.s d (if signed then sextBytes bs.length bs else zextBytes bs)]
  | .v reg lane signed =>
    let x := if signed then sextBytes bs.length bs else zextBytes bs
    .v reg lane (BitVec.allOnes 32) (x.setWidth 32) ::
      (if bs.length = 8 then [.v (reg + 1) lane (BitVec.allOnes 32) (x.extractLsb' 32 32)] else [])
  | .elem reg lane shift mask => [.v reg lane mask (BitVec.ofNat 32 (ofBytes bs) <<< shift)]

/-- What a window writes, the parts still to come included. -/
def Window.allWrites (w : Window) : List WinWrite :=
  w.writes ++ w.waits.flatMap fun p => p.dest.put (p.known.map (·.getD 0))

/-- Windows in the order in which they close: by their close, then by issue (R51). -/
def insertWindow (w : Window) : List Window → List Window
  | [] => [w]
  | x :: r => if w.closeAt < x.closeAt ∨ (w.closeAt = x.closeAt ∧ w.opened < x.opened) then w :: x :: r else x :: insertWindow w r

def sharesDest (a b : Window) : Bool :=
  a.allWrites.any fun x => b.allWrites.any fun y =>
    match x, y with
    | .s d _, .s e _ => d == e
    | .v r l _ _, .v q k _ _ => r == q && l == k
    | _, _ => false

/-- The windows that close no later than `at_` because a later one with the same destination does, `pulled` of which are known:
of windows on one destination the earlier closes first (R51). -/
def pullWindows (at_ : Nat) : Nat → List Window → List Window → List Window
  | 0, _, ws => ws
  | n + 1, pulled, ws =>
    let hit := fun (x : Window) => decide (at_ < x.closeAt) && pulled.any fun y => decide (x.opened < y.opened) && sharesDest x y
    let more := (ws.filter hit).map fun x => { x with closeAt := at_ }
    if more.isEmpty then ws else pullWindows at_ n more (ws.map fun x => if hit x then { x with closeAt := at_ } else x)

/-- Opening a window keeps the list in closing order. An earlier window on a destination that a later one
also writes is taken along when the later one closes before it, so that the two close in issue order (R51).
DESIGN CHOICE (log 75). -/
def Team.openWindow (t : Team) (w : Window) : Team :=
  { t with iss.windows := insertWindow w ((pullWindows w.closeAt t.iss.windows.length [w] t.iss.windows).foldl
      (fun acc x => insertWindow x acc) []) }

/-- The windows whose count has run out before instruction number n issues. -/
def dueWindows (t : Team) : List Window := t.iss.windows.filter (fun w => decide (w.closeAt ≤ t.iss.issued))

/-- Whether a window that is due still waits for bytes: until they come the team issues nothing (R50). -/
def Team.windowWaits (t : Team) : Bool := (dueWindows t).any fun w => !w.waits.isEmpty

/-- The windows close in order, up to one that still waits for bytes. -/
def Team.closeFirst (t : Team) : List Window → Team
  | [] => { t with iss.windows := [] }
  | w :: r => if w.waits.isEmpty then (t.closeWindow w).closeFirst r else { t with iss.windows := w :: r }

/-- The due windows close. -/
def Team.closeDue (t : Team) : Team :=
  let t' := t.closeFirst (dueWindows t)
  { t' with iss.windows := t'.iss.windows ++ t.iss.windows.filter (fun w => decide (t.iss.issued < w.closeAt)) }

/-- Every open window closes at once (R52): one that waits for bytes is due, and closes when they come, before anything more
of the team issues. -/
def Team.closeAll (t : Team) : Team :=
  t.closeFirst (t.iss.windows.map fun w => { w with closeAt := min w.closeAt t.iss.issued })

/-- Whether a team holds a core's resources (R317). -/
def Life.holds : Life → Bool | .resident | .stopped | .ended => true | _ => false

/-! Traps (R259 to R266). -/

/-- Trap mode: TCAUSE.TM. -/
def Team.tm (t : Team) : Bool := t.sys.tcause.getLsbD 9
/-- The restart point: REGPC, or the role's entry point (R44). -/
def Team.restartPc (t : Team) : DWord := if t.rep.kentry then t.const.entry else t.sys.regpc
def Team.kentryBit (t : Team) : DWord := if t.rep.kentry then 1 <<< 63 else 0

/-- The kinds of R262: precise with its TPC, region-precise, resumable with its TPC (R232). -/
inductive TrapKind where
  | precise (tpc : DWord)
  | region
  | resumable (tpc : DWord)
  deriving DecidableEq, Repr

/-- Taking a trap (R259 to R261): windows close, the saved registers are written and the fragment enters the
vector; a second trap stops the team and is kept in its double-trap record. `pc` is the PC of the trapping
fragment. -/
def Team.takeTrap (t : Team) (fi : Nat) (cause : BitVec 8) (tinfo : DWord) (kind : TrapKind) : Team :=
  let t := { t.closeAll with iss.begun := none, iss.charge := none }
  let f := t.frag fi
  let rp := match kind with
    | .region => true
    | .precise _ => t.transientLive
    | .resumable _ => false
  if t.tm then
    { t with iss.dtrap := ⟨cause, f.pc, if rp then tinfo ||| t.kentryBit else tinfo, false⟩, iss.withheld := none,
             sched.life := .stopped }
  else
    let tpc := match kind with
      | .region => t.restartPc
      | .precise p => if rp then t.restartPc else p
      | .resumable p => p
    let c := cause.toNat
    { t with
      sys.tcause := BitVec.ofNat 64 (512 + (if rp then 256 else 0) + c),
      sys.tpc := tpc,
      sys.tinfo := if rp then tinfo ||| t.kentryBit else tinfo,
      ctl.frags := setAt t.ctl.frags fi { f with pc := addr57 (t.sys.tvec + BitVec.ofNat 64 (64 * c)) },
      iss.trapFrag := some fi,
      iss.withheld := none }

/-- Restart of the control state at a region entry or kernel entry (R45, R265, R266): one fragment with a mask at
a PC, at level 0. -/
def oneFrag (mask : LaneMask) (pc : DWord) (depth : Nat) : List Frag :=
  ⟨mask, pc, depth, 0, .running, [], false⟩ :: List.replicate 7 freeFrag

/-- Popping the link stack down to a depth: hardware entries go first, then spilled ones, LSP falling by 8 for
each (R34, R265). -/
def Team.popLinkTo (t : Team) (d : Nat) : Team :=
  let drop := t.linkDepth - d
  let hw := min drop t.ctl.link.length
  let sp := drop - hw
  { t with ctl.link := t.ctl.link.drop hw, ctl.spilled := t.ctl.spilled - sp,
           sys.lsp := addr57 (t.sys.lsp - BitVec.ofNat 64 (8 * sp)) }

def noFuse : List (Option DWord) := List.replicate 8 none

/-- Engine operations that a tile-fetch fault suspended may start again (R232, R264). -/
def Team.resumeEngine (t : Team) : Team :=
  { t with eng.q5 := t.eng.q5.map fun o => { o with suspended := none } }

/-- Return from a trap (R264 to R266), in trap mode. -/
def Team.eret (t : Team) (fi : Nat) : Team :=
  let t := { t.resumeEngine with iss.trapFrag := none, sys.tcause := t.sys.tcause &&& ~~~(512 : DWord) }
  if t.sys.tcause.getLsbD 8 then
    if t.sys.tinfo.getLsbD 63 then
      let t := t.popLinkTo 0
      { t with
        ctl.frags := oneFrag (lanesUpTo t.nLanes) t.sys.tpc 0, ctl.fuse := noFuse, ctl.pend := none,
        ctl.loop := [], ctl.rloop := [], iss.bypass := [], iss.begun := none,
        sys.regpc := t.const.entry, rep := ⟨[], 0, ⟨lanesUpTo t.nLanes, 0, 0, none⟩, false, t.ctl.splits⟩ }
    else
      let sn := t.rep.snap
      let t := t.popLinkTo sn.linkDepth
      { t with
        ctl.frags := oneFrag sn.mask t.sys.tpc sn.depth, ctl.fuse := noFuse, ctl.pend := sn.pend,
        ctl.loop := t.ctl.rloop, iss.bypass := [], iss.begun := none, rep.consumed := 0 }
  else t.setFrag fi { t.frag fi with pc := t.sys.tpc }

/-! Fusing (R37). -/

/-- The entries of the live fragments that descend from a split. -/
def Team.groupOf (t : Team) (id : Nat) : List Nat :=
  (List.range 8).filter fun i => (t.frag i).live && (t.frag i).path.any (·.1 == id)

/-- Fusing the fragments of a split when each waits at its fuse address; the fused fragment's entry. -/
def Team.fuse? (t : Team) (id : Nat) : Option (Team × Nat) :=
  let g := t.groupOf id
  match g with
  | [] => none
  | lead :: _ =>
    if g.all fun i => (t.frag i).st == .waiting && (t.frag i).path.head?.map (·.1) == some id then
      let f := t.frag lead
      let mask := g.foldl (fun m i => m ||| (t.frag i).mask) 0
      let merged : Frag := ⟨mask, f.pc, ((f.path.head?.map (·.2)).getD 0), f.level - 1, .running, f.path.drop 1, false⟩
      let frags := g.foldl (fun fs i => setAt fs i freeFrag) t.ctl.frags
      let alone := frags.all fun x => !x.live
      let at_ := if alone then 0 else lead
      let frags := setAt frags at_ merged
      let fuse := if frags.any fun x => x.live && decide (f.level ≤ x.level) then t.ctl.fuse
        else setAt t.ctl.fuse (f.level - 1) none
      some ({ t with ctl.frags := frags, ctl.fuse := fuse,
                     rep.kentry := t.rep.kentry || decide (id < t.rep.splits) }, at_)
    else none

/-- What a fragment does when its PC has changed: it stops at the fuse address of its level, traps there when its
predicate-stack depth is not the splitter's, and fuses with the others that wait (R37, R131). -/
def Team.settle : Nat → Team → Nat → Team
  | 0, t, _ => t
  | n + 1, t, i =>
    let f := t.frag i
    match f.st, f.path with
    | .running, (id, d) :: _ =>
      if t.ctl.fuse.getD (f.level - 1) none = some f.pc then
        if f.depth = d then
          let t := t.setFrag i { f with st := .waiting }
          match t.fuse? id with
          | some (t', j) => Team.settle n t' j
          | none => t
        else t.takeTrap i (if d < f.depth then 0x02 else 0x03) 2 (.precise f.pc)
      else t
    | _, _ => t

/-- A fragment that is left alone takes split-table entry 0 (R36). -/
def Team.alone (t : Team) : Team :=
  match findIdx Frag.live t.ctl.frags with
  | some i => if t.liveCount = 1 ∧ i ≠ 0 then (t.setFrag i freeFrag).setFrag 0 (t.frag i) else t
  | none => t

/-- Fusing after a fragment has ended: the splits it descended from are looked at, the innermost first. -/
def Team.fuseAfterEnd : Team → List (Nat × Nat) → Team
  | t, [] => t
  | t, (id, _) :: r =>
    match t.fuse? id with
    | some (t', j) => t'.settle 9 j
    | none => if t.groupOf id = [] then t.fuseAfterEnd r else t

/-! The loop stack (R133). -/

/-- The PC after the instruction at `pc`, which transfers no control. -/
def Team.advancePc : Nat → Team → DWord → Team × DWord
  | 0, t, pc => (t, pc + 4)
  | n + 1, t, pc =>
    match t.ctl.loop with
    | e :: r =>
      if !t.tm && decide (e.last = pc) && decide (e.linkDepth = t.linkDepth) then
        if t.split then ({ t with ctl.loop := r }, e.last + 4)
        else if 1 < e.remaining.toNat then
          ({ t with ctl.loop := { e with remaining := e.remaining - 1 } :: r }, e.first)
        else
          match r with
          | e' :: _ => if decide (e'.last = pc) && decide (e'.linkDepth = t.linkDepth)
              then Team.advancePc n { t with ctl.loop := r } pc else ({ t with ctl.loop := r }, e.last + 4)
          | [] => ({ t with ctl.loop := r }, e.last + 4)
      else (t, pc + 4)
    | [] => (t, pc + 4)

/-- Whether an address lies in the body of a loop entry. -/
def LoopEntry.inBody (e : LoopEntry) (pc : DWord) : Bool :=
  decide (e.first.toNat ≤ pc.toNat) && decide (pc.toNat ≤ e.last.toNat)

/-- The entries that a taken transfer to `target` at link depth d leaves (R133). -/
def leaveLoops (d : Nat) (target : DWord) : List LoopEntry → List LoopEntry
  | [] => []
  | e :: r => if decide (e.linkDepth = d) && !e.inBody target then leaveLoops d target r else e :: r

/-- The loop entries that stay when a RET leaves the link depth d: one of a greater depth goes with every entry inside it (R133). -/
def dropDeeper (d : Nat) : List LoopEntry → List LoopEntry
  | [] => []
  | e :: r => if (e :: r).any (fun x => decide (d < x.linkDepth)) then dropDeeper d r else e :: r

/-! The replay log (R46 to R49). -/

/-- The control snapshot of a region entry (R44). -/
def Team.takeSnapshot (t : Team) (f : Frag) : Snapshot := ⟨t.mask, f.depth, t.linkDepth, t.ctl.pend⟩

/-- A new region entry: REGPC, snapshot, an empty log and the loop copy (R43, R49, R133). -/
def Team.openRegion (t : Team) (f : Frag) (pc : DWord) : Team :=
  { t with sys.regpc := pc, ctl.rloop := t.ctl.loop,
           rep := ⟨[], 0, t.takeSnapshot f, false, t.ctl.splits⟩,
           iss.windows := t.iss.windows.map fun w => { w with waits := w.waits.map fun p => { p with log := none } } }

/-- What the log says of the effect that is about to issue (R48, R49). -/
inductive LogStep where
  /-- Perform it. -/
  | perform (t : Team)
  /-- Take its results from an entry. -/
  | replay (t : Team) (e : LogEntry)
  /-- The next entry is another effect's: the fragment waits. -/
  | wait (t : Team)

/-- Making room for one more entry: the seventeenth effect opens a new region at its own PC, or in a split team
makes the kernel entry the restart point (R49). DEDUCED (log 55). -/
def Team.makeRoom (t : Team) (fi : Nat) : Team :=
  if t.rep.log.length < 16 then t
  else if t.split then { t with rep.kentry := true }
  else t.openRegion (t.frag fi) (t.frag fi).pc

def Team.clearReplayMarks (t : Team) : Team :=
  { t with ctl.frags := t.ctl.frags.map fun f => { f with replay := false } }

/-- Looking the log up for an effect at the fragment's PC. In trap mode effects are performed and not logged
(R261). -/
def Team.logStep (t : Team) (fi : Nat) : LogStep :=
  if t.tm then .perform t
  else match t.rep.log[t.rep.consumed]? with
    | none => .perform (t.makeRoom fi)
    | some e =>
      let f := t.frag fi
      if e.pc = f.pc then
        if e.failed then .perform t
        else .replay { t.clearReplayMarks with rep.consumed := t.rep.consumed + 1 } e
      else
        let t := t.setFrag fi { f with replay := true }
        if t.ctl.frags.all fun g => !g.live || g.st == .waiting || g.replay then
          let t := { t.clearReplayMarks with rep.log := t.rep.log.take t.rep.consumed }
          .perform (t.makeRoom fi)
        else .wait t

/-- Recording an effect that has been performed or issued (R47): a failed entry is logged anew in its place. -/
def Team.record (t : Team) (fi : Nat) (data : List Byte) (serial : Nat := 0) (kreg : Option Nat := none) : Team :=
  let f := t.frag fi
  let e : LogEntry := ⟨f.pc, f.mask, data, false, serial, kreg⟩
  if t.tm then t
  else if t.rep.consumed < t.rep.log.length then
    { t.clearReplayMarks with rep.log := setAt t.rep.log t.rep.consumed e, rep.consumed := t.rep.consumed + 1 }
  else if t.rep.log.length < 16 then
    { t with rep.log := t.rep.log ++ [e], rep.consumed := t.rep.consumed + 1 }
  else t

/-! Issue. -/

/-- What the issue of an instruction comes to. The state and team are those after its effect. -/
inductive Effect where
  /-- It goes on at the next instruction, or as the loop stack says. -/
  | next (s : State) (t : Team)
  /-- Control goes to a target: a taken branch, jump or return. `d` is the link depth at its issue. -/
  | jump (s : State) (t : Team) (d : Nat) (target : DWord)
  /-- The meaning has set the control state itself; fragment `fi` and one more have new PCs. -/
  | done (s : State) (t : Team) (arrivals : List Nat)
  /-- A trap (R259). -/
  | trap (s : State) (t : Team) (cause : BitVec 8) (tinfo : DWord) (kind : TrapKind)
  /-- A trap of an instruction that counts as issued (BKPT, TRAP: R137). -/
  | trapIssued (s : State) (t : Team) (cause : BitVec 8) (tinfo : DWord) (kind : TrapKind)
  /-- A reserved use (R97). -/
  | reservedUse
  /-- The same, found in a descriptor that the instruction has read. -/
  | reservedRead (s : State) (t : Team)
  /-- A reserved encoding for this team (R92): a register beyond the team's budget, tiles or tables. -/
  | reservedEncoding
  /-- It stays unissued and is tried again. -/
  | stall (s : State) (t : Team) (why : Stall)
  /-- The team is withheld from issue until an event completes the instruction. -/
  | hold (s : State) (t : Team) (why : Withheld)

/-- Counting an issued instruction (R26, R50). -/
def Team.countIssue (t : Team) : Team :=
  { t with iss.issued := t.iss.issued + 1, iss.stalled := none, iss.begun := none, iss.charge := none }

/-- Moving past an instruction that transfers no control. -/
def Team.fallThrough (t : Team) (fi : Nat) : Team :=
  let f := t.frag fi
  let (t', pc) := t.advancePc 5 f.pc
  ((t'.setFrag fi { f with pc := addr57 pc, replay := false }).countIssue).settle 9 fi

/-- Moving to the target of a taken transfer. -/
def Team.transfer (t : Team) (fi d : Nat) (target : DWord) : Team :=
  let f := t.frag fi
  let loop := if t.tm then t.ctl.loop else leaveLoops d (addr57 target) t.ctl.loop
  (({ t with ctl.loop := loop }.setFrag fi { f with pc := addr57 target, replay := false }).countIssue).settle 9 fi

/-- A gang-flagged MX word (R100): major 0x2D with X bit 1. -/
def gangWord (w : Word) : Bool := decide (field w 26 6 = 0x2D) && w.getLsbD 1

/-- The fate of a reserved encoding or reserved use (R99): a precise trap, or under probe mode a NOP that sets
probe-hit. `use_` is TINFO[33:32]; value 2, major 0x3F, traps whatever PROBE holds (R98). A gang-flagged MX word under probe mode arrives at the latch with no
operation (R100). DESIGN CHOICE (log 71). -/
def Team.reservedFate (t : Team) (fi : Nat) (word : Word) (use_ : Nat) : Team :=
  if t.probe && decide (use_ ≠ 2) then
    if gangWord word then
      { t with iss.withheld := some (fi, .gang word false [] []), iss.stalled := none, iss.charge := none, iss.begun := none }
    else (t.setFlags flagProbe).fallThrough fi
  else t.takeTrap fi 0x01 (zext word ||| (BitVec.ofNat 64 use_ <<< 32)) (.precise (t.frag fi).pc)

/-- A cluster's aperture with n quanta more, and a core's class run set. -/
def State.giveBack (s : State) (t : Team) (n : Nat) (run : Option (Nat × Nat)) : State :=
  match s.clusters[t.sched.cluster]? with
  | none => s
  | some c =>
    let cores := match run, c.cores[t.sched.core]? with
      | some (k, r), some x => setAt c.cores t.sched.core { x with lastClass := k, run := r }
      | _, _ => c.cores
    { s with clusters := setAt s.clusters t.sched.cluster { c with aperture := c.aperture + n, cores := cores } }

/-- What the selection of an instruction that does not issue charged is given back (R321, R359). -/
def State.uncharge (s : State) (t : Team) : State :=
  match t.iss.charge with
  | none => s
  | some c => s.giveBack t c.weight (some (c.lastClass, c.run))

/-- A team after a front cycle in which it was eligible and issued nothing (R321). -/
def Team.waited (t : Team) (waits : Nat) (boosted : Bool) : Team :=
  { t with sched.waits := waits + 1, sched.boosted := boosted || decide (4096 ≤ waits + 1) }

def Team.uncharged (t : Team) : Team :=
  match t.iss.charge with
  | none => t
  | some c => Team.waited { t with iss.charge := none } c.waits c.boosted

/-- Whether an instruction for which a team is withheld has not issued (R225, R365). -/
def Withheld.unissued : Withheld → Bool | .gang _ _ _ _ | .shed => true | _ => false

/-- What an attempt that stalls can have brought forward: requests sent or taken, stores written back, a slot claimed. -/
def State.progress (s : State) (id : Nat) : (Nat × Nat) × Nat × Bool :=
  let x := (s.team? id).elim (0, false) fun t => (t.iss.flights.length, t.iss.claim.isSome)
  ((s.pod.nextReq, s.pod.reqs.length), x)

/-- An instruction that does not issue keeps the word that was fetched for it. -/
def Team.keepWord (t : Team) (fi : Nat) (w : Word) : Team :=
  { t with iss.ahead := ((t.frag fi).pc, w) :: t.iss.ahead.filter (·.1 != (t.frag fi).pc) }

/-- A reserved use costs the weight of its issue class (R359). -/
def State.chargeLeast (s : State) (t : Team) : State :=
  match t.iss.charge with
  | none => s
  | some c => s.giveBack t (c.weight - c.least) none

/-- An instruction that waits and has brought something forward has issued: it keeps what its selection charged, and the team
issues nothing else until it completes. One that stalls has not issued. DEDUCED (log 14). -/
def State.stallAt (s0 s : State) (t : Team) (fi : Nat) (word : Word) (why : Stall) : State :=
  if (s.setTeam t).progress t.id = s0.progress t.id then
    (s.uncharge t).setTeam { t.uncharged.keepWord fi word with iss.stalled := some why }
  else s.setTeam { t with iss.charge := none, iss.stalled := none, iss.begun := some (fi, word) }

/-- The state after the issue of an instruction with this effect by fragment fi of t0, in state s0. -/
def Effect.finish (s0 : State) (t0 : Team) (fi : Nat) (word : Word) : Effect → State
  | .next s t => s.setTeam (t.fallThrough fi)
  | .jump s t d target => s.setTeam (t.transfer fi d target)
  | .done s t arrivals => s.setTeam (arrivals.foldl (fun t i => t.settle 9 i) t.countIssue)
  | .trap s t c ti k => s.setTeam (t.takeTrap fi c ti k)
  | .trapIssued s t c ti k => s.setTeam (t.takeTrap fi c ti k).countIssue
  | .reservedUse => (s0.chargeLeast t0).setTeam (t0.reservedFate fi word 1)
  | .reservedRead s t => (s.chargeLeast t).setTeam (t.reservedFate fi word 1)
  | .reservedEncoding => s0.setTeam (t0.reservedFate fi word 0)
  | .stall s t why => s0.stallAt s t fi word why
  | .hold s t why =>
    let held := fun (t : Team) =>
      { t with iss.withheld := some (fi, why), iss.stalled := none, iss.begun := none, iss.charge := none }
    if why.unissued then (s.uncharge t).setTeam (held t.uncharged) else s.setTeam (held t)

/-- What an instruction has at its issue: the state without the slot, the team, its fragment. -/
structure Ctx where
  s  : State
  t  : Team
  fi : Nat

def Ctx.f (c : Ctx) : Frag := c.t.frag c.fi
def Ctx.pc (c : Ctx) : DWord := c.f.pc
def Ctx.guard (c : Ctx) : LaneMask := c.t.guard c.f

/-- The context of the next issue: the head of the issue slots, when it names a running fragment of a resident
team. -/
def State.ctx? (s : State) : Option Ctx :=
  match s.slots with
  | [] => none
  | (id, fi) :: rest =>
    match s.team? id with
    | none => none
    | some t =>
      if t.sched.life = .resident ∧ (t.frag fi).st = .running then some ⟨{ s with slots := rest }, t, fi⟩ else none

end Sys2Proof.Machine
end

