-- ==== Sys2Proof/Machine/Geometry.lean ====
section
/-! DEFINITION. Plane descriptors, folding, sheets and memory layouts (R77 to R87). -/

namespace Sys2Proof.Machine

/-- A plane descriptor (R77). -/
structure Plane where
  fills : Nat
  x4    : Nat
  x3    : Nat
  cols  : Nat
  rows  : Nat
  base  : Nat
  edge  : Nat
  kx    : Bool
  ky    : Bool
  vw    : Nat
  vh    : Nat
  rank  : Nat
  code  : Nat
  clear : Bool
  deriving DecidableEq, Repr

/-- The descriptor in a G register; `clear` tells that its reserved bits are zero. -/
def planeOf (q : QWord) : Plane :=
  { fills := field q 88 6, x4 := field q 80 8, x3 := field q 72 8, cols := field q 60 12, rows := field q 48 12,
    base := field q 28 7, edge := field q 26 2, kx := q.getLsbD 25, ky := q.getLsbD 24, vw := field q 16 8,
    vh := field q 8 8, rank := field q 4 4, code := field q 0 4,
    clear := decide (field q 94 34 = 0) && decide (field q 35 13 = 0) }

def ceilDiv (a b : Nat) : Nat := (a + b - 1) / b

namespace Plane

/-- The element type. -/
def et (p : Plane) : ElemType := (ElemType.ofCode (BitVec.ofNat 4 p.code)).getD .int32
def w (p : Plane) : Nat := p.et.width
def per (p : Plane) : Nat := p.et.per
def bytes (p : Plane) : Nat := p.w / 8
def fy (p : Plane) : Nat := ceilDiv p.rows p.vh
def fx (p : Plane) : Nat := ceilDiv p.cols p.vw
def outer (p : Plane) : Nat := p.x3 * p.x4
def sheets (p : Plane) : Nat := p.outer * p.fy * p.fx
/-- The registers that the plane occupies (R83). -/
def regs (p : Plane) : Nat := ceilDiv p.sheets p.per

/-- The checks of R78, for a team of h groups and budget n. DESIGN CHOICE (log 66). -/
def ok (p : Plane) (h n : Nat) : Bool :=
  p.clear && decide (p.code ≤ 10) && decide (2 ≤ p.rank) && decide (p.rank ≤ 4) &&
  decide (1 ≤ p.vh) && decide (p.vh ≤ 32) && decide (1 ≤ p.vw) && decide (p.vw ≤ 32) && decide (p.vh * p.vw ≤ 32 * h) &&
  decide (1 ≤ p.rows) && decide (1 ≤ p.cols) && decide (1 ≤ p.x3) && decide (1 ≤ p.x4) &&
  decide (p.x3 = 1 ∨ 3 ≤ p.rank) && decide (p.x4 = 1 ∨ 4 ≤ p.rank) &&
  decide (p.base + p.regs ≤ min n 127)

/-- The lane of a row and column (R79, R81). -/
def lane (p : Plane) (r c : Nat) : Nat :=
  (if p.ky then r / p.fy else r % p.vh) * p.vw + (if p.kx then c / p.fx else c % p.vw)

/-- The sheet of an element (R81). -/
def sheet (p : Plane) (o r c : Nat) : Nat :=
  (o * p.fy + (if p.ky then r % p.fy else r / p.vh)) * p.fx + (if p.kx then c % p.fx else c / p.vw)

/-- Every position (o, r, c) of nr rows and nc columns, ascending. -/
def positions (p : Plane) (nr nc : Nat) : List (Nat × Nat × Nat) :=
  (List.range p.outer).flatMap fun o => (List.range nr).flatMap fun r => (List.range nc).map fun c => (o, r, c)

/-- The elements of the plane, ascending. -/
def elements (p : Plane) : List (Nat × Nat × Nat) := p.positions p.rows p.cols

/-- The sheet slots of the plane, phantoms among them (R82). -/
def slots (p : Plane) : List (Nat × Nat × Nat) := p.positions (p.fy * p.vh) (p.fx * p.vw)

def isPhantom (p : Plane) (r c : Nat) : Bool := decide (p.rows ≤ r) || decide (p.cols ≤ c)

/-- The bits of a lane register that a sheet slot takes (R83). -/
def slotShift (p : Plane) (sheet : Nat) : Nat := p.w * (sheet % p.per)
def slotMask (p : Plane) (sheet : Nat) : Word := BitVec.ofNat 32 ((2 ^ p.w - 1) * 2 ^ p.slotShift sheet)

/-- The write of a sheet slot (R83). -/
def slotWrite (p : Plane) (lane sheet x : Nat) : WinWrite :=
  .v (p.base + sheet / p.per) lane (p.slotMask sheet) (BitVec.ofNat 32 (x % 2 ^ p.w * 2 ^ p.slotShift sheet))

/-- Where the bytes of an element loaded from memory go. -/
def slotDest (p : Plane) (lane sheet : Nat) : LoadDest :=
  .elem (p.base + sheet / p.per) lane (p.slotShift sheet) (p.slotMask sheet)

end Plane

/-- The FILL value of a plane (R84). -/
def Team.fill (t : Team) (p : Plane) : Nat := (t.readS p.fills).toNat % 2 ^ p.w

/-- What a phantom slot takes (R82). -/
def Team.phantom (t : Team) (p : Plane) : Nat := if p.edge = 3 then t.fill p else 0

/-- An element of a plane as its lane holds it. -/
def Team.planeElem (t : Team) (p : Plane) (o r c : Nat) : Nat :=
  let s := p.sheet o r c
  elem p.w (t.readV (p.base + s / p.per) (p.lane r c)) (s % p.per)

/-- A source of a destination element: an element of the source plane, or the edge's value (R84). -/
inductive Source where
  | elem (o r c : Nat)
  | edge (x : Nat)
  deriving DecidableEq, Repr

/-- Src (R84) under an edge policy. -/
def Team.src (t : Team) (p : Plane) (edge o : Nat) (r c : Int) : Source :=
  let inside := decide (0 ≤ r) && decide (r < p.rows) && decide (0 ≤ c) && decide (c < p.cols)
  if inside then .elem o r.toNat c.toNat
  else if edge = 1 then .elem o (r % p.rows).toNat (c % p.cols).toNat
  else if edge = 2 then .elem o (min (max r 0) (p.rows - 1)).toNat (min (max c 0) (p.cols - 1)).toNat
  else .edge (if edge = 3 then t.fill p else 0)

def Team.sourceValue (t : Team) (p : Plane) : Source → Nat
  | .elem o r c => t.planeElem p o r c
  | .edge x => x

/-! Layouts (R86, R87). Codes: 0 ROW, 1 COL, 2 to 5 XOR1 to XOR4. -/

def Layout.num : Layout → Nat | .row => 0 | .col => 1 | .xor1 => 2 | .xor2 => 3 | .xor3 => 4 | .xor4 => 5

/-- The address of element (o, r, c) of a plane of R rows and C columns of b bytes: base a, pitch q. -/
def layoutAddr (lay a : Nat) (q : Int) (b nr nc o r c : Nat) : Nat :=
  let rho := o * nr + r
  let off : Int :=
    if lay = 0 then rho * q + (c * b : Nat)
    else if lay = 1 then (o * nc + c : Nat) * q + (r * b : Nat)
    else rho * q + (16 * ((c * b / 16) ^^^ (rho % 2 ^ (lay - 1))) + c * b % 16 : Nat)
  (((a : Int) + off) % ((2 ^ 64 : Nat) : Int)).toNat

/-- The alignment that an XOR layout asks of base and pitch (R87). -/
def layoutAligned (lay a : Nat) (q : Int) : Bool :=
  decide (lay < 2) || (decide (a % 16 = 0) && decide (q.natAbs % (16 * 2 ^ (lay - 1)) = 0))

/-- The register operands of a plane that passes its checks; of any other none. -/
def Plane.operandRegs (p : Plane) (h n : Nat) : Nat := if p.ok h n then p.regs else 0

end Sys2Proof.Machine
end

