-- ==== Sys2Proof/Machine/Operands.lean ====
section
/-! DEFINITION. The register operands of each instruction (R92, R94, R95), the ranges that an instruction implies
(R25, R164, R165), and the interlock on results that are not ready (R52, R114, R149). -/

namespace Sys2Proof.Machine

/-- The files that an operand can name. -/
inductive OperandFile where
  | s | v | p | g | c | k | loupe
  deriving DecidableEq, Repr

/-- A register operand: file, first register, number of registers, whether it is written; `pair` marks a 64-bit
lane operand (R25). -/
structure Operand where
  file  : OperandFile
  num   : Nat
  count : Nat
  write : Bool
  pair  : Bool
  deriving DecidableEq, Repr

/-- The type that a conversion targets: a code, or a slot's AF (R70, R163). A code above 12 gives none. -/
def Team.slot (t : Team) (n : BitVec 3) : QWord := t.const.slots.getD n.toNat 0
def slotTypeA (q : QWord) : Option ElemType := if field q 0 8 < 16 then ElemType.ofCode (BitVec.ofNat 4 (field q 0 8)) else none
def slotTypeB (q : QWord) : Option ElemType := if field q 8 8 < 16 then ElemType.ofCode (BitVec.ofNat 4 (field q 8 8)) else none
def Team.target (t : Team) : ConvTarget → Option ElemType
  | .type c => some c
  | .slot n => slotTypeA (t.slot n)

/-- Registers that a V.CVT fills (R164). -/
def Team.cvtCount (t : Team) (c : ConvTarget) : Nat :=
  match t.target c with
  | some d => max 1 (t.et.per * d.width / 32)
  | none => 1
/-- Registers that a V.PACK reads (R165). -/
def Team.packCount (t : Team) (c : ConvTarget) : Nat :=
  match t.target c with
  | some d => max 1 (32 / (t.et.per * d.width))
  | none => 1

namespace Operand
def rSn (n : Nat) : Operand := ⟨.s, n, 1, false, false⟩
def wSn (n : Nat) : Operand := ⟨.s, n, 1, true, false⟩
def rS {w : Nat} (n : BitVec w) : Operand := rSn n.toNat
def wS {w : Nat} (n : BitVec w) : Operand := wSn n.toNat
def rVs {w : Nat} (n : BitVec w) (k : Nat) : Operand := ⟨.v, n.toNat, k, false, false⟩
def wVs {w : Nat} (n : BitVec w) (k : Nat) : Operand := ⟨.v, n.toNat, k, true, false⟩
def rV {w : Nat} (n : BitVec w) : Operand := rVs n 1
def wV {w : Nat} (n : BitVec w) : Operand := wVs n 1
def rP {w : Nat} (n : BitVec w) : Operand := ⟨.p, n.toNat, 1, false, false⟩
def wP {w : Nat} (n : BitVec w) : Operand := ⟨.p, n.toNat, 1, true, false⟩
def rG {w : Nat} (n : BitVec w) : Operand := ⟨.g, n.toNat, 1, false, false⟩
def wG {w : Nat} (n : BitVec w) : Operand := ⟨.g, n.toNat, 1, true, false⟩
def regC {w : Nat} (n : BitVec w) : Operand := ⟨.c, n.toNat, 1, false, false⟩
def regK {w : Nat} (n : BitVec w) : Operand := ⟨.k, n.toNat, 1, false, false⟩
/-- The loupe, as one operand (R149). -/
def rLoupe : Operand := ⟨.loupe, 0, 1, false, false⟩
def wLoupe : Operand := ⟨.loupe, 0, 1, true, false⟩
/-- The data register of a lane access: a pair when it is 64 bits wide (R187). -/
def memV (z : Size) (d : BitVec 7) (w : Bool) : Operand :=
  if z = .b64 then ⟨.v, d.toNat, 2, w, true⟩ else ⟨.v, d.toNat, 1, w, false⟩
/-- The registers of a plane that an instruction names, and its FILLS register; none for an illegal descriptor. -/
def plane (t : Team) (g : BitVec 3) (w : Bool) : List Operand :=
  let p := planeOf (t.readG g.toNat)
  let n := p.operandRegs t.const.h t.const.n
  if n = 0 then [] else [⟨.v, p.base, n, w, false⟩, rSn p.fills]
end Operand

open Operand in
/-- The register operands of an instruction. -/
def Instr.operands (t : Team) : Instr → List Operand
  | .sysr d _ | .vers d | .cycles d | .modeGet d
  | .sLui d _ | .sAupc d _ | .pstkGet d =>
    [wS d]
  | .sysw a _ | .perf a | .pgreq a | .callr a
  | .jmpr a | .wait _ a | .qfence a | .chain a
  | .mxWait a | .mxSave a | .mxResume a | .mxSetgang a =>
    [rS a]
  | .icinv a b | .launch a b | .modeSet a b | .sAtomSt a b _
  | .barInit a b | .barExpect a b | .barWait a b | .scWb a b
  | .scDrop a b | .cpy a b | .mxStreamOpen a b | .mxSub a b =>
    [rS a, rS b]
  | .sAdd d a b | .sSub d a b | .sMul d a b | .sMulh d a b
  | .sMulhu d a b | .sDiv d a b | .sDivu d a b | .sRem d a b
  | .sRemu d a b | .sAnd d a b | .sOr d a b | .sXor d a b
  | .sShl d a b | .sShr d a b | .sSar d a b | .sMin d a b
  | .sMax d a b | .sMinu d a b | .sMaxu d a b | .sSlt d a b
  | .sSltu d a b | .sSeq d a b | .sAtomAdd d a b _ | .sAtomAnd d a b _
  | .sAtomOr d a b _ | .sAtomXor d a b _ | .sAtomMin d a b _ | .sAtomMax d a b _
  | .sAtomMinu d a b _ | .sAtomMaxu d a b _ | .sAtomSwap d a b _ =>
    [wS d, rS a, rS b]
  | .sClz d a | .sPopc d a | .sAddi d a _ | .sAndi d a _
  | .sOri d a _ | .sXori d a _ | .sShli d a _ | .sShri d a _
  | .sSari d a _ | .sSlti d a _ | .sLd d a _ _ _ _ | .sLdu d a _ _ _ _
  | .sAtomLd d a _ | .barArrive d a =>
    [wS d, rS a]
  | .sSt d a _ _ _ =>
    [rS d, rS a]
  | .sAtomCas d a _ =>
    [wS d, rS d, rSn (d.toNat + 1), rS a]
  | .brz c _ | .brnz c _ | .loop c _ =>
    [rS c]
  | .brp p _ _ | .brd p _ =>
    [rP p]
  | .ppush a =>
    [rP a]
  | .vAdd d a b | .vSub d a b | .vMul d a b | .vMulh d a b
  | .vMin d a b | .vMax d a b | .vAnd d a b | .vOr d a b
  | .vXor d a b | .vShl d a b | .vShr d a b | .vSar d a b
  | .vRotl d a b | .vSel d a b | .vPermIdx d a b =>
    [wV d, rV a, rV b]
  | .vFma d a b | .vFms d a b | .vFnma d a b | .vDot2 d a b =>
    [wV d, rV d, rV a, rV b]
  | .vAbs d a | .vNeg d a | .vMov d a | .vNot d a
  | .vClz d a | .vPopc d a | .vRcp d a | .vRsq d a
  | .vSqrt d a | .vExp2 d a | .vLog2 d a | .vUnpk d a _
  | .vScan d a _ | .vAddi d a _ =>
    [wV d, rV a]
  | .vCmpEq d a b | .vCmpNe d a b | .vCmpLt d a b | .vCmpLe d a b
  | .vCmpGt d a b | .vCmpGe d a b | .vCmpLtu d a b | .vCmpLeu d a b
  | .vCmpGtu d a b | .vCmpGeu d a b | .vCmpUn d a b | .vCmpOrd d a b =>
    [wP d, rV a, rV b]
  | .vRred d a =>
    [wVs d 2, rV a]
  | .vSinr d a | .vCosr d a =>
    [wV d, rVs a 2]
  | .vCvt d a _ target =>
    [wVs d (t.cvtCount target), rV a]
  | .vPack d a _ target =>
    [wV d, rVs a (t.packCount target)]
  | .vPermXor d a b | .vPermRot d a b | .vPermBc d a b =>
    [wV d, rV a, rS b]
  | .vBcast d a =>
    [wV d, rS a]
  | .vLaneid d _ | .vMovi d _ =>
    [wV d]
  | .lRdt d | .lRd d =>
    [wV d, rLoupe]
  | .lClr =>
    [wLoupe]
  | .vRed d a _ | .vVtos d a =>
    [wS d, rV a]
  | .vBallot d a b =>
    [wS d, rP a, rS b]
  | .predAnd d a b | .predOr d a b | .predXor d a b | .predAndn d a b =>
    [wP d, rP a, rP b]
  | .predNot d a | .predMov d a =>
    [wP d, rP a]
  | .predSet d | .predClr d =>
    [wP d]
  | .predAny d a | .predAll d a | .predCount d a =>
    [wS d, rP a]
  | .predFroms d a =>
    [wP d, rS a]
  | .vLd d a b _ size | .vLdu d a b _ size | .vLdx d a b _ size =>
    [memV size d true, rS a, rV b]
  | .vSt d a b size | .vStx d a b size =>
    [memV size d false, rS a, rV b]
  | .vAtomAdd d a b _ | .vAtomAnd d a b _ | .vAtomOr d a b _ | .vAtomXor d a b _
  | .vAtomMin d a b _ | .vAtomMax d a b _ | .vAtomMinu d a b _ | .vAtomMaxu d a b _
  | .vAtomSwap d a b _ | .vAtomAddf d a b _ | .vAtomAddbf d a b _ =>
    [wV d, rV d, rS a, rV b]
  | .vAtomCas d a b _ =>
    [wV d, rVs d 2, rS a, rV b]
  | .vAtomLd d a b _ =>
    [wV d, rS a, rV b]
  | .vAtomSt d a b _ =>
    [rV d, rS a, rV b]
  | .pLd g a b _ _ _ => [rG g, rS a, rS b] ++ plane t g true
  | .pSt g a b _ _ => [rG g, rS a, rS b] ++ plane t g false
  | .pShift gd gs _ b _ | .pRot gd gs _ b _ | .pSpread gd gs _ b _ =>
    [rG gd, rG gs, rS b] ++ plane t gd true ++ plane t gs false
  | .pFoldAdd gd gs _ | .pFoldMax gd gs _ | .pFoldMin gd gs _ | .pFoldStack gd gs _
  | .pRefold gd gs =>
    [rG gd, rG gs] ++ plane t gd true ++ plane t gs false
  | .pGset gd b =>
    [wG gd, rS b, rSn (b.toNat + 1)]
  | .pGget gs b =>
    [rG gs, wS b, wSn (b.toNat + 1)]
  | .lWr a b =>
    [rV a, rS b, wLoupe]
  | .mxMma t _ a b _ _ _ _ | .mxAccrd t a b | .mxAccwr t a b =>
    [regC t, rS a, rS b]
  | .mxKmma t _ a b _ _ _ =>
    [regC t, regK a, rS b]
  | .mxZero t =>
    [regC t]
  | .mxFence a =>
    [wS a]
  | .tblKbuild t _ a =>
    [regK t, rS a]
  | .tblKinv t | .tblKdetach t =>
    [regK t]
  | .tblKtest t a =>
    [regK t, wS a]
  | .nop | .trap _ | .eret | .yield | .region
  | .exit | .bkpt | .br _ | .call _ | .recv _
  | .ret | .pinv | .ppop | .fence
  | .fenceAcq | .fenceRel | .walksync | .reservedEncoding _ | .windowClose _
  | .transientExpire _ | .resultReady _ _ | .loadReturn _ _ | .storeRegister _ _ _ | .trapEntry _ _
  | .issueSelect _ | .teamBoost _ | .yieldExpire _ | .unitPowerDown _ _ _ | .unitWake _ _ _
  | .clockLevelChange _ | .shutterStep _ | .engineReady _ _ | .engineOpStart _ _ | .tileFetch _ _ _
  | .engineOpComplete _ _ | .copyOpStart _ _ | .copyComplete _ _ | .copyCredit _ _ | .chainComplete _
  | .barWaitComplete _ | .remoteBarrierPoll _ | .waitComplete _ | .mxWaitComplete _ | .fenceAcqComplete _
  | .gangRendezvous _ | .streamTileFetch _ _ | .pageWalk _ _ _ _ | .scratchMapFill _ _ | .prqdoneWrite _ _ _
  | .tlbiRange _ _ _ _ | .tlbiAsid _ _ | .tlbiInterface _ | .tlbiComplete _ | .recordTake _
  | .launchDistribute _ | .placeAdmit _ _ | .teamResident _ | .clusterPreempt _ | .teamPark _ _
  | .drainExpire _ | .forcedSave _ _ | .teamUnpark _ _ | .teamRetire _ | .gridComplete _
  | .placeMigrate _ _ _ _ | .queueCfgReload _ | .checkerMismatch _ | .eccError _ | .schedulerIllegalState _
  | .schedulerRebuildDone _ | .portLaneFail _ | .portRetrainDone _ | .remoteRequest _ | .remoteResponse _ _
  | .remoteTimeout _ | .memberWrite _ _ | .memberClearApply _ | .shelfFrame _ | .frameLoss
  | .capUpdate | .shedForceSave _ _ | .classRestore _ | .hostCxlMemAccess _ | .hostCxlCacheSnoop _ _
  | .powerOn | .hostResetAssert | .powerRemove | .vfFlr _ | .victlWrite _ _
  | .viperfWrite _ _ | .registerWrite _ _ | .mbLoad | .mbExtend | .mbQuote
  | .mbIdkey | .mbShutdown | .objectLoad _ | .objectUnload _ _ | .textCompaction _ _ _
  | .retranslationSwap _ _ | .loaderSweep _ | .icinvComplete _ | .walksyncComplete _ | .teamDiscard _ => []

/-- Whether an operand is one that a team may name (R24, R25, R30, R92). -/
def Team.operandOk (t : Team) (o : Operand) : Bool :=
  match o.file with
  | .v => if o.count = 1 then decide (o.num = 127 ∨ o.num < min t.const.n 127)
      else decide (o.num + o.count ≤ min t.const.n 127) && (!o.pair || decide (o.num % 2 = 0))
  | .s => decide (o.num + o.count ≤ 64)
  | .p => decide (o.num < 16)
  | .g => decide (o.num < 8)
  | .c => decide (o.num < t.const.tiles)
  | .k => decide (o.num < t.const.tables)
  | .loupe => true

def Team.operandsOk (t : Team) (os : List Operand) : Bool := os.all t.operandOk

/-! The interlock (R52). -/

def OperandFile.interlocked : OperandFile → Option RegFile
  | .s => some .s | .v => some .v | .p => some .p | .g => some .g | .loupe => some .loupe | .c | .k => none

/-- A result of an earlier instruction that an operand waits for. -/
def Busy.blocks (b : Busy) (o : Operand) : Bool :=
  o.file.interlocked == some b.file && decide (o.num ≤ b.reg) && decide (b.reg < o.num + o.count)

/-- The count by which a result's readiness is measured: front cycles or lane cycles of the cluster. -/
def State.clock (s : State) (t : Team) (lane : Bool) : Nat :=
  match s.clusters[t.sched.cluster]? with
  | some c => if lane then c.lane2 / 2 else c.cyclef
  | none => 0

/-- Whether an instruction acts in the lanes of Guard (R146): it has a lane, predicate or plane operand, and is not one that
acts for the fragment or moves a descriptor. -/
def Instr.guarded (os : List Operand) : Instr → Bool
  | .pGset _ _ | .pGget _ _ | .brp _ _ _ | .brd _ _ | .ppush _ => false
  | _ => os.any fun o => o.file == .v || o.file == .p || o.file == .g

/-- Whether an instruction is a load that marks missing lanes in the residency predicate (R122, R184). -/
def Instr.marksMissing : Instr → Bool
  | .sLd _ _ _ _ _ _ | .sLdu _ _ _ _ _ _ | .vLd _ _ _ _ _ | .vLdu _ _ _ _ _ | .vLdx _ _ _ _ _ | .pLd _ _ _ _ _ _ => true
  | _ => false

/-- A predicate that MODE makes an instruction name. -/
def modePred (n : Nat) : Operand := ⟨.p, n, 1, false, false⟩

/-- The predicates of MODE that an instruction reads: the guard, and the select predicate of V.SEL (R146, R154). -/
def Instr.maskOperands (t : Team) (i : Instr) (os : List Operand) : List Operand :=
  (if Instr.guarded os i then [modePred t.gp] else []) ++ (match i with | .vSel _ _ _ => [modePred t.sp] | _ => [])

/-- The predicates that MODE makes an instruction name: those, and the residency predicate of a load (R184). -/
def Instr.modeOperands (t : Team) (i : Instr) (os : List Operand) : List Operand :=
  Instr.maskOperands t i os ++ (if Instr.marksMissing i then [modePred t.rp] else [])

/-- Whether a load that waits for another member may still set bits of a predicate (R184). -/
def Team.predPending (t : Team) (n : Nat) : Bool := n != 0 && t.iss.windows.any fun w => w.rp == n && !w.waits.isEmpty

/-- Whether a result of an earlier instruction that instruction i reads or writes is not there yet (R52). The bits that loads OR into
one residency predicate hold no further load back. DEDUCED (log 17). -/
def State.interlocked (s : State) (t : Team) (i : Instr) (os : List Operand) : Bool :=
  (t.iss.busy.any fun b => decide (s.clock t b.lane < b.readyAt) && (os ++ Instr.modeOperands t i os).any b.blocks) ||
    (os ++ Instr.maskOperands t i os).any fun o => o.file == .p && t.predPending o.num

/-- Marking the registers that an instruction writes as ready after n cycles. -/
def State.markBusy (s : State) (t : Team) (os : List Operand) (lane : Bool) (n : Nat) : Team :=
  let new := (os.filter (·.write)).flatMap fun o => match o.file.interlocked with
    | some f => ((List.range o.count).filter fun i => o.num + i != 0 || f == .v || f == .g || f == .loupe).map fun i =>
        (⟨f, o.num + i, lane, s.clock t lane + n⟩ : Busy)
    | none => []
  { t with iss.busy := t.iss.busy.filter (fun b => decide (s.clock t b.lane < b.readyAt)) ++ new }

/-! Units (R356) and time. -/

/-- The position of a unit in a core's list. -/
def unitIndex : CoreUnit → Nat
  | .lanes => 0 | .special => 1 | .movement => 2 | .matrix => 3 | .copy => 4

def State.core? (s : State) (cluster core : Nat) : Option Core := (s.clusters[cluster]?).bind fun c => c.cores[core]?

def State.setCore (s : State) (cluster core : Nat) (k : Core) : State :=
  match s.clusters[cluster]? with
  | some c => { s with clusters := setAt s.clusters cluster { c with cores := setAt c.cores core k } }
  | none => s

/-- Whether a core has an operation queued for a unit, or its matrix engine runs filler: it is not idle. -/
def State.unitQueued (s : State) (cluster core : Nat) (u : CoreUnit) : Bool :=
  (s.teams.any fun t => t.sched.life.holds && t.sched.cluster == cluster && t.sched.core == core &&
    (match u with
      | .matrix => !(t.eng.q5.isEmpty && t.eng.q6.isEmpty)
      | .copy => !t.eng.copies.isEmpty
      | _ => false)) ||
  (u == .matrix && (s.core? cluster core).any fun k => k.engine.active)

/-- A unit's power at a lane cycle: a waking unit is awake when its time has come, and one that has been without work for
64 lane cycles is down. -/
def UnitPower.at (now : Nat) (queued : Bool) : UnitPower → UnitPower
  | .awake since => if since + 64 ≤ now ∧ queued = false then .down else .awake since
  | .waking a e => if now < a then .waking a e else if e + 64 ≤ now ∧ queued = false then .down else .awake e
  | .down => .down

/-- A unit's power as it stands (R356). DEDUCED (log 16). -/
def State.unitNow (s : State) (t : Team) (u : CoreUnit) : UnitPower :=
  match (s.core? t.sched.cluster t.sched.core).bind fun k => k.units[(unitIndex u)]? with
  | none => .awake (s.clock t true)
  | some x => x.at (s.clock t true) (s.unitQueued t.sched.cluster t.sched.core u)

def State.setUnit (s : State) (t : Team) (u : CoreUnit) (x : UnitPower) : State :=
  match s.core? t.sched.cluster t.sched.core with
  | none => s
  | some k => s.setCore t.sched.cluster t.sched.core { k with units := setAt k.units (unitIndex u) x }

/-- The units that work in the lane datapath (R149). -/
def CoreUnit.inLanes : CoreUnit → Bool | .lanes | .special | .movement => true | .matrix | .copy => false

/-- Work of n lane cycles that begins after a wake occupies the lane datapath of a team's core until it is done (R149, R185). -/
def State.occupy (s : State) (t : Team) (u : CoreUnit) (wake n : Nat) : State :=
  match s.core? t.sched.cluster t.sched.core with
  | none => s
  | some k => if CoreUnit.inLanes u && n != 0 then s.setCore t.sched.cluster t.sched.core { k with laneFree := s.clock t true + wake + n } else s

/-- Work of n lane cycles sent to a unit of a team's core: the state, and the lane cycles until it is awake. A
powered-down unit wakes 12 lane cycles after work is first sent to it. -/
def State.useUnit (s : State) (t : Team) (u : CoreUnit) (n : Nat) : State × Nat :=
  let now := s.clock t true
  match s.unitNow t u with
  | .awake since => ((s.setUnit t u (.awake (max since (now + n)))).occupy t u 0 n, 0)
  | .down => ((s.setUnit t u (.waking (now + 12) (now + 12 + n))).occupy t u 12 n, 12)
  | .waking a e => ((s.setUnit t u (.waking a (max e (a + n)))).occupy t u (a - now) n, a - now)

/-- A unit has worked until now. -/
def State.touchUnit (s : State) (t : Team) (u : CoreUnit) : State :=
  match s.unitNow t u with
  | .awake since => s.setUnit t u (.awake (max since (s.clock t true)))
  | _ => s

/-- When the results of an instruction are ready: by front cycles, or by lane cycles after its passes on a unit
(R114, R149). -/
inductive Time where
  | front (n : Nat)
  | lane (u : CoreUnit) (perPass ready : Nat)
  deriving DecidableEq, Repr

/-- The passes of an instruction: the groups with a nonzero mask word (R20). -/
def passes (h : Nat) (m : LaneMask) : Nat := ((List.range h).filter fun g => field m (32 * g) 32 != 0).length

/-- Whether an instruction word works in the lane datapath: by its major, P.GSET, P.GGET and L.CLR apart (R149, R185). -/
def wordUsesLanes (w : Word) : Bool :=
  decide (0x19 ≤ field w 26 6) && decide (field w 26 6 ≤ 0x2A) &&
    !(match decode w with | .ok (.pGset _ _) | .ok (.pGget _ _) | .ok .lClr => true | _ => false)

/-- Whether the lane datapath that an instruction of a fragment needs is taken (R149, R320). An empty fragment mask takes
no pass. DEDUCED (log 13). -/
def State.laneTaken (s : State) (t : Team) (f : Frag) (w : Word) : Bool :=
  wordUsesLanes w && decide (passes t.const.h f.mask ≠ 0) &&
    (s.core? t.sched.cluster t.sched.core).any fun k => decide (s.clock t true < k.laneFree)

/-- The results of an instruction that has issued are ready after its latency. -/
def Effect.marked (os : List Operand) (time : Time) (c : Ctx) : Effect → Effect
  | .next s t =>
    match time with
    | .front n => .next s (if n ≤ 1 then t else s.markBusy t os false n)
    | .lane u p n =>
      let k := passes t.const.h c.f.mask
      let (s, wake) := s.useUnit t u (p * k)
      .next s (s.markBusy t os true (wake + p * k + n))
  | e => e

/-- The issue of an instruction by the fragment at the head of the slots: the checks of R98, the interlock, then
the meaning. `time` is when the results are ready. -/
def State.issue (s : State) (i : Instr) (time : Time) (body : Ctx → Effect) : Host.Outcome State Fault Refusal :=
  match s.ctx? with
  | none => .refused .noIssuingFragment
  | some c =>
    let os := Instr.operands c.t i
    let word := (encode i).getD 0
    if !c.t.operandsOk os then .next (Effect.reservedEncoding.finish c.s c.t c.fi word)
    else if c.s.interlocked c.t i os || c.s.laneTaken c.t c.f word then .next ((Effect.stall c.s c.t .interlock).finish c.s c.t c.fi word)
    else .next (((body c).marked os time c).finish c.s c.t c.fi word)

/-- Whether a word is a member's part of a gang operation, which issues at the rendezvous (R225). -/
def gangPart (w : Word) : Bool :=
  match decode w with
  | .ok (.mxMma _ _ _ _ _ g _ _) | .ok (.mxKmma _ _ _ _ _ g _) => g
  | _ => false

end Sys2Proof.Machine
end

