-- ==== Sys2Proof/Machine/Scalar.lean ====
section
/-! DEFINITION. Scalar arithmetic (R113 to R119). -/

namespace Sys2Proof.Machine

/-! What a scalar meaning reads and writes. -/

/-- The scalar register that a field names. -/
def Ctx.S {w : Nat} (c : Ctx) (n : BitVec w) : DWord := c.t.readS n.toNat

/-- Writing a scalar register and going on. -/
def Ctx.setS {w : Nat} (c : Ctx) (d : BitVec w) (x : DWord) : Effect := .next c.s (c.t.writeS d.toNat x)

/-- x · y div 2^64, mod 2^64. -/
def mulHigh (x y : Int) : DWord := BitVec.ofInt 64 (x * y / 2 ^ 64)

/-! Division truncates toward zero; a zero divisor and the signed overflow have fixed results (R117). -/

def divU (a b : DWord) : DWord := if b = 0 then BitVec.allOnes 64 else a / b
def remU (a b : DWord) : DWord := if b = 0 then a else a % b
def divS (a b : DWord) : DWord :=
  if b = 0 then BitVec.allOnes 64 else BitVec.ofInt 64 (a.toInt.tdiv b.toInt)
def remS (a b : DWord) : DWord :=
  if b = 0 then a else BitVec.ofInt 64 (a.toInt.tmod b.toInt)

/-! RR functions (R116, R117); results are ready after the front cycles of R114. -/

/-- S[A] + S[B] mod 2^64 (R116). -/
def execSAdd (d a b : BitVec 7) (s : State) : Host.Outcome State Fault Refusal :=
  s.issue (.sAdd d a b) (.front 1) fun c => c.setS d (c.S a + c.S b)

/-- S[A] - S[B] mod 2^64 (R116). -/
def execSSub (d a b : BitVec 7) (s : State) : Host.Outcome State Fault Refusal :=
  s.issue (.sSub d a b) (.front 1) fun c => c.setS d (c.S a - c.S b)

/-- Low 64 bits of the product (R116). -/
def execSMul (d a b : BitVec 7) (s : State) : Host.Outcome State Fault Refusal :=
  s.issue (.sMul d a b) (.front 4) fun c => c.setS d (c.S a * c.S b)

/-- High 64 bits of the signed product (R116). -/
def execSMulh (d a b : BitVec 7) (s : State) : Host.Outcome State Fault Refusal :=
  s.issue (.sMulh d a b) (.front 4) fun c => c.setS d (mulHigh (c.S a).toInt (c.S b).toInt)

/-- High 64 bits of the unsigned product (R116). -/
def execSMulhu (d a b : BitVec 7) (s : State) : Host.Outcome State Fault Refusal :=
  s.issue (.sMulhu d a b) (.front 4) fun c => c.setS d (mulHigh (c.S a).toNat (c.S b).toNat)

/-- Signed quotient (R117). -/
def execSDiv (d a b : BitVec 7) (s : State) : Host.Outcome State Fault Refusal :=
  s.issue (.sDiv d a b) (.front 36) fun c => c.setS d (divS (c.S a) (c.S b))

/-- Unsigned quotient (R117). -/
def execSDivu (d a b : BitVec 7) (s : State) : Host.Outcome State Fault Refusal :=
  s.issue (.sDivu d a b) (.front 36) fun c => c.setS d (divU (c.S a) (c.S b))

/-- Signed remainder (R117). -/
def execSRem (d a b : BitVec 7) (s : State) : Host.Outcome State Fault Refusal :=
  s.issue (.sRem d a b) (.front 36) fun c => c.setS d (remS (c.S a) (c.S b))

/-- Unsigned remainder (R117). -/
def execSRemu (d a b : BitVec 7) (s : State) : Host.Outcome State Fault Refusal :=
  s.issue (.sRemu d a b) (.front 36) fun c => c.setS d (remU (c.S a) (c.S b))

/-- Bitwise AND (R116). -/
def execSAnd (d a b : BitVec 7) (s : State) : Host.Outcome State Fault Refusal :=
  s.issue (.sAnd d a b) (.front 1) fun c => c.setS d (c.S a &&& c.S b)

/-- Bitwise OR (R116). -/
def execSOr (d a b : BitVec 7) (s : State) : Host.Outcome State Fault Refusal :=
  s.issue (.sOr d a b) (.front 1) fun c => c.setS d (c.S a ||| c.S b)

/-- Bitwise XOR (R116). -/
def execSXor (d a b : BitVec 7) (s : State) : Host.Outcome State Fault Refusal :=
  s.issue (.sXor d a b) (.front 1) fun c => c.setS d (c.S a ^^^ c.S b)

/-- Left shift by S[B] mod 64 (R116). -/
def execSShl (d a b : BitVec 7) (s : State) : Host.Outcome State Fault Refusal :=
  s.issue (.sShl d a b) (.front 1) fun c => c.setS d (c.S a <<< ((c.S b).toNat % 64))

/-- Logical right shift by S[B] mod 64 (R116). -/
def execSShr (d a b : BitVec 7) (s : State) : Host.Outcome State Fault Refusal :=
  s.issue (.sShr d a b) (.front 1) fun c => c.setS d (c.S a >>> ((c.S b).toNat % 64))

/-- Arithmetic right shift by S[B] mod 64 (R116). -/
def execSSar (d a b : BitVec 7) (s : State) : Host.Outcome State Fault Refusal :=
  s.issue (.sSar d a b) (.front 1) fun c => c.setS d ((c.S a).sshiftRight ((c.S b).toNat % 64))

/-- Signed minimum (R116). -/
def execSMin (d a b : BitVec 7) (s : State) : Host.Outcome State Fault Refusal :=
  s.issue (.sMin d a b) (.front 1) fun c => c.setS d (if (c.S b).slt (c.S a) then c.S b else c.S a)

/-- Signed maximum (R116). -/
def execSMax (d a b : BitVec 7) (s : State) : Host.Outcome State Fault Refusal :=
  s.issue (.sMax d a b) (.front 1) fun c => c.setS d (if (c.S a).slt (c.S b) then c.S b else c.S a)

/-- Unsigned minimum (R116). -/
def execSMinu (d a b : BitVec 7) (s : State) : Host.Outcome State Fault Refusal :=
  s.issue (.sMinu d a b) (.front 1) fun c => c.setS d (if (c.S b).ult (c.S a) then c.S b else c.S a)

/-- Unsigned maximum (R116). -/
def execSMaxu (d a b : BitVec 7) (s : State) : Host.Outcome State Fault Refusal :=
  s.issue (.sMaxu d a b) (.front 1) fun c => c.setS d (if (c.S a).ult (c.S b) then c.S b else c.S a)

/-- 1 if S[A] < S[B], signed (R116). -/
def execSSlt (d a b : BitVec 7) (s : State) : Host.Outcome State Fault Refusal :=
  s.issue (.sSlt d a b) (.front 1) fun c => c.setS d (bit ((c.S a).slt (c.S b)))

/-- 1 if S[A] < S[B], unsigned (R116). -/
def execSSltu (d a b : BitVec 7) (s : State) : Host.Outcome State Fault Refusal :=
  s.issue (.sSltu d a b) (.front 1) fun c => c.setS d (bit ((c.S a).ult (c.S b)))

/-- 1 if S[A] = S[B] (R116). -/
def execSSeq (d a b : BitVec 7) (s : State) : Host.Outcome State Fault Refusal :=
  s.issue (.sSeq d a b) (.front 1) fun c => c.setS d (bit (c.S a == c.S b))

/-- Zero bits above the highest one bit; 64 for zero (R116). -/
def execSClz (d a : BitVec 7) (s : State) : Host.Outcome State Fault Refusal :=
  s.issue (.sClz d a) (.front 1) fun c => c.setS d (BitVec.ofNat 64 (clz (c.S a)))

/-- Number of one bits (R116). -/
def execSPopc (d a : BitVec 7) (s : State) : Host.Outcome State Fault Refusal :=
  s.issue (.sPopc d a) (.front 1) fun c => c.setS d (BitVec.ofNat 64 (popCount (c.S a)))

/-! Immediate forms (R118). -/

/-- S[A] + SignExt(I12) (R118). -/
def execSAddi (d a : BitVec 7) (imm : BitVec 12) (s : State) : Host.Outcome State Fault Refusal :=
  s.issue (.sAddi d a imm) (.front 1) fun c => c.setS d (c.S a + sext imm)

/-- S[A] AND SignExt(I12) (R118). -/
def execSAndi (d a : BitVec 7) (imm : BitVec 12) (s : State) : Host.Outcome State Fault Refusal :=
  s.issue (.sAndi d a imm) (.front 1) fun c => c.setS d (c.S a &&& sext imm)

/-- S[A] OR SignExt(I12) (R118). -/
def execSOri (d a : BitVec 7) (imm : BitVec 12) (s : State) : Host.Outcome State Fault Refusal :=
  s.issue (.sOri d a imm) (.front 1) fun c => c.setS d (c.S a ||| sext imm)

/-- S[A] XOR SignExt(I12) (R118). -/
def execSXori (d a : BitVec 7) (imm : BitVec 12) (s : State) : Host.Outcome State Fault Refusal :=
  s.issue (.sXori d a imm) (.front 1) fun c => c.setS d (c.S a ^^^ sext imm)

/-- S[A] shifted left (R118). -/
def execSShli (d a : BitVec 7) (imm : BitVec 12) (s : State) : Host.Outcome State Fault Refusal :=
  s.issue (.sShli d a imm) (.front 1) fun c => c.setS d (c.S a <<< imm.toNat)

/-- S[A] shifted right, zeros in (R118). -/
def execSShri (d a : BitVec 7) (imm : BitVec 12) (s : State) : Host.Outcome State Fault Refusal :=
  s.issue (.sShri d a imm) (.front 1) fun c => c.setS d (c.S a >>> imm.toNat)

/-- S[A] shifted right, sign in (R118). -/
def execSSari (d a : BitVec 7) (imm : BitVec 12) (s : State) : Host.Outcome State Fault Refusal :=
  s.issue (.sSari d a imm) (.front 1) fun c => c.setS d ((c.S a).sshiftRight imm.toNat)

/-- 1 if S[A] < SignExt(I12), signed (R118). -/
def execSSlti (d a : BitVec 7) (imm : BitVec 12) (s : State) : Host.Outcome State Fault Refusal :=
  s.issue (.sSlti d a imm) (.front 1) fun c => c.setS d (bit ((c.S a).slt (sext imm)))

/-- SignExt(I20) · 4,096 (R119). -/
def execSLui (d : BitVec 6) (imm : BitVec 20) (s : State) : Host.Outcome State Fault Refusal :=
  s.issue (.sLui d imm) (.front 1) fun c => c.setS d (sext imm <<< 12)

/-- PC + SignExt(I20) · 4,096 (R119). -/
def execSAupc (d : BitVec 6) (imm : BitVec 20) (s : State) : Host.Outcome State Fault Refusal :=
  s.issue (.sAupc d imm) (.front 1) fun c => c.setS d (c.pc + (sext imm <<< 12))

end Sys2Proof.Machine
end

