-- ==== Sys2Proof/Machine/Lane.lean ====
section
/-! DEFINITION. Lane arithmetic, bit functions, comparisons and immediates (R146 to R158): element by element over
the guarded lanes, every source read before any destination is written. -/

namespace Sys2Proof.Machine

/-- The guarded lanes, ascending (R146). -/
def Ctx.lanes (c : Ctx) : List Nat := lanesIn c.t.nLanes c.guard

/-- The stochastic-rounding state of a lane (R63). -/
def Team.srState (t : Team) (l : Nat) : Word := if t.regs.sr.get l = 0 then srSeed t.regs.srSeed l else t.regs.sr.get l

/-- The rounding that MODE gives (R61). -/
def Team.rnd (t : Team) : Rnd := ⟨t.rm, 0, t.ftz, false⟩

/-- Results in ascending position within one lane; under SR each first steps the lane's generator (R64). Gives
the results, the generator and the flags. -/
def runElems (o : Rnd) (f : Rnd → Nat → Nat × Nat) : Nat → Nat → Word → List Nat × Word × Nat
  | 0, _, x => ([], x, 0)
  | n + 1, e, x =>
    let x := if o.rm = .sr then srStep x else x
    let r := f { o with x := x } e
    let rest := runElems o f n (e + 1) x
    (r.1 :: rest.1, rest.2.1, r.2 ||| rest.2.2)

/-- The results of every guarded lane, the generators and the flags. -/
def runLanes (t : Team) (o : Rnd) (n : Nat) (f : Nat → Rnd → Nat → Nat × Nat) :
    List Nat → List (Nat × List Nat) × Sparse 32 × Nat
  | [] => ([], t.regs.sr, 0)
  | l :: r =>
    let one := runElems o (f l) n 0 (t.srState l)
    let rest := runLanes t o n f r
    ((l, one.1) :: rest.1, (if o.rm = .sr then rest.2.1.set l one.2.1 else rest.2.1), one.2.2 ||| rest.2.2)

/-- A lane instruction whose result is one register of n elements of width w. -/
def Ctx.lanewise (c : Ctx) (d w n : Nat) (o : Rnd) (f : Nat → Rnd → Nat → Nat × Nat) : Effect :=
  let r := runLanes c.t o n f c.lanes
  .next c.s (({ c.t with regs.sr := r.2.1 }.writeV d (r.1.map fun (x : Nat × List Nat) => (x.1, pack w x.2))).setFlags r.2.2)

/-- A rounding that consumes no step: the operation does not round by SR. -/
def Team.exact (t : Team) : Rnd := ⟨.rne, 0, t.ftz, false⟩

/-- Whether ET is one that element-wise instructions refuse (R147). -/
def ElemType.memoryOnly (t : ElemType) : Bool := decide (9 ≤ t.code.toNat)

/-- The element e of V[n] in a lane, at the width of ET. -/
def Team.el (t : Team) (n l e : Nat) : Nat := elem (ElemType.width t.et) (t.readV n l) e

/-- Element-wise arithmetic: an exact integer function, or an exact float function rounded once (R148, R152). -/
def Ctx.arith (c : Ctx) (d a b : BitVec 7) (fi : Int → Int → Int → Int)
    (ff : RoundMode → FVal → FVal → FVal → FVal × Nat) : Effect :=
  let t := c.t
  if ElemType.memoryOnly t.et then .reservedUse
  else match ElemType.fmt t.et with
    | some f =>
      c.lanewise d.toNat f.w (32 / f.w) t.rnd fun l o e =>
        f.roundI o (ff o.rm (f.read o.ftz (t.el a.toNat l e)) (f.read o.ftz (t.el b.toNat l e)) (f.read o.ftz (t.el d.toNat l e)))
    | none =>
      c.lanewise d.toNat (ElemType.width t.et) (ElemType.per t.et) t.exact fun l _ e =>
        let v := fun (n : BitVec 7) => ElemType.int t.et (t.el n.toNat l e)
        (ElemType.fit t.et t.sat (fi (v a) (v b) (v d)), 0)

/-- Element-wise functions on bit patterns under ET 0 to 8 (R155). -/
def Ctx.bits (c : Ctx) (d a b : BitVec 7) (f : Nat → Nat → Nat → Nat) : Effect :=
  let t := c.t
  if ElemType.memoryOnly t.et then .reservedUse
  else
    let w := ElemType.width t.et
    c.lanewise d.toNat w (32 / w) t.exact fun l _ e => (f w (t.el a.toNat l e) (t.el b.toNat l e), 0)

/-- A type-free function of whole registers. -/
def Ctx.words (c : Ctx) (d : BitVec 7) (f : Nat → Word) : Effect :=
  .next c.s (c.t.writeV d.toNat (c.lanes.map fun l => (l, f l)))

def laneAlu : Time := .lane .lanes 1 2
def laneMul : Time := .lane .lanes 1 4

/-! OP 0x19 (R152, R153). -/

def execVAdd (d a b : BitVec 7) (s : State) : Host.Outcome State Fault Refusal :=
  s.issue (.vAdd d a b) laneAlu fun c => c.arith d a b (fun x y _ => x + y) fun rm x y _ => sumProducts rm [] [x, y]

def execVSub (d a b : BitVec 7) (s : State) : Host.Outcome State Fault Refusal :=
  s.issue (.vSub d a b) laneAlu fun c => c.arith d a b (fun x y _ => x - y) fun rm x y _ => sumProducts rm [] [x, y.neg]

/-- A product alone keeps the sign of a zero; 0 × ∞ is invalid. -/
def product (x y : FVal) : FVal × Nat :=
  if x.isNan || y.isNan then (.nan, 0) else match x.mul y with | some v => (v, 0) | none => (.nan, fInvalid)

def execVMul (d a b : BitVec 7) (s : State) : Host.Outcome State Fault Refusal :=
  s.issue (.vMul d a b) laneMul fun c => c.arith d a b (fun x y _ => x * y) fun _ x y _ => product x y

/-- The high half of an integer product, never saturating; a float ET is a reserved use. -/
def execVMulh (d a b : BitVec 7) (s : State) : Host.Outcome State Fault Refusal :=
  s.issue (.vMulh d a b) laneMul fun c =>
    let t := c.t
    if !ElemType.isInt t.et then .reservedUse
    else
      let w := ElemType.width t.et
      c.lanewise d.toNat w (32 / w) t.exact fun l _ e =>
        (wrapTo w (ElemType.int t.et (t.el a.toNat l e) * ElemType.int t.et (t.el b.toNat l e) / ((2 ^ w : Nat) : Int)), 0)

def execVFma (d a b : BitVec 7) (s : State) : Host.Outcome State Fault Refusal :=
  s.issue (.vFma d a b) laneMul fun c => c.arith d a b (fun x y z => x * y + z) fun rm x y z => sumProducts rm [(x, y)] [z]

def execVFms (d a b : BitVec 7) (s : State) : Host.Outcome State Fault Refusal :=
  s.issue (.vFms d a b) laneMul fun c => c.arith d a b (fun x y z => x * y - z) fun rm x y z => sumProducts rm [(x, y)] [z.neg]

def execVFnma (d a b : BitVec 7) (s : State) : Host.Outcome State Fault Refusal :=
  s.issue (.vFnma d a b) laneMul fun c => c.arith d a b (fun x y z => z - x * y) fun rm x y z => sumProducts rm [(x.neg, y)] [z]

/-- Minimum or maximum (R56, R152). DESIGN CHOICE (log 67). -/
def Ctx.minMax (c : Ctx) (d a b : BitVec 7) (max_ : Bool) : Effect :=
  let t := c.t
  if ElemType.memoryOnly t.et then .reservedUse
  else
    let w := ElemType.width t.et
    c.lanewise d.toNat w (32 / w) t.exact fun l _ e =>
      let x := t.el a.toNat l e
      let y := t.el b.toNat l e
      match ElemType.fmt t.et with
      | some f => (f.minMax max_ t.ftz x y, 0)
      | none =>
        let lt := decide (ElemType.int t.et x < ElemType.int t.et y)
        (if lt == max_ then y else x, 0)

def execVMin (d a b : BitVec 7) (s : State) : Host.Outcome State Fault Refusal :=
  s.issue (.vMin d a b) laneAlu fun c => c.minMax d a b false

def execVMax (d a b : BitVec 7) (s : State) : Host.Outcome State Fault Refusal :=
  s.issue (.vMax d a b) laneAlu fun c => c.minMax d a b true

/-- A function of one source: exact on integers, a sign change on floats; a NaN becomes canonical (R152).
DESIGN CHOICE (log 67). -/
def Ctx.signOp (c : Ctx) (d a : BitVec 7) (fi : Int → Int) (ff : FVal → FVal) : Effect :=
  let t := c.t
  if ElemType.memoryOnly t.et then .reservedUse
  else
    let w := ElemType.width t.et
    c.lanewise d.toNat w (32 / w) t.exact fun l _ e =>
      match ElemType.fmt t.et with
      | some f => ((f.round rne (ff (f.read t.ftz (t.el a.toNat l e)))).1, 0)
      | none => (ElemType.fit t.et t.sat (fi (ElemType.int t.et (t.el a.toNat l e))), 0)

def execVAbs (d a : BitVec 7) (s : State) : Host.Outcome State Fault Refusal :=
  s.issue (.vAbs d a) laneAlu fun c => c.signOp d a (fun x => x.natAbs) fun v => if v.sign then v.neg else v

def execVNeg (d a : BitVec 7) (s : State) : Host.Outcome State Fault Refusal :=
  s.issue (.vNeg d a) laneAlu fun c => c.signOp d a (fun x => -x) FVal.neg

/-- d + a0·b0 + a1·b1 with one rounding, in FP32 from BF16 halves (R153). -/
def execVDot2 (d a b : BitVec 7) (s : State) : Host.Outcome State Fault Refusal :=
  s.issue (.vDot2 d a b) laneMul fun c =>
    let t := c.t
    if ElemType.memoryOnly t.et then .reservedUse
    else
      let half := fun (n : BitVec 7) (l i : Nat) => bf16.read t.ftz (elem 16 (t.readV n.toNat l) i)
      c.lanewise d.toNat 32 1 t.rnd fun l o _ =>
        fp32.roundI o (sumProducts o.rm [(half a l 0, half b l 0), (half a l 1, half b l 1)]
          [fp32.read o.ftz (t.readV d.toNat l).toNat])

def execVMov (d a : BitVec 7) (s : State) : Host.Outcome State Fault Refusal :=
  s.issue (.vMov d a) laneAlu fun c => c.words d fun l => c.t.readV a.toNat l

/-! OP 0x1A (R154, R155). -/

def execVAnd (d a b : BitVec 7) (s : State) : Host.Outcome State Fault Refusal :=
  s.issue (.vAnd d a b) laneAlu fun c => c.words d fun l => c.t.readV a.toNat l &&& c.t.readV b.toNat l

def execVOr (d a b : BitVec 7) (s : State) : Host.Outcome State Fault Refusal :=
  s.issue (.vOr d a b) laneAlu fun c => c.words d fun l => c.t.readV a.toNat l ||| c.t.readV b.toNat l

def execVXor (d a b : BitVec 7) (s : State) : Host.Outcome State Fault Refusal :=
  s.issue (.vXor d a b) laneAlu fun c => c.words d fun l => c.t.readV a.toNat l ^^^ c.t.readV b.toNat l

def execVNot (d a : BitVec 7) (s : State) : Host.Outcome State Fault Refusal :=
  s.issue (.vNot d a) laneAlu fun c => c.words d fun l => ~~~(c.t.readV a.toNat l)

def execVShl (d a b : BitVec 7) (s : State) : Host.Outcome State Fault Refusal :=
  s.issue (.vShl d a b) laneAlu fun c => c.bits d a b fun w x y => x * 2 ^ (y % w) % 2 ^ w

def execVShr (d a b : BitVec 7) (s : State) : Host.Outcome State Fault Refusal :=
  s.issue (.vShr d a b) laneAlu fun c => c.bits d a b fun w x y => x / 2 ^ (y % w)

def execVSar (d a b : BitVec 7) (s : State) : Host.Outcome State Fault Refusal :=
  s.issue (.vSar d a b) laneAlu fun c => c.bits d a b fun w x y =>
    let v : Int := if 2 ^ (w - 1) ≤ x then (x : Int) - (2 ^ w : Nat) else x
    wrapTo w (v / ((2 ^ (y % w) : Nat) : Int))

def execVRotl (d a b : BitVec 7) (s : State) : Host.Outcome State Fault Refusal :=
  s.issue (.vRotl d a b) laneAlu fun c => c.bits d a b fun w x y =>
    (x * 2 ^ (y % w) % 2 ^ w) + x / 2 ^ (w - y % w)

def execVSel (d a b : BitVec 7) (s : State) : Host.Outcome State Fault Refusal :=
  s.issue (.vSel d a b) laneAlu fun c => c.words d fun l =>
    if (c.t.readP c.t.sp).getLsbD l then c.t.readV a.toNat l else c.t.readV b.toNat l

def execVClz (d a : BitVec 7) (s : State) : Host.Outcome State Fault Refusal :=
  s.issue (.vClz d a) laneAlu fun c => c.bits d a a fun w x _ => clz (BitVec.ofNat w x)

def execVPopc (d a : BitVec 7) (s : State) : Host.Outcome State Fault Refusal :=
  s.issue (.vPopc d a) laneAlu fun c => c.bits d a a fun w x _ => popCount (BitVec.ofNat w x)

/-! Comparisons (R156). -/

/-- P[D] in the guarded lanes: whether a relation holds for every element. -/
def Ctx.compare (c : Ctx) (d a b : BitVec 7) (rel : Nat → Nat → Bool) : Effect :=
  let t := c.t
  let m := maskOf t.nLanes fun l => (List.range (ElemType.per t.et)).all fun e => rel (t.el a.toNat l e) (t.el b.toNat l e)
  .next c.s (t.writePIn d.toNat c.guard m)

/-- A relation on values: integers by their type, floats as IEEE gives it. -/
def Ctx.cmpValue (c : Ctx) (d a b : BitVec 7) (fi : Int → Int → Bool) (ff : FVal → FVal → Bool) : Effect :=
  let t := c.t
  if ElemType.memoryOnly t.et then .reservedUse
  else c.compare d a b fun x y =>
    match ElemType.fmt t.et with
    | some f => ff (f.read t.ftz x) (f.read t.ftz y)
    | none => fi (ElemType.int t.et x) (ElemType.int t.et y)

/-- A relation on unsigned patterns; a float ET is a reserved use. -/
def Ctx.cmpUnsigned (c : Ctx) (d a b : BitVec 7) (rel : Nat → Nat → Bool) : Effect :=
  if ElemType.isInt c.t.et then c.compare d a b rel else .reservedUse

/-- A test for NaN operands; an integer ET is a reserved use. -/
def Ctx.cmpNan (c : Ctx) (d a b : BitVec 7) (rel : Bool → Bool) : Effect :=
  match ElemType.fmt c.t.et with
  | some f => if ElemType.memoryOnly c.t.et then .reservedUse
      else c.compare d a b fun x y => rel ((f.decode x).isNan || (f.decode y).isNan)
  | none => .reservedUse

def execVCmpEq (d a b : BitVec 7) (s : State) : Host.Outcome State Fault Refusal :=
  s.issue (.vCmpEq d a b) laneAlu fun c => c.cmpValue d a b (fun x y => x == y) FVal.eq
def execVCmpNe (d a b : BitVec 7) (s : State) : Host.Outcome State Fault Refusal :=
  s.issue (.vCmpNe d a b) laneAlu fun c => c.cmpValue d a b (fun x y => x != y) fun x y => !FVal.eq x y
def execVCmpLt (d a b : BitVec 7) (s : State) : Host.Outcome State Fault Refusal :=
  s.issue (.vCmpLt d a b) laneAlu fun c => c.cmpValue d a b (fun x y => decide (x < y)) FVal.lt
def execVCmpLe (d a b : BitVec 7) (s : State) : Host.Outcome State Fault Refusal :=
  s.issue (.vCmpLe d a b) laneAlu fun c => c.cmpValue d a b (fun x y => decide (x ≤ y)) fun x y => x.lt y || FVal.eq x y
def execVCmpGt (d a b : BitVec 7) (s : State) : Host.Outcome State Fault Refusal :=
  s.issue (.vCmpGt d a b) laneAlu fun c => c.cmpValue d a b (fun x y => decide (y < x)) fun x y => y.lt x
def execVCmpGe (d a b : BitVec 7) (s : State) : Host.Outcome State Fault Refusal :=
  s.issue (.vCmpGe d a b) laneAlu fun c => c.cmpValue d a b (fun x y => decide (y ≤ x)) fun x y => y.lt x || FVal.eq x y
def execVCmpLtu (d a b : BitVec 7) (s : State) : Host.Outcome State Fault Refusal :=
  s.issue (.vCmpLtu d a b) laneAlu fun c => c.cmpUnsigned d a b fun x y => decide (x < y)
def execVCmpLeu (d a b : BitVec 7) (s : State) : Host.Outcome State Fault Refusal :=
  s.issue (.vCmpLeu d a b) laneAlu fun c => c.cmpUnsigned d a b fun x y => decide (x ≤ y)
def execVCmpGtu (d a b : BitVec 7) (s : State) : Host.Outcome State Fault Refusal :=
  s.issue (.vCmpGtu d a b) laneAlu fun c => c.cmpUnsigned d a b fun x y => decide (y < x)
def execVCmpGeu (d a b : BitVec 7) (s : State) : Host.Outcome State Fault Refusal :=
  s.issue (.vCmpGeu d a b) laneAlu fun c => c.cmpUnsigned d a b fun x y => decide (y ≤ x)
def execVCmpUn (d a b : BitVec 7) (s : State) : Host.Outcome State Fault Refusal :=
  s.issue (.vCmpUn d a b) laneAlu fun c => c.cmpNan d a b id
def execVCmpOrd (d a b : BitVec 7) (s : State) : Host.Outcome State Fault Refusal :=
  s.issue (.vCmpOrd d a b) laneAlu fun c => c.cmpNan d a b not

/-! Immediates (R157, R158). -/

/-- The immediate as an element adds it: under a packed type it is taken modulo 2^w (R157). DEDUCED (log 62). -/
def immElem (t : ElemType) (imm : BitVec 12) : Int :=
  if ElemType.per t = 1 then imm.toInt else ElemType.int t (wrapTo (ElemType.width t) imm.toInt)

def execVAddi (d a : BitVec 7) (imm : BitVec 12) (s : State) : Host.Outcome State Fault Refusal :=
  s.issue (.vAddi d a imm) laneAlu fun c =>
    let t := c.t
    if !ElemType.isInt t.et then .reservedUse
    else
      let w := ElemType.width t.et
      c.lanewise d.toNat w (32 / w) t.exact fun l _ e =>
        (ElemType.fit t.et t.sat (ElemType.int t.et (t.el a.toNat l e) + immElem t.et imm), 0)

def execVMovi (d : BitVec 7) (imm : BitVec 19) (s : State) : Host.Outcome State Fault Refusal :=
  s.issue (.vMovi d imm) laneAlu fun c => c.words d fun _ => imm.signExtend 32

end Sys2Proof.Machine
end

