-- ==== Sys2Proof/Machine/Translate.lean ====
section
/-! DEFINITION. From a virtual address to a place (R182, R323 to R342): the scratch window, walks, the second stage,
TLB entries, and what stands in the way of an access. -/

namespace Sys2Proof.Machine

/-- Where an access lands. -/
inductive Place where
  /-- A device PA of this package whose words an L1 may hold. -/
  | home (pa : Nat)
  /-- A byte of the scratch region of a team, at a region offset. -/
  | scratch (owner off pa : Nat)
  /-- A device PA of another pod member. -/
  | remote (dev : BitVec 10) (pa : Nat)
  deriving DecidableEq, Repr

/-- What an access meets (R122, R184). -/
inductive Meet where
  | ok (p : Place)
  | noPerm
  | nonResident
  | dead (dev : BitVec 10)
  | wait
  deriving DecidableEq, Repr

/-- The permissions of R336. -/
structure Need where
  r : Bool
  w : Bool
  x : Bool
  deriving DecidableEq, Repr

def needR : Need := ⟨true, false, false⟩
def needW : Need := ⟨false, true, false⟩
def needRW : Need := ⟨true, true, false⟩
def needX : Need := ⟨false, false, true⟩

def Need.ok (n : Need) (r w x : Bool) : Bool := (!n.r || r) && (!n.w || w) && (!n.x || x)

/-! Physical addresses (R323). -/

def inVault (pa : Nat) : Bool := decide (Config.vaultBase ≤ pa) && decide (pa < Config.vaultBase + 32 * Config.vaultSpan)
def vaultPopulated (pa : Nat) : Bool := inVault pa && decide ((pa - Config.vaultBase) % Config.vaultSpan < Config.vaultBytes)
def inHost (pa : Nat) : Bool := decide (Config.hostBase ≤ pa) && decide (pa < Config.paEnd)
def populated (pa : Nat) : Bool := decide (pa < Config.hbmEnd) || vaultPopulated pa || inHost pa
/-- PA of vault offset off of cluster c. -/
def vaultPa (c off : Nat) : Nat := Config.vaultBase + c * Config.vaultSpan + off

/-- Home(a) of R331: the number of the L2 slice, 32 to a die, that is the home of a line of HBM4 or host memory. -/
def homeSlice (pa : Nat) : BitVec 6 :=
  let x := BitVec.ofNat 52 pa
  (List.range 7).foldl (fun s i => s ^^^ x.extractLsb' (6 * i + 7) 6) ((x.extractLsb' 49 3).setWidth 6)

/-- The die and the slice within it that hold the home copy of a line (R331). -/
def homeOf (pa : Nat) : Nat × Nat := ((homeSlice pa).toNat / 32, (homeSlice pa).toNat % 32)

/-- An 8-byte read at its home. -/
def State.home8 (s : State) (pa : Nat) : DWord := BitVec.ofNat 64 (ofBytes (s.mem.bytes pa 8))

/-- The interface to which the allotment table, as it stands, allots vault block i as vault pages (R378). -/
def State.tableAllots (s : State) (i : Nat) : Option Nat :=
  let b := s.mem.byte (s.boot.vallot + i)
  if b.getLsbD 7 then some (field b 0 6) else none

/-- The allotment of a block that is in force: a change of the table has no effect on a block while a TLB translates it (R378).
DEDUCED (log 74). -/
def State.allots (s : State) (i : Nat) : Option Nat := (lookupKey i s.sched.allotHeld).getD (s.tableAllots i)

/-- The number of the vault block that holds a PA, and the PA of a block. -/
def blockOf (pa : Nat) : Nat :=
  192 * ((pa - Config.vaultBase) / Config.vaultSpan) + ((pa - Config.vaultBase) % Config.vaultSpan) / 65536
def blockPa (i : Nat) : Nat := vaultPa (i / 192) (65536 * (i % 192))

/-- Whether a vault block is allotted to an interface as vault pages (R327, R378). -/
def State.allotted (s : State) (vi pa : Nat) : Bool := s.allots (blockOf pa) == some vi

/-- Whether a TLB translates to a block. -/
def State.translated (s : State) (i : Nat) : Bool :=
  s.ms.tlb.any fun e => e.dev.isNone && decide (e.size < 2 ^ 30) && decide (e.pbase < blockPa i + 65536) && decide (blockPa i < e.pbase + e.size)

/-- The bytes of a page are cleared: at their home, in every L1, with the marks of poison. -/
def State.clearPage (s : State) (a : Nat) : State :=
  let here := fun (x : Nat) => decide (a ≤ x) && decide (x < a + 4096)
  { s with mem := s.mem.filter fun c => !here c.1, ms.poison := s.ms.poison.filter fun w => !here w,
           ms.l1 := s.ms.l1.filter fun w => !(w.dev.isNone && here w.pa) }

/-- A 4 KiB page of vault bytes, by its number in the vault range, passes to an interface: it is cleared when another one had
it before (R316). -/
def State.passPage (s : State) (vi p : Nat) : State :=
  let s := match lookupKey p s.sched.vaultVi with
    | some v => if v = vi then s else s.clearPage (Config.vaultBase + 4096 * p)
    | none => s
  { s with sched.vaultVi := setKey p vi s.sched.vaultVi }

/-- What the table says of a block comes into force: one that it allots as vault pages passes to the interface named. -/
def State.passBlock (s : State) (i : Nat) : State :=
  let s := { s with sched.allotHeld := s.sched.allotHeld.filter (·.1 != i) }
  match s.tableAllots i with
  | some v => (List.range 16).foldl (fun s j => s.passPage v (Config.vaultSpan / 4096 * (i / 192) + 16 * (i % 192) + j)) s
  | none => s

/-- The table may have changed for a block, whose allotment was `old`: the change is held back while a TLB translates the block. -/
def State.changeBlock (s : State) (i : Nat) (old : Option Nat) : State :=
  if s.tableAllots i ≠ old ∧ s.translated i = true then { s with sched.allotHeld := setKey i old s.sched.allotHeld } else s.passBlock i

/-- The blocks that some bytes at a PA describe, as a write of the driver to the table leaves them; s0 is the state before it
(R327, R378). DEDUCED (log 74). -/
def State.passBlocks (s0 s : State) (pa n : Nat) : State :=
  ((List.range n).filter fun i => decide (s.boot.vallot ≤ pa + i) && decide (pa + i < s.boot.vallot + 6144)).foldl
    (fun s i => s.changeBlock (pa + i - s.boot.vallot) (s0.allots (pa + i - s.boot.vallot))) s

/-- After an invalidation, the changes held back come into force for the blocks that no TLB translates any more (R378). -/
def State.settleBlocks (s : State) : State :=
  s.sched.allotHeld.foldl (fun s x => if s.translated x.1 then s else s.passBlock x.1) s

/-! Walks (R335 to R339). -/

/-- A leaf as a walk finds it: rights, residency, size, base PA of the leaf, target device. -/
structure Leaf where
  r    : Bool
  w    : Bool
  x    : Bool
  res  : Bool
  size : Nat
  pa   : Nat
  dev  : Option (BitVec 10)
  deriving DecidableEq, Repr

/-- An entry as a walker reads it: one it keeps, or the home's (R341). -/
def State.readEntry (s : State) (a : Nat) : DWord := (lookupKey a s.ms.walk).getD (s.home8 a)

/-- Levels: shift and width of the index, leaf size, alignment of the next table (R336, R337). -/
def walkLevels : List (Nat × Nat × Option Nat × Nat) :=
  [(48, 9, none, 4096), (39, 9, none, 4096), (30, 9, some (2 ^ 30), 4096), (21, 9, some (2 ^ 21), 256),
   (16, 5, some 65536, 256)]

def entryLeaf (p : DWord) (size : Nat) : Leaf :=
  ⟨p.getLsbD 2, p.getLsbD 3, p.getLsbD 4, p.getLsbD 5, size, field p 16 36 * 65536,
    if p.getLsbD 7 then some (p.extractLsb' 54 10) else none⟩

/-- Reserved bits of an entry (R336). -/
def entryReserved (p : DWord) : Bool := p.getLsbD 52 || p.getLsbD 6

/-- A leaf entry that is in use and well formed at its size. -/
def leafOk (p : DWord) (size : Nat) : Bool :=
  p.getLsbD 0 && p.getLsbD 1 && !entryReserved p && decide (field p 8 8 = 0) && decide (field p 16 36 * 65536 % size = 0)

/-- The 32 level-1 entries of the group of index i in the table at t. -/
def State.groupEntries (s : State) (t i : Nat) : List DWord :=
  (List.range 32).map fun k => s.readEntry (t + 8 * (i / 32 * 32 + k))

/-- Whether 32 leaves form a contiguous group (R338). -/
def groupOk (es : List DWord) : Bool :=
  match es with
  | [] => false
  | e :: _ =>
    let base := field e 16 36 * 65536
    decide (base % 2 ^ 26 = 0) &&
    ((List.range 32).zip es).all fun (k, p) =>
      leafOk p (2 ^ 21) && p.getLsbD 53 && decide (field p 16 36 * 65536 = base + k * 2 ^ 21) &&
      decide (field p 2 4 = field e 2 4) && p.getLsbD 7 == e.getLsbD 7 && decide (field p 54 10 = field e 54 10)

/-- Whether the leaves of a group of 32 entries are a broken contiguous group: some leaf has C = 1 and the group's
conditions fail. -/
def groupBroken (es : List DWord) : Bool := (es.any fun p => leafOk p (2 ^ 21) && p.getLsbD 53) && !groupOk es

/-- Leaf k of a group, extended over its 64 MiB: the base may wrap at the end of the address space. -/
def extended (k : Nat) (p : DWord) : Leaf :=
  { entryLeaf p (2 ^ 26) with pa := (field p 16 36 * 65536 + Config.paEnd - k * 2 ^ 21) % Config.paEnd }

/-- Whether any of the 32 entries of the group of index i of the table at t has C = 1 at its home. -/
def State.groupMarked (s : State) (t i : Nat) : Bool :=
  let g := t + 8 * (i / 32 * 32)
  s.mem.any fun c => decide (g ≤ c.1) && decide (c.1 < g + 256) && (c.1 - g) % 8 == 6 && c.2.getLsbD 5

/-- The leaf of 64 MiB that translates the addresses of index i of the level-1 table at t, if one does (R338): that of a
contiguous group, or in a broken group the leaf that the walk picks. -/
def State.groupLeaf (s : State) (t i : Nat) (pick : Option (BitVec 5)) : Option Leaf :=
  if !s.groupMarked t i then none else
  let es := s.groupEntries t i
  if groupOk es then some (entryLeaf (es.headD 0) (2 ^ 26))
  else if groupBroken es then
    pick.bind fun k => let q := es.getD k.toNat 0; if leafOk q (2 ^ 21) then some (extended k.toNat q) else none
  else none

def State.walkFrom (s : State) (va : Nat) (pick : Option (BitVec 5)) :
    List (Nat × Nat × Option Nat × Nat) → Nat → Option Leaf
  | [], _ => none
  | (sh, bits, leafSize, align) :: r, t =>
    let i := va / 2 ^ sh % 2 ^ bits
    let p := s.readEntry (t + 8 * i)
    match (if sh = 21 then s.groupLeaf t i pick else none) with
    | some l => some l
    | none =>
    if !p.getLsbD 0 || entryReserved p then none
    else if p.getLsbD 1 then
      match leafSize with
      | none => none
      | some size => if leafOk p size then some (entryLeaf p size) else none
    else if sh = 16 then none
    else
      let next := field p 8 44 * 256
      if next % align = 0 then s.walkFrom va pick r next else none

/-- The context entry of an ASID (R335, R337): owning interface and root; it fails on VALID = 0 alone. -/
def State.context (s : State) (asid : BitVec 12) : Option (Nat × Nat) :=
  let a := s.boot.ctxbase + 16 * asid.toNat
  let e := s.readEntry a
  if e.getLsbD 0 then some (field (s.mem.byte (a + 8)) 0 6, field e 12 40 * 4096) else none

def State.vi (s : State) (v : Nat) : Option VirtIf := s.vis[v]?

/-- The device's own number (R346). -/
def State.devNo (s : State) : BitVec 10 := s.pod.podctl.extractLsb' 0 10

/-- The device PA of an address under a leaf. -/
def Leaf.at (l : Leaf) (va : Nat) : Nat := (l.pa + va % l.size) % Config.paEnd

/-- The part of a leaf around an address that lies in one GiB of the guest: all of it, but for a leaf of a broken group
that crosses one (R338, R339). -/
def Leaf.inGiB (l : Leaf) (va : Nat) : Leaf :=
  if l.pa % 2 ^ 30 + l.size ≤ 2 ^ 30 then l else { l with size := 2 ^ 21, pa := l.at va - va % 2 ^ 21 }

/-- The rights and the device PA of an address under a leaf after the second stage (R339), or none where the
walk fails. The leaf's own device number makes it local. -/
def State.stage2 (s : State) (v va : Nat) (l : Leaf) : Option Leaf :=
  match l.dev with
  | some d => if d = s.devNo then some { l with dev := none } else some l
  | none =>
    match s.vi v with
    | none => none
    | some i =>
      if !i.s2en then some l
      else
        let l := l.inGiB va
        let g := l.pa / 2 ^ 30
        if g < 512 then
          let e := s.home8 (i.winbase + 8 * g)
          if e.getLsbD 63 && decide (field e 52 11 = 0) && decide (field e 3 27 = 0) then
            some { l with r := l.r && e.getLsbD 0, w := l.w && e.getLsbD 1, x := l.x && e.getLsbD 2,
                          pa := field e 30 22 * 2 ^ 30 + l.pa % 2 ^ 30 }
          else none
        else none

/-- The scratch window: root index 0x1FF (R182, R337). -/
def inWindow (va : Nat) : Bool := decide (va / 2 ^ 48 % 512 = 0x1FF)

/-- Whether an interface has memory at a device PA, under a leaf of a size: populated, and in a vault allotted to it as
vault pages, which leaves of 1 GiB do not reach (R323, R327). -/
def State.hasMemory (s : State) (v size pa : Nat) : Bool :=
  populated pa && (!inVault pa || (decide (size < 2 ^ 30) && s.allotted v pa))

/-- A whole walk (R337 to R339): the leaf with device PAs, none for a missing mapping. Window addresses are never walked. -/
def State.walk (s : State) (asid : BitVec 12) (va : Nat) (pick : Option (BitVec 5)) : Option Leaf :=
  if inWindow va then none
  else match s.context asid with
  | none => none
  | some (v, root) =>
    match s.walkFrom va pick walkLevels root with
    | none => none
    | some l =>
      match s.stage2 v va l with
      | none => none
      | some l => if l.dev.isSome || s.hasMemory v l.size (l.at va) then some l else none

/-- What a walk of this moment picks in a broken group (R338): left open, for each address and front cycle of the core's
cluster. DEDUCED (log 20). -/
def State.pickNow (s : State) (core : Nat) (asid : BitVec 12) (va : Nat) : Option (BitVec 5) :=
  Config.groupPick asid va (((s.clusters[core / 8]?).map (·.cyclef)).getD 0)

/-! TLBs (R340). -/

def Team.coreId (t : Team) : Nat := 8 * t.sched.cluster + t.sched.core

def TlbLevel.serves (core : Nat) : TlbLevel → Bool
  | .core n => n == core
  | .cluster n => n == core / 8
  | .die n => n == core / 128

/-- The TLB entry that translates an address for a core. -/
def State.tlb? (s : State) (core : Nat) (asid : BitVec 12) (va : Nat) : Option TlbEntry :=
  s.ms.tlb.find? fun e => e.level.serves core && e.asid == asid && decide (e.vbase ≤ va) && decide (va < e.vbase + e.size)

/-- Whether a device is in the membership in force; while PODCTL.EN = 0 none is (R346, R351). -/
def State.member (s : State) (dev : BitVec 10) : Bool :=
  s.pod.podctl.getLsbD 31 && (s.pod.applied.getD (dev.toNat / 64) 0).getLsbD (dev.toNat % 64)

def State.placeOf (s : State) (dev : Option (BitVec 10)) (pa : Nat) : Meet :=
  match dev with
  | none => if populated pa then .ok (.home pa) else .noPerm
  | some d => if s.member d then .ok (.remote d pa) else .dead d

/-- The device PA of an address under a TLB entry. -/
def TlbEntry.at (e : TlbEntry) (va : Nat) : Nat := (e.pbase + (va - e.vbase)) % Config.paEnd

/-- A global address of an ASID for a core (R337, R340): by a TLB entry, else by a walk. Permission is checked
before residency (R184). A TLB entry gives no unallotted block of its leaf (R327). -/
def State.global (s : State) (core : Nat) (asid : BitVec 12) (va : Nat) (n : Need) : Meet :=
  match s.tlb? core asid va with
  | some e =>
    if n.ok e.r e.w e.x && (e.dev.isSome || s.hasMemory e.vi e.size (e.at va)) then s.placeOf e.dev (e.at va) else .noPerm
  | none =>
    match s.walk asid va (s.pickNow core asid va) with
    | none => .noPerm
    | some l =>
      if !n.ok l.r l.w l.x then .noPerm
      else if !l.res then .nonResident
      else s.placeOf l.dev (l.at va)

/-! The scratch window (R182). -/

/-- The sibling with a role index. -/
def State.sibling (s : State) (t : Team) (role : Nat) : Option Team :=
  s.teams.find? fun u => u.const.launch == t.const.launch && u.const.x == t.const.x && u.const.y == t.const.y &&
    u.const.z == t.const.z && u.const.role == role

def State.window (s : State) (t : Team) (va : Nat) : Meet :=
  let o := va % 2 ^ 48
  let k := o / 0x1000000
  let off := o % 0x1000000
  if k < t.const.nrole ∧ off < t.const.scr then
    match s.sibling t ((t.const.role + k) % t.const.nrole) with
    | none => .wait
    | some u => if u.sched.started then .ok (.scratch u.id off (u.sched.scratch + off)) else .wait
  else .noPerm

/-- What an access of a team to an address meets. -/
def State.xlate (s : State) (t : Team) (va : Nat) (n : Need) : Meet :=
  if inWindow va then (if n.x then .noPerm else s.window t va) else s.global t.coreId t.const.asid va n

end Sys2Proof.Machine
end

