-- ==== Sys2Proof/Machine/Memory.lean ====
section
/-! DEFINITION. Loads, stores and atomics over places (R122, R184 to R190, R244 to R257, R328 to R332): an access is
performed at its issue, a weak load may read an unowned L1 copy, and a store waits in flight until it
registers at its home. -/

namespace Sys2Proof.Machine

/-! Registration at the home (R244, R330). -/

/-- Word addresses that a list of bytes touches. -/
def wordsOf (bs : List (Nat × Byte)) : List Nat := (bs.map fun b => b.1 / 4 * 4).eraseDups

/-- Whether a list of bytes covers the whole word at pa. -/
def coversWord (bs : List (Nat × Byte)) (pa : Nat) : Bool :=
  (List.range 4).all fun i => bs.any fun b => b.1 == pa + i

def l1Has (core : Nat) (dev : Option (BitVec 10)) (pa : Nat) (w : L1Word) : Bool := w.core == core && w.dev == dev && w.pa == pa

/-- The word at its home. -/
def State.homeWord (s : State) (pa : Nat) : Word := BitVec.ofNat 32 (ofBytes (s.mem.bytes pa 4))

/-- Writing bytes at their homes, in order. -/
def Memory.writeBytes (m : Memory) (bs : List (Nat × Byte)) : Memory := Sparse.setAll (w := 8) m bs

/-- A table that a written byte range falls into becomes stale (R236). -/
def staleTable (bs : List (Nat × Byte)) (k : KTable) : KTable :=
  if k.st == .attached && bs.any fun b => decide (k.watchAt ≤ b.1) && decide (b.1 < k.watchAt + k.watchLen)
  then { k with st := .stale } else k

def Team.staleTables (t : Team) (bs : List (Nat × Byte)) : Team := { t with eng.k := t.eng.k.map (staleTable bs) }

/-- The words that stay, newest first, when an L1 has room for `room` more lines of 128 bytes beside those held (R330). -/
def keepLines (core : Nat) : Nat → List (Option (BitVec 10) × Nat) → List L1Word → List L1Word
  | _, _, [] => []
  | room, held, w :: r =>
    if w.core != core || held.contains (w.dev, w.pa / 128) then w :: keepLines core room held r
    else match room with
      | 0 => keepLines core 0 held r
      | room + 1 => w :: keepLines core room ((w.dev, w.pa / 128) :: held) r

/-- New words of one device enter a core's L1; a line beyond its capacity leaves, the oldest first (R330). -/
def l1Put (core : Nat) (dev : Option (BitVec 10)) (new l1 : List L1Word) : List L1Word :=
  keepLines core Config.l1Lines []
    (new ++ l1.filter fun w => !(w.core == core && w.dev == dev && new.any fun x => x.pa == w.pa))

/-- The L1 words after `core` has registered the words ws: other cores lose ownership, and the core's own copy
is the home's value, owned. Vault scratch is in no L1 (R255). -/
def registerL1 (core : Option Nat) (ws : List Nat) (mem : Memory) (l1 : List L1Word) : List L1Word :=
  let lost := l1.map fun w => if w.dev.isNone && ws.contains w.pa then { w with own := false } else w
  match core with
  | none => lost
  | some c => l1Put c none (ws.map fun pa => ⟨c, none, pa, BitVec.ofNat 32 (ofBytes (mem.bytes pa 4)), true⟩) lost

/-- Registering bytes at their homes (R244): the bytes are written, ownership is recorded, poison goes from a
word that is written whole (R275), and tables that watch the bytes become stale (R236). `cached` tells whether
the registering core's L1 keeps the words; `checked` names a team whose own tables its instruction has been checked against
at its issue. -/
def State.register (s : State) (core : Option Nat) (cached : Bool) (bs : List (Nat × Byte)) (checked : Option Nat := none) : State :=
  let ws := wordsOf bs
  let mem := s.mem.writeBytes bs
  { s with
    mem := mem,
    ms.owner := match core with
      | some c => ws.foldl (fun o w => setKey w c o) s.ms.owner
      | none => s.ms.owner.filter fun o => !ws.contains o.1
    ms.poison := s.ms.poison.filter fun w => !(ws.contains w && coversWord bs w)
    ms.l1 := registerL1 (if cached then core else none) ws mem s.ms.l1
    ms.hostDirty := s.ms.hostDirty ++ ((ws.filter inHost).map (· / 64)).eraseDups.filter (fun l => !s.ms.hostDirty.contains l)
    teams := s.teams.map fun (u : Team) => if checked = some u.id then u else u.staleTables bs }

/-! Reading. -/

/-- A team's own latest store to a byte that has not registered (R244). -/
def Team.pendingByte (t : Team) (pa : Nat) : Option Byte :=
  t.iss.flights.foldl (fun acc f => f.bytes.foldl (fun acc b => if b.1 = pa then some b.2 else acc) acc) none

/-- Whether a store of the team to one of the words has not registered. -/
def Team.pendingOn (t : Team) (ws : List Nat) : Bool :=
  t.iss.flights.any fun f => f.bytes.any fun b => ws.contains (b.1 / 4 * 4)

/-- A core's unowned copies of some words leave its L1: what it reads next is no older than what a strong read or an
atomic has found at the home (R244). -/
def State.dropUnowned (s : State) (core : Nat) (ws : List Nat) : State :=
  { s with ms.l1 := s.ms.l1.filter fun w => w.core != core || w.dev.isSome || w.own || !ws.contains w.pa }

/-- A word as a core reads it: its L1 copy, else the home's, of which the L1 then keeps an unowned copy. A strong
read is performed at the home (R247). -/
def State.readWord (s : State) (core pa : Nat) (strong : Bool) : State × Word :=
  if strong then (s.dropUnowned core [pa], s.homeWord pa)
  else match s.ms.l1.find? (l1Has core none pa) with
    | some w => (s, w.val)
    | none =>
      let v := s.homeWord pa
      ({ s with ms.l1 := l1Put core none [⟨core, none, pa, v, false⟩] s.ms.l1 }, v)

/-- Byte i of a word. -/
def byteOf (w : Word) (i : Nat) : Byte := w.extractLsb' (8 * i) 8

/-- Bytes of global memory as a team reads them. -/
def State.readHome (s : State) (t : Team) (strong : Bool) (pa : Nat) : Nat → State × List Byte
  | 0 => (s, [])
  | n + 1 =>
    let (s, w) := s.readWord t.coreId (pa / 4 * 4) strong
    let b := (t.pendingByte pa).getD (byteOf w (pa % 4))
    let (s, r) := s.readHome t strong (pa + 1) n
    (s, b :: r)

/-- Bytes of a vault region as a team reads them: at the vault, with its own unacknowledged stores (R255). -/
def State.readScratch (s : State) (t : Team) (pa n : Nat) : List Byte :=
  (List.range n).map fun i => (t.pendingByte (pa + i)).getD (s.mem.byte (pa + i))

/-- Whether a read meets a poisoned word (R275). -/
def State.poisoned (s : State) (core pa n : Nat) (strong : Bool) : Bool :=
  (wordsOf ((List.range n).map fun i => (pa + i, 0))).any fun w =>
    s.ms.poison.contains w && (strong || !(s.ms.l1.any (l1Has core none w)))

/-! Requests to other members (R344 to R348). -/

/-- Whether a request on a port has no answer yet. -/
def State.portBusy (s : State) (port : Nat) : Bool :=
  s.pod.reqs.any fun r => r.port == port && r.ans.isNone && !r.dead && !r.forming

/-- The ports that requests go out on, once a port that has entered or left service has no request in flight
(R345). -/
def State.portsNow (s : State) : List Bool :=
  (List.range 18).map fun p => if s.portBusy p then s.pod.inUse.getD p false else decide (0 < s.pod.lanes.getD p 0)

/-- Whether no new request may be sent: a port that is entering or leaving service has requests in flight. -/
def State.portsHeld (s : State) : Bool :=
  (List.range 18).any fun p => s.portBusy p && s.pod.inUse.getD p false != decide (0 < s.pod.lanes.getD p 0)

/-- The port of a request (R345): ((DEV + PA[17:8]) mod n) among the n ports in service. -/
def State.portOf (s : State) (dev : BitVec 10) (pa : Nat) : Nat :=
  let ports := (List.range 18).filter fun p => s.portsNow.getD p false
  ports.getD ((dev.toNat + pa / 256 % 1024) % ports.length) 0

def RemoteKind.isRead : RemoteKind → Bool | .read _ => true | _ => false

/-- A block of another member is written, or read at its home: the core of the team keeps no copy of it, and none of what
the reads under way bring (R244, R254). -/
def State.staleBlock (s : State) (team : Nat) (dev : BitVec 10) (pa : Nat) : State :=
  let core := (s.team? team).map Team.coreId
  { s with ms.l1 := s.ms.l1.filter fun w => !(some w.core == core && w.dev == some dev && w.pa / 256 == pa / 256),
           pod.reqs := s.pod.reqs.map fun (r : RemoteOut) =>
             if r.dev = dev ∧ r.pa / 256 = pa / 256 then { r with stale := true } else r }

/-- Sending a request. It leaves the sender's L1 without copies of its block, so that of the answers on their way only that of
the last read of a block can enter it (R244, R254). -/
def State.send (s : State) (team : Nat) (use_ : RemoteFor) (dev : BitVec 10) (pa va : Nat) (k : RemoteKind) : State :=
  let s := s.staleBlock team dev pa
  { s with pod.nextReq := s.pod.nextReq + 1, pod.inUse := s.portsNow,
           pod.reqs := s.pod.reqs ++
             [⟨s.pod.nextReq, team, use_, dev, pa, BitVec.ofNat 64 va, k, s.portOf dev pa, s.now, none, false, false, false⟩] }

/-- Sending a request of an instruction; a strong read, which is performed at the home, leaves nothing in an L1 (R247). -/
def State.sendRead (s : State) (team : Nat) (use_ : RemoteFor) (dev : BitVec 10) (pa va : Nat) (k : RemoteKind) (strong : Bool) : State :=
  let s := s.send team use_ dev pa va k
  if strong then s.staleBlock team dev pa else s

/-! Mapped scratch (R328, R329). -/

def ScratchMap.has (m : ScratchMap) (off : Nat) : Bool := decide (m.off ≤ off) && decide (off < m.off + m.len)

/-- The map line that holds a region offset: lines are aligned to OFF, itself a multiple of 128. -/
def ScratchMap.line (m : ScratchMap) (off : Nat) : Nat := m.off + (off - m.off) / 128 * 128

/-- The unfilled words of the map line that holds a region offset. -/
def ScratchMap.unfilled (m : ScratchMap) (off : Nat) : List Nat :=
  ((List.range 32).map (m.line off + 4 * ·)).filter fun w => m.has w && !m.filled.contains w

def Team.mapOf (u : Team) (off : Nat) : Option ScratchMap := u.maps.find? (·.has off)

def Team.setMap (u : Team) (m : ScratchMap) : Team :=
  { u with maps := u.maps.map fun x => if x.off = m.off then m else x }

/-- Some words of a map line of team u take the bytes that `at_` gives; `bad` tells the poisoned ones, whose mark goes
along (R275). -/
def State.putFill (s : State) (u : Team) (m : ScratchMap) (ws : List Nat) (at_ : Nat → Byte) (bad : Nat → Bool) : State :=
  let s := s.setTeam (u.setMap { m with filled := m.filled ++ ws })
  let new := ws.map (u.sched.scratch + ·)
  { s with mem := s.mem.writeBytes (ws.flatMap fun w => (List.range 4).map fun i => (u.sched.scratch + w + i, at_ (w + i))),
           ms.poison := s.ms.poison.filter (fun w => !new.contains w) ++ (ws.filter bad).map (u.sched.scratch + ·) }

/-- The line of a map that begins at a virtual address. -/
def Team.mapLineAt (u : Team) (va : Nat) : Option (ScratchMap × Nat) :=
  (u.maps.find? fun m => decide (m.gva ≤ va) && decide (va < m.gva + m.len)).map fun m => (m, m.off + (va - m.gva))

/-- What the answer to a fill brings (R329): the unfilled words of its line take their global words, or their poison. -/
def State.answerFill (s : State) (r : RemoteOut) : State :=
  match s.team? r.team, r.ans with
  | some u, some ans =>
    match u.mapLineAt r.va.toNat with
    | none => s
    | some (m, line) =>
      match ans with
      | .data bytes => s.putFill u m (m.unfilled line) (fun w => bytes.getD (w - line) 0) (fun _ => false)
      | .poisoned => s.putFill u m (m.unfilled line) (fun _ => 0) (fun _ => true)
      | _ => s
  | _, _ => s

/-- The request that a fill of the map line of a team at an address has sent. -/
def State.fillReq (s : State) (u : Team) (va : Nat) : Option RemoteOut :=
  s.pod.reqs.find? fun r => r.team == u.id && r.use == .queue 0 && r.va.toNat == va

/-- Filling the map line of a region offset of team u: each unfilled word takes its global word by a weak load of
the moment, and its poison. What stands in the way is returned. An answer that was asked for before an acquire is not used: the
line is asked for anew (R248). -/
def State.fillLine (s : State) (u : Team) (m : ScratchMap) (off : Nat) : State × Meet :=
  let ws := m.unfilled off
  let line := m.line off
  let va := m.gva + (line - m.off)
  let here := Meet.ok (.scratch u.id off (u.sched.scratch + off))
  if ws = [] then (s, here)
  else match s.global u.coreId u.const.asid va needR with
    | .ok (.home pa) =>
      (s.putFill u m ws (fun w => (s.readHome u false (pa + (w - line)) 1).2.headD 0)
        (fun w => s.poisoned u.coreId (pa + (w - line)) 4 false), here)
    | .ok (.remote d pa) =>
      let ask := fun (s : State) => if s.portsHeld then (s, Meet.wait) else (s.send u.id (.queue 0) d pa va (.read 128), .wait)
      match s.fillReq u va with
      | some r =>
        let s' := { s with pod.reqs := s.pod.reqs.filter (·.id != r.id) }
        if r.ans.isSome && r.stale then ask s'
        else match r.ans with
        | some (.data _) | some .poisoned => (s'.answerFill r, here)
        | some _ => (s', .noPerm)
        | none => if r.dead then (s', .dead d) else (s, .wait)
      | none => ask s
    | x => (s, x)

/-- Preparing a scratch access of n bytes (R329): an access to an unfilled word of a mapped line fills the line. A store of
whole words starts the fill and needs no result of it. -/
def State.prepare (s : State) (p : Place) (n : Nat) (store : Bool) : State × Meet :=
  match p with
  | .scratch id off pa =>
    match s.team? id with
    | none => (s, .ok p)
    | some u =>
      match u.mapOf off with
      | none => (s, .ok p)
      | some m =>
        if (List.range n).any fun i => !m.filled.contains ((off + i) / 4 * 4) then
          let x := s.fillLine u m off
          match x.2 with
          | .ok _ => (x.1, .ok (.scratch id off pa))
          | e => if store && decide (4 ≤ n) then (x.1, .ok p) else (x.1, e)
        else (s, .ok p)
  | _ => (s, .ok p)

/-- Marking the mapped words of a store filled and dirty. -/
def State.markDirty (s : State) (p : Place) (n : Nat) : State :=
  match p with
  | .scratch id off _ =>
    match s.team? id with
    | none => s
    | some u =>
      match u.mapOf off with
      | none => s
      | some m =>
        let ws := ((List.range n).map fun i => (off + i) / 4 * 4).eraseDups.filter m.has
        s.setTeam (u.setMap { m with filled := m.filled ++ ws.filter (fun w => !m.filled.contains w),
                                     dirty := m.dirty ++ ws.filter (fun w => !m.dirty.contains w) })
  | _ => s

/-- A team's maps and tables as the state now has them: fills, registrations and stale marks have changed the
team's record there. -/
def State.resync (s : State) (t : Team) : Team :=
  (s.team? t.id).elim t fun u => { t with maps := u.maps, eng.k := u.eng.k }

/-! One access of one lane or element. -/

/-- An access: the lane, element or register it is for, its address, its size. -/
structure Acc where
  key : Nat
  va  : Nat
  n   : Nat
  deriving DecidableEq, Repr

/-- What a load gives for one access: bytes, zero for a page that is not resident, zero for a dead member, or what the answer to
a request will bring from an offset on, beside the bytes that are known. -/
inductive Loaded where
  | data (bs : List Byte)
  | missing
  | dead (dev : BitVec 10)
  | awaits (req off : Nat) (known : List (Option Byte))
  deriving DecidableEq, Repr

/-- The access whose request brings an access's bytes: lane and plane loads send one read for each 128-byte line that
their guarded lanes touch (R348), under the first access of the line. DEDUCED (log 17). -/
def Acc.request (accs : List Acc) (a : Acc) : Acc :=
  if (1024 ≤ a.key ∧ a.key < 4096) ∨ 128 < a.va % 128 + a.n then a
  else ⟨((accs.find? fun b => b.va / 128 == a.va / 128 && decide (b.va % 128 + b.n ≤ 128)).getD a).key, a.va / 128 * 128, 128⟩

/-- The answer that an access already has, if any; `some none` while its request is outstanding. -/
def State.answered (s : State) (team : Nat) (a : Acc) (k : RemoteKind) : Option (Option RemoteOut) :=
  match s.pod.reqs.find? fun r => r.team == team && r.use == .instruction a.key && r.va.toNat == a.va && r.kind == k with
  | some r => if r.ans.isSome || r.dead then some (some r) else some none
  | none => none

/-- Requests that nothing waits for any more: an answered one goes, another stays until its answer or its timeout, as it is
still in flight on its port (R345, R350). -/
def State.abandon (s : State) (left : RemoteOut → Bool) : State :=
  let rest := s.pod.reqs.filter fun r => !(left r && (r.ans.isSome || r.dead || r.forming))
  { s with pod.reqs := rest.map fun r => if left r then { r with use := .gone } else r }

/-- The requests of some accesses of a team are done with. -/
def State.dropRequests (s : State) (team : Nat) (accs : List Acc) : State :=
  s.abandon fun r => r.team == team && accs.any fun a => r.use == .instruction a.key

/-- The first access whose target gave an answer: that the request lacks permission (R347), or that it met poison (R275). -/
def State.answeredWith (s : State) (team : Nat) (req : Acc → Acc) (kind : Acc → RemoteKind) (what : RemoteAnswer)
    (xs : List (Acc × Meet)) : Option Nat :=
  (xs.find? fun x => match s.answered team (req x.1) (kind x.1) with
    | some (some r) => r.ans == some what
    | _ => false).map (·.1.va)

/-- The fault that the answers of an instruction's targets bring. -/
def State.answerFault (s : State) (team : Nat) (req : Acc → Acc) (kind : Acc → RemoteKind) (xs : List (Acc × Meet)) :
    Option (BitVec 8 × DWord) :=
  match s.answeredWith team req kind .error xs with
  | some va => some (0x07, BitVec.ofNat 64 (va % 2 ^ 57))
  | none => (s.answeredWith team req kind .poisoned xs).map fun va => (0x0A, BitVec.ofNat 64 (8 + va % 2 ^ 57 / 256 * 256))

def Loaded.bytes (n : Nat) : Loaded → List Byte
  | .data bs => bs
  | _ => zeroBytes n

/-- The request that an access waits for. -/
def Loaded.req? : Loaded → Option Nat | .awaits r _ _ => some r | _ => none

/-- What the accesses of an instruction come to. -/
inductive Accessed (α : Type) where
  | ok (s : State) (x : α)
  | fault (s : State) (cause : BitVec 8) (tinfo : DWord)
  | stall (s : State) (why : Stall)

/-- A fault ends an instruction: what its accesses asked for is abandoned. -/
def Accessed.over {α : Type} (team : Nat) (accs : List Acc) : Accessed α → Accessed α
  | .fault s c ti => .fault (s.dropRequests team accs) c ti
  | x => x

/-- The first access that meets a condition. -/
def firstMeeting (p : Meet → Bool) (xs : List (Acc × Meet)) : Option Nat := (xs.find? fun x => p x.2).map (·.1.va)

/-- The fault that ranks first (R184): 0x07, then for a store 0x06. -/
def rankFault (load : Bool) (xs : List (Acc × Meet)) : Option (BitVec 8 × DWord) :=
  match firstMeeting (· == .noPerm) xs with
  | some va => some (0x07, BitVec.ofNat 64 (va % 2 ^ 57))
  | none =>
    if load then none
    else (firstMeeting (· == .nonResident) xs).map fun va => (0x06, BitVec.ofNat 64 (va % 2 ^ 57))

/-- Translating every access (R183: every lane is checked before any is performed). -/
def State.meetAll (s : State) (t : Team) (n : Need) (accs : List Acc) : List (Acc × Meet) :=
  accs.map fun a => (a, s.xlate t (a.va % 2 ^ 57) n)

/-- Filling the mapped lines that the accesses need. -/
def State.prepareAll (s : State) (store : Bool) : List (Acc × Meet) → State × List (Acc × Meet)
  | [] => (s, [])
  | (a, .ok p) :: r =>
    let (s, m) := s.prepare p a.n store
    let (s, r') := s.prepareAll store r
    (s, (a, m) :: r')
  | x :: r =>
    let (s, r') := s.prepareAll store r
    (s, x :: r')

/-- The trap detail of an address. -/
def addrInfo (va : Nat) : DWord := BitVec.ofNat 64 (va % 2 ^ 57)

/-- The trap detail of a poisoned word (R273, R275). -/
def poisonInfo (va : Nat) : DWord := BitVec.ofNat 64 (8 + va % 2 ^ 57 / 256 * 256)

/-- The first access that reads a poisoned word. -/
def State.firstPoison (s : State) (t : Team) (strong : Bool) (xs : List (Acc × Meet)) : Option Nat :=
  (xs.find? fun (a, m) => match m with
    | .ok (.home pa) => s.poisoned t.coreId pa a.n strong
    | .ok (.scratch _ _ pa) => s.poisoned t.coreId pa a.n true
    | _ => false).map (·.1.va)

/-- Whether an own store to a word of a place has not registered. -/
def Team.pendingAt (t : Team) (n : Nat) : Meet → Bool
  | .ok (.home pa) | .ok (.scratch _ _ pa) => t.pendingOn (wordsOf ((List.range n).map fun i => (pa + i, 0)))
  | _ => false

/-- The L1's copy of a remote device's bytes, when it has every word (R254). -/
def State.remoteCopy (s : State) (core : Nat) (dev : BitVec 10) (pa n : Nat) : Option (List Byte) :=
  let bs := (List.range n).map fun i =>
    (s.ms.l1.find? (l1Has core (some dev) ((pa + i) / 4 * 4))).map fun w => byteOf w.val ((pa + i) % 4)
  if bs.all Option.isSome then some (bs.filterMap id) else none

/-- Sending the requests of the remote accesses that have none; whether any has no answer yet. `req` gives the access
that an access's request is made for. -/
def State.askRemote (s : State) (t : Team) (strong : Bool) (req : Acc → Acc) (kind : Acc → RemoteKind) :
    List (Acc × Meet) → State × Bool
  | [] => (s, false)
  | (a, .ok (.remote d pa)) :: r =>
    if !strong && (s.remoteCopy t.coreId d pa a.n).isSome then s.askRemote t strong req kind r
    else match s.answered t.id (req a) (kind a) with
      | some (some _) => s.askRemote t strong req kind r
      | some none => ((s.askRemote t strong req kind r).1, true)
      | none =>
        if s.portsHeld then (s, true)
        else
          let at_ := pa - (a.va - (req a).va)
          (((s.sendRead t.id (.instruction (req a).key) d at_ (req a).va (kind a) strong).askRemote t strong req kind r).1, true)
  | _ :: r => s.askRemote t strong req kind r

/-- What a load gives for an access to a member that is no longer one: what the target answered before that, or zero (R351). -/
def State.lateData (s : State) (team : Nat) (req : Acc → Acc) (a : Acc) (dev : BitVec 10) : Loaded :=
  match s.answered team (req a) (.read (req a).n) with
  | some (some q) => match q.ans with
    | some (.data bs) => .data ((bs.drop (a.va - (req a).va)).take a.n)
    | _ => .dead dev
  | _ => .dead dev

/-- Reading every access. -/
def State.readAll (s : State) (t : Team) (strong : Bool) (req : Acc → Acc) : List (Acc × Meet) → State × List (Acc × Loaded)
  | [] => (s, [])
  | (a, m) :: r =>
    let (s, v) := match m with
      | .ok (.home pa) => let (s, bs) := s.readHome t strong pa a.n; (s, Loaded.data bs)
      | .ok (.scratch _ _ pa) => (s, .data (s.readScratch t pa a.n))
      | .ok (.remote d pa) =>
        match (if strong then none else s.remoteCopy t.coreId d pa a.n) with
        | some bs => (s, .data bs)
        | none =>
          match s.answered t.id (req a) (.read (req a).n) with
          | some (some q) =>
            match q.ans with
            | some (.data bs) =>
              (s, .data ((bs.drop (a.va - (req a).va)).take a.n))
            | _ => (s, .dead d)
          | _ => (s, .dead d)
      | .dead d => (s, s.lateData t.id req a d)
      | _ => (s, .missing)
    let (s, r') := s.readAll t strong req r
    (s, (a, v) :: r')

/-- The loads of an instruction, all performed at its issue (R121, R183, R184, R256). -/
def State.load (s : State) (t : Team) (strong : Bool) (accs : List Acc) : Accessed (List (Acc × Loaded)) :=
  let ms := s.meetAll t needR accs
  Accessed.over t.id accs <| match rankFault true ms with
  | some (c, ti) => .fault s c ti
  | none =>
    if ms.any fun x => x.2 == .wait then .stall s .sibling
    else
      let (s, ms) := s.prepareAll false ms
      match rankFault true ms with
      | some (c, ti) => .fault s c ti
      | none =>
        if ms.any fun x => x.2 == .wait then .stall s .remote
        else if strong && ms.any fun x => t.pendingAt x.1.n x.2 then .stall s .strong
        else match s.firstPoison t strong ms with
          | some va => .fault s 0x0A (poisonInfo va)
          | none =>
            let req := Acc.request accs
            let (s, waiting) := s.askRemote t strong req (fun a => .read (req a).n) ms
            if waiting then .stall s .remote
            else match s.answerFault t.id req (fun a => .read (req a).n) ms with
              | some (c, ti) => .fault s c ti
              | none =>
                let (s, xs) := s.readAll t strong req ms
                .ok (s.dropRequests t.id accs) xs

/-! Loads that issue and leave their windows to wait (R50, R348). -/

/-- What stands before the bytes of an access can be had: its place, or the request that will bring them. -/
structure Sought where
  meet : Meet
  req  : Option Nat
  deriving DecidableEq, Repr

/-- The place of one access of a load: an unfilled word of mapped scratch is filled or asked for (R329), and bytes of another member
that the L1 does not hold are asked for, once for each line. `sent` are the requests that the instruction has sent. `wait` where no
request can go out. -/
def State.seek (s : State) (t : Team) (strong : Bool) (ra : Acc) (a : Acc) (m : Meet) (sent : List (Acc × Nat)) :
    State × Sought × List (Acc × Nat) :=
  match m with
  | .ok (.remote d pa) =>
    if !strong && (s.remoteCopy t.coreId d pa a.n).isSome then (s, ⟨m, none⟩, sent)
    else match sent.find? (·.1 == ra) with
      | some x => (s, ⟨m, some x.2⟩, sent)
      | none =>
        if s.portsHeld then (s, ⟨.wait, none⟩, sent)
        else (s.sendRead t.id .load d (pa - (a.va - ra.va)) ra.va (.read ra.n) strong, ⟨m, some s.pod.nextReq⟩, (ra, s.pod.nextReq) :: sent)
  | .ok p =>
    match s.prepare p a.n false, p with
    | (s', .wait), .scratch id off _ =>
      match (s'.team? id).bind fun u => (u.mapOf off).bind fun m => s'.fillReq u (m.gva + (m.line off - m.off)) with
      | some r => (s', ⟨.ok p, some r.id⟩, sent)
      | none => (s', ⟨.wait, none⟩, sent)
    | (s', x), _ => (s', ⟨x, none⟩, sent)
  | m => (s, ⟨m, none⟩, sent)

def State.seekAll (s : State) (t : Team) (strong : Bool) (req : Acc → Acc) :
    List (Acc × Meet) → List (Acc × Nat) → State × List (Acc × Sought)
  | [], _ => (s, [])
  | (a, m) :: r, sent =>
    let x := s.seek t strong (req a) a m sent
    let y := x.1.seekAll t strong req r x.2.2
    (y.1, (a, x.2.1) :: y.2)

/-- The bytes of an access to mapped scratch that its region has: none for those of an unfilled word. -/
def State.knownBytes (s : State) (t : Team) (id off pa n : Nat) : List (Option Byte) :=
  let m := (s.team? id).bind (·.mapOf off)
  ((List.range n).zip (s.readScratch t pa n)).map fun (i, b) =>
    if m.any fun m => m.has (off + i) && !m.filled.contains ((off + i) / 4 * 4) then none else some b

/-- The offset of an access in the map line that its fill brings. -/
def State.fillOff (s : State) (id off : Nat) : Nat := (((s.team? id).bind (·.mapOf off)).map fun m => off - m.line off).getD 0

/-- What a load gives for an access. -/
def State.fetchBytes (s : State) (t : Team) (strong : Bool) (ra a : Acc) (x : Sought) : State × Loaded :=
  match x.meet, x.req with
  | .ok (.home pa), _ => let y := s.readHome t strong pa a.n; (y.1, .data y.2)
  | .ok (.scratch _ _ pa), none => (s, .data (s.readScratch t pa a.n))
  | .ok (.scratch id off pa), some r => (s, .awaits r (s.fillOff id off) (s.knownBytes t id off pa a.n))
  | .ok (.remote d pa), none => (s, ((s.remoteCopy t.coreId d pa a.n).map Loaded.data).getD (.dead d))
  | .ok (.remote _ _), some r => (s, .awaits r (a.va - ra.va) (List.replicate a.n none))
  | .dead d, _ => (s, .dead d)
  | _, _ => (s, .missing)

def State.fetchAll (s : State) (t : Team) (strong : Bool) (req : Acc → Acc) : List (Acc × Sought) → State × List (Acc × Loaded)
  | [] => (s, [])
  | (a, x) :: r =>
    let y := s.fetchBytes t strong (req a) a x
    let z := y.1.fetchAll t strong req r
    (z.1, (a, y.2) :: z.2)

/-- The loads of an instruction, performed at its issue; the team does not stall for what another member has to bring
(R121, R183, R184, R256, R348). -/
def State.loadIssue (s : State) (t : Team) (strong : Bool) (accs : List Acc) : Accessed (List (Acc × Loaded)) :=
  let ms := s.meetAll t needR accs
  match rankFault true ms with
  | some (c, ti) => .fault s c ti
  | none =>
    if ms.any fun x => x.2 == .wait then .stall s .sibling
    else
      let req := Acc.request accs
      let x := s.seekAll t strong req ms []
      let ms := x.2.map fun y => (y.1, y.2.meet)
      let back := x.1.abandon fun r => decide (s.pod.nextReq ≤ r.id)
      match rankFault true ms with
      | some (c, ti) => .fault back c ti
      | none =>
        if ms.any fun y => y.2 == .wait then .stall s .remote
        else if strong && ms.any fun y => t.pendingAt y.1.n y.2 then .stall s .strong
        else match x.1.firstPoison t strong ms with
          | some va => .fault back 0x0A (poisonInfo va)
          | none => let y := x.1.fetchAll t strong req x.2; .ok y.1 y.2

/-- The flags and TINFO of a read that meets a dead member (R41, R184, R351). -/
def Team.noteDead (t : Team) (d : BitVec 10) : Team :=
  let t := t.setFlags (flagRemote ||| flagMiss)
  if t.tm then t else { t with sys.tinfo := setField t.sys.tinfo 0 10 d.toNat }

/-- The flags, residency predicate and TINFO of a load's missing lanes (R122, R184, R41). `lanes` gives the lanes
an access stands for. -/
def Team.noteMissing (t : Team) (lanes : Acc → LaneMask) (xs : List (Acc × Loaded)) : Team :=
  xs.foldl (fun t x => match x.2 with
    | .data _ | .awaits _ _ _ => t
    | .missing => (t.writePIn t.rp (lanes x.1) allLanes).setFlags flagMiss
    | .dead d => (t.writePIn t.rp (lanes x.1) allLanes).noteDead d) t

/-! The bytes that a window has waited for (R50, R348). -/

/-- How a request of a load ends: with bytes, at a dead member, or with a fault. -/
inductive LoadEnd where
  | data (bs : List Byte)
  | dead (dev : BitVec 10)
  | fault (cause : BitVec 8)
  deriving DecidableEq, Repr

/-- The bytes of a part of a load once its answer is there: zero from a dead member (R184). -/
def LoadPart.bytes (p : LoadPart) : LoadEnd → List Byte
  | .data bs => ((List.range p.known.length).zip p.known).map fun (i, b) => b.getD (bs.getD (p.off + i) 0)
  | _ => zeroBytes p.known.length

/-- A log entry takes bytes at an offset. -/
def LogEntry.putData (e : LogEntry) (off : Nat) (bs : List Byte) : LogEntry :=
  { e with data := e.data.take off ++ bs ++ e.data.drop (off + bs.length) }

/-- What a part of a load does to its team when its answer is there: its log entry, which a fault marks as failed, and the notes of
a missing lane. -/
def LoadPart.arrive (p : LoadPart) (rp : Nat) (x : LoadEnd) (t : Team) : Team :=
  let t := match p.log with
    | none => t
    | some (i, off) =>
      let e := (t.rep.log[i]?).getD ⟨0, 0, [], false, 0, none⟩
      { t with rep.log := setAt t.rep.log i (match x with | .fault _ => { e with failed := true } | _ => e.putData off (p.bytes x)) }
  match x with
  | .dead d => (t.writePIn rp p.lanes allLanes).noteDead d
  | _ => t

/-- A window when a request has ended: its parts of that request become writes. -/
def Window.answer (w : Window) (id : Nat) (x : LoadEnd) : Window :=
  let mine := w.waits.filter (·.req == id)
  { w with waits := w.waits.filter (·.req != id),
           writes := w.writes ++ (match x with | .fault _ => [] | _ => mine.flatMap fun p => p.dest.put (p.bytes x)) }

/-- The parts of a team's loads that wait for a request. -/
def Team.partsOf (t : Team) (id : Nat) : List (Nat × LoadPart) :=
  t.iss.windows.flatMap fun w => (w.waits.filter (·.req == id)).map fun p => (w.rp, p)

/-- The detail of a fault that the answer to a load brings, at its first part's address (R184, R262). -/
def loadFault (cause : BitVec 8) (va : Nat) : DWord := if cause = 0x0A then poisonInfo va else addrInfo va

/-- Which of two faults of one instruction it raises (R184): permission, then poison, then a dead member; of two alike that of the
request which was sent first, which is the lower lane's. INDET tells of any lane. Cause 0 stands for a fault that has been raised. -/
def firstFault (a b : Nat × BitVec 8 × DWord) : Nat × BitVec 8 × DWord :=
  let x := if b.2.1.toNat < a.2.1.toNat ∨ (b.2.1 = a.2.1 ∧ b.1 < a.1) then b else a
  if x.2.1 = 0x0B then (x.1, x.2.1, x.2.2 ||| ((a.2.2 ||| b.2.2) &&& (1 <<< 62))) else x

/-- A flight that has lost a request, with the fault that it brings. -/
def Flight.lose (f : Flight) (id : Nat) (fault : Option (BitVec 8 × DWord)) : Flight :=
  if f.remote.contains id then
    let new := fault.map fun x => (id, x.1, x.2)
    { f with remote := f.remote.filter (· != id),
             fault := match f.fault, new with | some a, some b => some (firstFault a b) | some a, none => some a | none, n => n }
  else f

/-! In-flight counters (R38). -/

/-- The counter of a path. -/
def Team.counter (t : Team) (path : Nat) : Nat := (t.iss.flights.filter (·.path == path)).length

/-- Whether raising the counters of some paths would pass 65,535. -/
def Team.counterFull (t : Team) (paths : List Nat) : Bool := paths.any fun p => decide (65535 ≤ t.counter p)

/-- The memory requests that the teams of a core have outstanding, one for each path that an instruction uses (R341). -/
def State.outstanding (s : State) (core : Nat) : Nat :=
  ((s.teams.filter fun t => t.sched.life.holds && t.coreId == core).flatMap (·.iss.flights)).countP fun f =>
    !f.done && (match f.kind with | .load | .store => true | _ => false)

/-- Whether an instruction that uses some paths cannot issue: a counter is full, or the core's requests are all in use
(R38, R341). DEDUCED (log 17). -/
def State.pathsFull (s : State) (t : Team) (paths : List Nat) : Bool :=
  t.counterFull paths || decide (Config.coreRequests < s.outstanding t.coreId + paths.length)

/-- Operations leave in issue order, each path by itself, as far as they have returned (R38). -/
def retireFlights (blocked : List Nat) : List Flight → List Flight
  | [] => []
  | f :: r => if f.done && !blocked.contains f.path then retireFlights blocked r else f :: retireFlights (f.path :: blocked) r

def Team.settleFlights (t : Team) : Team := { t with iss.flights := retireFlights [] t.iss.flights }

def loadFlight (path : Nat) (strong : Bool) (va next : Nat) (reqs : List Nat) : Flight :=
  ⟨path, .load, strong, false, [], reqs, false, BitVec.ofNat 64 va, next, none⟩

/-- The load paths that some addresses use: 2 for the window, 0 for the rest (R123, R185). -/
def loadPaths (vas : List Nat) : List Nat :=
  (if vas.any (!inWindow ·) then [0] else []) ++ (if vas.any inWindow then [2] else [])
def storePaths (vas : List Nat) : List Nat :=
  (if vas.any (!inWindow ·) then [1] else []) ++ (if vas.any inWindow then [3] else [])

def Team.addFlights (t : Team) (fs : List Flight) : Team := { t with iss.flights := t.iss.flights ++ fs }

/-! Stores. -/

/-- A store of one lane or element: its access and its bytes. -/
abbrev StoreAcc := Acc × List Byte

/-- The bytes at their places, for the places a test admits. -/
def placedBytes (keep : Place → Bool) (xs : List (Acc × Meet)) (bytes : Acc → List Byte) : List (Nat × Byte) :=
  xs.flatMap fun (a, m) => match m with
    | .ok p => if keep p then
        (match p with
          | .home pa => (List.range a.n).zip (bytes a) |>.map fun (i, b) => (pa + i, b)
          | .scratch _ _ pa => (List.range a.n).zip (bytes a) |>.map fun (i, b) => (pa + i, b)
          | .remote _ _ => [])
      else []
    | _ => []

def Place.isHome : Place → Bool | .home _ => true | _ => false
def Place.isScratch : Place → Bool | .scratch _ _ _ => true | _ => false

/-- A write packet that is being formed: the target, the aligned 256-byte block, the first address written, the bytes
by offset (R348). -/
structure Packet where
  dev   : BitVec 10
  block : Nat
  va    : Nat
  bytes : List (Nat × Byte)
  deriving DecidableEq, Repr

/-- Gathering a byte into the packet of its block. -/
def addByte (dev : BitVec 10) (pa va : Nat) (b : Byte) : List Packet → List Packet
  | [] => [⟨dev, pa / 256 * 256, va, [(pa % 256, b)]⟩]
  | p :: r =>
    if p.dev = dev ∧ p.block = pa / 256 * 256 then { p with bytes := p.bytes ++ [(pa % 256, b)] } :: r
    else p :: addByte dev pa va b r

def addBytes (dev : BitVec 10) (pa va : Nat) (bs : List Byte) (ps : List Packet) : List Packet :=
  ((List.range bs.length).zip bs).foldl (fun ps x => addByte dev (pa + x.1) (va + x.1) x.2 ps) ps

/-- The packets of the remote accesses of an instruction. -/
def packets (bytes : Acc → List Byte) (xs : List (Acc × Meet)) : List Packet :=
  xs.foldl (fun ps x => match x.2 with
    | .ok (.remote d pa) => addBytes d pa x.1.va ((bytes x.1).take x.1.n) ps
    | _ => ps) []

/-- Sending packets; the requests' ids. -/
def State.sendPackets (s : State) (id : Nat) (use_ : RemoteFor) : List Packet → State × List Nat
  | [] => (s, [])
  | p :: r =>
    let n := s.pod.nextReq
    let (s, ids) := (s.send id use_ p.dev p.block p.va (.write p.bytes)).sendPackets id use_ r
    (s, n :: ids)

/-- Sending one atomic store for each remote lane of V.ATOM.ST; the requests' ids. -/
def State.sendAtoms (s : State) (id : Nat) (bytes : Acc → List Byte) : List (Acc × Meet) → State × List Nat
  | [] => (s, [])
  | (a, .ok (.remote d pa)) :: r =>
    let n := s.pod.nextReq
    let (s, ids) := (s.send id .flight d pa a.va (.atomic .st false (BitVec.ofNat 64 (ofBytes (bytes a))) 0)).sendAtoms id bytes r
    (s, n :: ids)
  | _ :: r => s.sendAtoms id bytes r

/-- Sending the requests of the remote accesses of a store, on path 7 those of V.ATOM.ST; the requests' ids (R348). -/
def State.sendWrites (s : State) (t : Team) (path : Nat) (bytes : Acc → List Byte) (xs : List (Acc × Meet)) : State × List Nat :=
  if path = 7 then s.sendAtoms t.id bytes xs else s.sendPackets t.id .flight (packets bytes xs)

/-- The stores of an instruction: on paths 1 and 3, or with `remotePath` for remote lanes (V.ATOM.ST: R185). The
result carries the team with its new flights and the first dead target, if any. -/
def State.store (s : State) (t : Team) (strong : Bool) (remotePath : Nat) (xs : List StoreAcc) :
    Accessed (Team × Option (DWord × Bool)) :=
  let accs := xs.map (·.1)
  let bytes := fun (a : Acc) => ((xs.find? fun x => x.1 == a).map (·.2)).getD []
  let ms := s.meetAll t needW accs
  match rankFault false ms with
  | some (c, ti) => .fault s c ti
  | none =>
    if ms.any fun x => x.2 == .wait then .stall s .sibling
    else
      let (s, ms) := s.prepareAll true ms
      match rankFault false ms with
      | some (c, ti) => .fault s c ti
      | none =>
        if ms.any fun x => x.2 == .wait then .stall s .remote
        else
          let home := placedBytes Place.isHome ms bytes
          let scr := placedBytes Place.isScratch ms bytes
          let anyRemote := ms.any fun x => match x.2 with | .ok (.remote _ _) => true | _ => false
          let anyDead := ms.any fun x => match x.2 with | .dead _ => true | _ => false
          let local_ := ms.any fun x => match x.2 with | .ok (.home _) => true | _ => false
          if anyRemote && s.portsHeld then .stall s .remote else
          let (s, ids) := s.sendWrites t remotePath bytes ms
          let s := ms.foldl (fun s x => match x.2 with | .ok p => s.markDirty p x.1.n | _ => s) s
          let t := (s.team? t.id).elim t fun u => { t with maps := u.maps }
          let va := BitVec.ofNat 64 ((accs.head?.map (·.va)).getD 0)
          let whole := strong && accs.all fun a => a.n == 8
          -- a lane of a dead target faults at once, and no other of the instruction does (R184)
          let fault := if anyDead && ids != [] then some (0, 0, 0) else none
          let fs :=
            (if local_ || ((anyRemote || anyDead) && remotePath == 1) then
              [(⟨1, .store, strong, whole, home, if remotePath = 1 then ids else [], decide (home = [] ∧ (remotePath ≠ 1 ∨ ids = [])), va, t.eng.next,
                if remotePath = 1 then fault else none⟩ : Flight)] else []) ++
            (if ms.any (fun x => match x.2 with | .ok (.scratch _ _ _) => true | _ => false) then
              [(⟨3, .store, strong, whole, scr, [], decide (scr = []), va, t.eng.next, none⟩ : Flight)] else []) ++
            (if (anyRemote || anyDead) && remotePath != 1 then
              [(⟨remotePath, .store, strong, whole, [], ids, decide (ids = []), va, t.eng.next, fault⟩ : Flight)] else [])
          let t := (t.addFlights fs).staleTables (home ++ scr)
          .ok s (t.settleFlights, (firstMeeting (fun m => match m with | .dead _ => true | _ => false) ms).map
            fun va => (BitVec.ofNat 64 (va % 2 ^ 57), false))

/-! Atomics (R125, R190). -/

/-- Performing operations at local homes in order, each seeing what the ones before it left. -/
def State.performAt (s : State) (t : Team) (op : Acc → List Byte → Option (List Byte)) :
    List (Acc × Meet) → State × List (Acc × Loaded)
  | [] => (s, [])
  | (a, m) :: r =>
    let (s, v) := match m with
      | .ok p =>
        let at_ := match p with | .home pa => some (pa, true) | .scratch _ _ pa => some (pa, false) | .remote _ _ => none
        match at_ with
        | none => (s, Loaded.missing)
        | some (pa, cached) =>
          let old := s.mem.bytes pa a.n
          let s := match op a old with
            | some new => ((s.register (some t.coreId) cached ((List.range a.n).zip new |>.map fun (i, b) => (pa + i, b)))).markDirty p a.n
            | none => s.dropUnowned t.coreId (wordsOf ((List.range a.n).map fun i => (pa + i, 0)))
          (s, .data old)
      | _ => (s, .missing)
    let (s, r') := s.performAt t op r
    (s, (a, v) :: r')

/-- The operations of an instruction at the homes of its addresses (R125, R190, R199): local ones at once, remote
ones once their answers are there. What the accesses meet: for a dead target the flag says that it may have
performed the operation. -/
def State.atomic (s : State) (t : Team) (need : Need) (op : Acc → List Byte → Option (List Byte)) (remote : Acc → RemoteKind)
    (reads : Bool) (accs : List Acc) : Accessed (List (Acc × Loaded × Option RemoteAnswer) × Option (DWord × Bool)) :=
  let ms := s.meetAll t need accs
  Accessed.over t.id accs <| match rankFault false ms with
  | some (c, ti) => .fault s c ti
  | none =>
    if ms.any fun x => x.2 == .wait then .stall s .sibling
    else
      let (s, ms) := s.prepareAll (!reads) ms
      match rankFault false ms with
      | some (c, ti) => .fault s c ti
      | none =>
        if ms.any fun x => x.2 == .wait then .stall s .remote
        else if ms.any fun x => t.pendingAt x.1.n x.2 then .stall s .store
        else match (if reads then s.firstPoison t true ms else none) with
          | some va => .fault s 0x0A (poisonInfo va)
          | none =>
            let (s, waiting) := s.askRemote t true id remote ms
            let sent := fun (x : Acc × Meet) => match x.2 with | .dead _ => s.answered t.id x.1 (remote x.1) == some none | _ => false
            if waiting || ms.any sent then .stall s .remote
            else match s.answerFault t.id id remote ms with
            | some (c, ti) => .fault s c ti
            | none =>
              let (s', locals) := s.performAt t op (ms.filter fun x => match x.2 with | .ok (.remote _ _) => false | _ => true)
              let one := fun (a : Acc) (m : Meet) => match m with
                | .ok (.remote d _) | .dead d =>
                  match s.answered t.id a (remote a) with
                  | some (some q) =>
                    match q.ans with
                    | some (.data bs) => (a, Loaded.data bs, q.ans)
                    | some .done => (a, .data (zeroBytes a.n), q.ans)
                    | some (.overflow k) => (a, .data (zeroBytes a.n), some (.overflow k))
                    | _ => (a, .dead d, q.ans)
                  | _ => (a, .dead d, none)
                | _ => (a, ((locals.find? fun l => l.1 == a).map (·.2)).getD .missing, none)
              let xs := ms.map fun x => one x.1 x.2
              let deads := xs.filter fun x => match x.2.1 with | .dead _ => true | _ => false
              -- a target that went dead after the request was sent may have performed it (R126, R258)
              let indet := deads.any fun x => match s.answered t.id x.1 (remote x.1) with | some (some q) => q.dead | _ => false
              .ok (s'.dropRequests t.id accs) (xs, (deads.head?).map fun x => (BitVec.ofNat 64 (x.1.va % 2 ^ 57), indet))

/-! Release and acquire (R193, R194, R245). -/

/-- Whether every earlier store has registered or been acknowledged (R193, R246). -/
def Team.storesDone (t : Team) : Bool :=
  t.iss.flights.all fun f => match f.kind with | .store => f.done || (f.bytes.isEmpty && f.remote.isEmpty) | _ => true

/-- The serials of the operations that a queue of a team still holds, by queue number 0 to 6. -/
def Team.queued (t : Team) (q : Nat) : List Nat :=
  if q = 5 then t.eng.q5.map (·.serial) else if q = 6 then t.eng.q6.map (·.serial)
  else (t.eng.copies.filter (·.q == q)).map (·.serial)

/-- Whether the queued operations that a QFENCE marked for the next release are done (R193, R197). -/
def Team.fencedDone (t : Team) : Bool :=
  t.eng.qfences.all fun (m, n) => (List.range 7).all fun q =>
    !m.getLsbD q || (t.queued q).all fun x => decide (n ≤ x)

/-- Whether a release may take effect: never while a store before it has ended as one to a dead target (R258). -/
def Team.releaseReady (t : Team) : Bool := t.storesDone && t.fencedDone && !(t.iss.faults.any (·.store))

/-- Whether the team's previous strong access has been performed (R123, R186, R247). -/
def Team.strongDone (t : Team) : Bool :=
  t.iss.flights.all fun f => !f.strong || f.done || (f.bytes.isEmpty && f.remote.isEmpty)

/-- Whether a request was sent for a team of a core. -/
def State.sentBy (s : State) (core : Nat) (r : RemoteOut) : Bool := (s.team? r.team).any fun u => u.coreId == core

/-- An acquire of a team: its core's L1 keeps only owned words, and keeps nothing of the remote reads under way; words
fetched ahead go (R194, R245, R254). -/
def State.acquire (s : State) (t : Team) : State :=
  { s with ms.l1 := s.ms.l1.filter fun w => w.core != t.coreId || w.own,
           pod.reqs := s.pod.reqs.map fun (r : RemoteOut) => if s.sentBy t.coreId r then { r with stale := true } else r }

def Team.acquired (t : Team) : Team := { t with iss.ahead := [] }

end Sys2Proof.Machine
end

