-- ==== Sys2Proof/Machine/Atom.lean ====
section
/-! DEFINITION. What an atomic does to a word (R125, R190), wherever it is performed, and the shared course of an
instruction that accesses memory: replay from the log, faults, stalls. -/

namespace Sys2Proof

/-- Bytes of an access size (R91). -/
def Size.bytes : Size → Nat | .b8 => 1 | .b16 => 2 | .b32 => 4 | .b64 => 8

def Strength.isStrong : Strength → Bool | .strong => true | .weak => false
def Order.releases : Order → Bool | .rel | .ar => true | _ => false
def Order.acquires : Order → Bool | .acq | .ar => true | _ => false

namespace Machine

/-! The functions (R125, R190). -/

/-- A number of w bits as a signed one. -/
def signedOf (w x : Nat) : Int := if 2 ^ (w - 1) ≤ x % 2 ^ w then (x % 2 ^ w : Int) - (2 ^ w : Nat) else (x % 2 ^ w : Nat)

/-- A floating sum at one element, rounded to nearest even (R190). -/
def atomSum (f : Fmt) (old x : Nat) : Nat × Nat :=
  f.roundI rne (sumProducts .rne [] [f.decode old, f.decode x])

/-- The result and flags of the floating atomics: one FP32 sum, or two BF16 sums. -/
def atomFloat (op : AtomOp) (old x : Nat) : Nat × Nat :=
  if op = .addf then atomSum fp32 old x
  else
    let lo := atomSum bf16 (old % 65536) (x % 65536)
    let hi := atomSum bf16 (old / 65536 % 65536) (x / 65536 % 65536)
    (lo.1 + 65536 * hi.1, lo.2 ||| hi.2)

/-- The value that an atomic of w bits leaves, none where it leaves memory untouched. -/
def atomNew (op : AtomOp) (w old x y : Nat) : Option Nat :=
  match op with
  | .add => some ((old + x) % 2 ^ w)
  | .and => some (old &&& x)
  | .or => some (old ||| x)
  | .xor => some (old ^^^ x)
  | .min => some (if signedOf w x < signedOf w old then x else old)
  | .max => some (if signedOf w old < signedOf w x then x else old)
  | .minu => some (min old x)
  | .maxu => some (max old x)
  | .swap | .st => some x
  | .cas => if old = x then some y else none
  | .addf | .addbf => some (atomFloat op old x).1
  | .ld => none

/-- The flags of an atomic. -/
def atomFlags (op : AtomOp) (old x : Nat) : Nat :=
  match op with
  | .addf | .addbf => (atomFloat op old x).2
  | _ => 0

/-- The permissions that an atomic needs (R336): one that only loads needs no more than a load, as R303 lets teams read the
export cells that they may not write. DEDUCED (log 63). -/
def AtomOp.need : AtomOp → Need | .ld => needR | _ => needRW

/-- The same over bytes. -/
def atomBytes (op : AtomOp) (n : Nat) (x y : Nat) (old : List Byte) : Option (List Byte) :=
  (atomNew op (8 * n) (ofBytes old) x y).map (toBytes n)

/-! The course of an access. -/

/-- An access's outcome as an effect: a fault is region-precise, a stall is tried again. -/
def Accessed.run {α : Type} (t : Team) (x : Accessed α) (k : State → α → Effect) : Effect :=
  match x with
  | .ok s x => k s x
  | .fault s cause tinfo => .trap s (s.resync t) cause tinfo .region
  | .stall s why => .stall s (s.resync t) why

/-- An effect that stalls has not issued: it opens no region and discards no log entry (R48, R49). -/
def Effect.unlogged (t0 : Team) : Effect → Effect
  | .stall s t why =>
    .stall s { t with rep := t0.rep, sys.regpc := t0.sys.regpc, ctl.rloop := t0.ctl.rloop, ctl.frags := t0.ctl.frags } why
  | e => e

/-- An effect (R46): taken from the log when its entry is met again, else performed (R48, R49). -/
def Ctx.effect (c : Ctx) (replay : Team → LogEntry → Effect) (perform : Team → Effect) : Effect :=
  match c.t.logStep c.fi with
  | .wait t => .stall c.s t .replay
  | .replay t e => replay t e
  | .perform t => (perform t).unlogged c.t

/-- Whether the next entry of the replay log is that of the instruction which issues (R48). -/
def Ctx.replays (c : Ctx) : Bool :=
  !c.t.tm && (c.t.rep.log[c.t.rep.consumed]?).any fun e => e.pc == c.pc && !e.failed

/-- An operation that enters a queue (R46): its entry of the log stands for it, it stalls while `full`, and else goes on. What
stalls it, and what its descriptor is judged by, come before it counts as an effect (R98, R99). -/
def Ctx.enters (c : Ctx) (full : Bool) (why : Stall) (k : Effect) : Effect :=
  if c.replays then c.effect (fun t _ => .next c.s t) fun t => .next c.s t
  else if full then .stall c.s c.t why else k

/-- The operation is performed, in the state that reading its descriptors has left. -/
def Ctx.performs (c : Ctx) (s : State) (t : Team) (k : Team → Effect) : Effect :=
  ({ c with s := s, t := t } : Ctx).effect (fun t _ => .next s t) k

/-- The same when only some forms of an instruction are effects. -/
def Ctx.effectIf (c : Ctx) (b : Bool) (replay : Team → LogEntry → Effect) (perform : Team → Effect) : Effect :=
  if b then c.effect replay perform else perform c.t

/-- A strong access issues after the previous one has been performed (R123, R186). -/
def Ctx.afterStrong (c : Ctx) (t : Team) (strong : Bool) (k : Effect) : Effect :=
  if strong && !t.strongDone then .stall c.s t .strong else k

/-- The wait of a release (R193). -/
def Ctx.afterRelease (c : Ctx) (t : Team) (rel : Bool) (k : Effect) : Effect :=
  if rel && !t.releaseReady then .stall c.s t .release else k

/-- A remote fault (R184, R258). -/
def remoteFault (s : State) (t : Team) (d : DWord × Bool) : Effect :=
  .trap s t 0x0B (d.1 ||| (if d.2 then 1 <<< 62 else 0)) .region

/-- The access of a scalar instruction. -/
def Ctx.sAcc (c : Ctx) (va n : Nat) : Acc := ⟨1024 + c.fi, va, n⟩

/-- Recording where the form is an effect. DEDUCED (log 34). -/
def Team.recordIf (t : Team) (b : Bool) (fi : Nat) (data : List Byte) : Team := if b then t.record fi data else t

end Machine

end Sys2Proof
end

