-- ==== Sys2Proof/Machine/Control.lean ====
section
/-! DEFINITION. Branches, calls, the link stack, loops, splits and the predicate stack (R127 to R136), and the
system instructions that move control: NOP, TRAP, BKPT, ERET, REGION, EXIT (R137, R141). -/

namespace Sys2Proof.Machine

/-- A branch target: the branch's address plus four times its signed word offset (R91). -/
def Ctx.target {w : Nat} (c : Ctx) (off : BitVec w) : DWord := addr57 (c.pc + (sext off <<< 2))

/-- A taken transfer. -/
def Ctx.go (c : Ctx) (t : Team) (target : DWord) : Effect := .jump c.s t c.t.linkDepth target

/-- A precise trap at the instruction's own PC. -/
def Ctx.precise (c : Ctx) (cause : BitVec 8) (tinfo : DWord) : Effect := .trap c.s c.t cause tinfo (.precise c.pc)

/-! The link stack (R34). -/

/-- A push: a full stack first spills its oldest entry by a weak store at LSP. -/
def Ctx.push (c : Ctx) (ret : DWord) (k : State → Team → Effect) : Effect :=
  if c.t.ctl.link.length < 16 then k c.s { c.t with ctl.link := ret :: c.t.ctl.link }
  else if c.t.sys.lsp.toNat % 8 ≠ 0 then c.precise 0x05 c.t.sys.lsp
  else
    let a : Acc := ⟨1024 + c.fi, c.t.sys.lsp.toNat, 8⟩
    if c.s.pathsFull c.t (storePaths [a.va]) then .stall c.s c.t .counterFull
    else match c.s.store c.t false 1 [(a, toBytes 8 ((c.t.ctl.link.getLastD 0).toNat))] with
      | .ok s (t, none) =>
        k s { t with ctl.link := ret :: t.ctl.link.dropLast, ctl.spilled := t.ctl.spilled + 1, sys.lsp := addr57 (t.sys.lsp + 8) }
      | .ok s (t, some _) => .trap s t 0x0F c.t.sys.lsp .region
      | .fault s _ _ => .trap s c.t 0x0F c.t.sys.lsp .region
      | .stall s why => .stall s c.t why

/-- The entry that a pop gives, and the team without it: an empty stack refills from below LSP. DESIGN CHOICE (log 72). -/
def Ctx.pop (c : Ctx) (k : State → Team → DWord → Effect) : Effect :=
  match c.t.ctl.link with
  | e :: r => k c.s { c.t with ctl.link := r } e
  | [] =>
    if c.t.ctl.spilled = 0 then c.precise 0x03 1
    else
      let lsp := addr57 (c.t.sys.lsp - 8)
      if lsp.toNat % 8 ≠ 0 then c.precise 0x05 lsp
      else match c.s.load c.t false [⟨1024 + c.fi, lsp.toNat, 8⟩] with
        | .ok s [(_, .data bs)] =>
          k s { s.resync c.t with ctl.spilled := c.t.ctl.spilled - 1, sys.lsp := lsp } (BitVec.ofNat 64 (ofBytes bs))
        | .ok s _ => .trap s c.t 0x0F lsp .region
        | .fault s cause ti => if cause = 0x0A then .trap s c.t cause ti .region else .trap s c.t 0x0F lsp .region
        | .stall s why => .stall s c.t why

/-- A CALL, CALLR or RET in a split team (R127). -/
def Ctx.splitTrap (c : Ctx) : Effect := c.precise 0x04 3

/-- Branch (R127). -/
def execBr (off : BitVec 26) (s : State) : Host.Outcome State Fault Refusal :=
  s.issue (.br off) (.front 1) fun c => c.go c.t (c.target off)

/-- Call: pushes PC + 4 (R127). Loop entries stay (R133). -/
def execCall (off : BitVec 26) (s : State) : Host.Outcome State Fault Refusal :=
  s.issue (.call off) (.front 1) fun c =>
    if c.t.split then c.splitTrap
    else c.push (addr57 (c.pc + 4)) fun s t => .done s (t.setFrag c.fi { c.f with pc := c.target off, replay := false }) [c.fi]

/-- Branch if S[C] = 0 (R128). -/
def execBrz (c : BitVec 7) (off : BitVec 19) (s : State) : Host.Outcome State Fault Refusal :=
  s.issue (.brz c off) (.front 1) fun x => if x.S c = 0 then x.go x.t (x.target off) else .next x.s x.t

/-- Branch if S[C] ≠ 0 (R128). -/
def execBrnz (c : BitVec 7) (off : BitVec 19) (s : State) : Host.Outcome State Fault Refusal :=
  s.issue (.brnz c off) (.front 1) fun x => if x.S c ≠ 0 then x.go x.t (x.target off) else .next x.s x.t

/-- The tests of BRP over the lanes of Q (R129). -/
def testHolds (test : Test) (q p : LaneMask) : Bool :=
  match test with
  | .any => q &&& p != 0
  | .all => q &&& ~~~p == 0
  | .none => q &&& p == 0
  | .notall => q &&& ~~~p != 0

/-- Branch on a predicate test of the whole fragment (R129). -/
def execBrp (p : BitVec 4) (test : Test) (off : BitVec 19) (s : State) : Host.Outcome State Fault Refusal :=
  s.issue (.brp p test off) (.front 1) fun c =>
    if testHolds test (c.t.topLanes c.f) (c.t.readP p.toNat) then c.go c.t (c.target off) else .next c.s c.t

/-- RECV sets the pending fuse address (R130). -/
def execRecv (off : BitVec 19) (s : State) : Host.Outcome State Fault Refusal :=
  s.issue (.recv off) (.front 1) fun c => .next c.s { c.t with ctl.pend := some (c.target off) }

/-- Splitting a fragment into the lanes T at the target and the lanes N at PC + 4 (R36, R131). A branch of T out of
the innermost loop body, or N's passing its last instruction, pops the entry (R133). DESIGN CHOICE (log 76). -/
def Ctx.splitAt (c : Ctx) (taken : LaneMask) (target pend : DWord) (entry : Nat) : Effect :=
  let f := c.f
  let id := c.t.ctl.splits
  let path := (id, f.depth) :: f.path
  let loop := if c.t.tm then c.t.ctl.loop
    else match leaveLoops c.t.linkDepth target c.t.ctl.loop with
      | e :: r => if decide (e.last = c.pc) && decide (e.linkDepth = c.t.linkDepth) then r else e :: r
      | [] => []
  let a : Frag := ⟨taken, target, f.depth, f.level + 1, .running, path, false⟩
  let b : Frag := ⟨f.mask &&& ~~~taken, addr57 (c.pc + 4), f.depth, f.level + 1, .running, path, false⟩
  .done c.s { c.t with
    ctl.frags := setAt (setAt c.t.ctl.frags c.fi a) entry b,
    ctl.fuse := setAt c.t.ctl.fuse f.level (some pend),
    ctl.pend := none, ctl.loop := loop, ctl.splits := id + 1 } [c.fi, entry]

/-- The divergent branch (R131). -/
def execBrd (p : BitVec 4) (off : BitVec 19) (s : State) : Host.Outcome State Fault Refusal :=
  s.issue (.brd p off) (.front 1) fun c =>
    let taken := c.t.topLanes c.f &&& c.t.readP p.toNat
    let rest := c.f.mask &&& ~~~taken
    let t := { c.t with ctl.pend := none }
    if taken = 0 then .next c.s t
    else if rest = 0 then .jump c.s t c.t.linkDepth (c.target off)
    else match c.t.ctl.pend with
      | none => c.precise 0x04 1
      | some a =>
        match c.t.freeEntry with
        | none => c.precise 0x04 0
        | some e => if c.f.level < 8 then c.splitAt taken (c.target off) a e else c.precise 0x04 0

/-- LOOP (R132, R133). DESIGN CHOICE (log 39). -/
def execLoop (c : BitVec 7) (off : BitVec 19) (s : State) : Host.Outcome State Fault Refusal :=
  s.issue (.loop c off) (.front 1) fun x =>
    if (sext off).toInt ≤ 0 then .next x.s x.t
    else if x.S c = 0 then x.go x.t (addr57 (x.target off + 4))
    else if 4 ≤ x.t.ctl.loop.length then x.precise 0x04 2
    else if x.t.split then x.precise 0x04 3
    else
      let e : LoopEntry := ⟨addr57 (x.pc + 4), x.target off, x.S c, x.t.linkDepth⟩
      let t := { x.t with ctl.loop := e :: x.t.ctl.loop }
      .done x.s (t.setFrag x.fi { x.f with pc := addr57 (x.pc + 4), replay := false }) [x.fi]

/-- A target that is not a multiple of 4 (R135). -/
def misTarget (a : DWord) : Bool := decide (a.toNat % 4 ≠ 0)

/-- Call through a register (R135): split state, then alignment, then the push. -/
def execCallr (a : BitVec 7) (s : State) : Host.Outcome State Fault Refusal :=
  s.issue (.callr a) (.front 1) fun c =>
    if c.t.split then c.splitTrap
    else if misTarget (c.S a) then c.precise 0x05 (addr57 (c.S a))
    else c.push (addr57 (c.pc + 4)) fun s t => .done s (t.setFrag c.fi { c.f with pc := addr57 (c.S a), replay := false }) [c.fi]

/-- Jump through a register (R135). -/
def execJmpr (a : BitVec 7) (s : State) : Host.Outcome State Fault Refusal :=
  s.issue (.jmpr a) (.front 1) fun c =>
    if misTarget (c.S a) then c.precise 0x05 (addr57 (c.S a)) else c.go c.t (c.S a)

/-- Return (R135). Below the region entry's link depth the kernel entry becomes the restart point (R44), and loop entries of
greater link depth go (R133). DESIGN CHOICE (log 72). -/
def execRet (s : State) : Host.Outcome State Fault Refusal :=
  s.issue .ret (.front 1) fun c =>
    if c.t.split then c.splitTrap
    else c.pop fun s t e =>
      if misTarget e then c.precise 0x05 (addr57 e)
      else
        let t := { t with rep.kentry := t.rep.kentry || decide (t.linkDepth < t.rep.snap.linkDepth) }
        .jump s (if t.tm then t else { t with ctl.loop := dropDeeper t.linkDepth t.ctl.loop }) c.t.linkDepth e

/-! The predicate stack (R35, R136). -/

/-- A predicate-stack entry with the bits of the fragment's lanes replaced. -/
def Team.setStack (t : Team) (f : Frag) (d : Nat) (x : LaneMask) : Team :=
  { t with ctl.pstk := t.ctl.pstk.set d ((t.ctl.pstk.get d &&& ~~~f.mask) ||| (x &&& f.mask)) }

def execPpush (a : BitVec 7) (s : State) : Host.Outcome State Fault Refusal :=
  s.issue (.ppush a) (.front 1) fun c =>
    if 16 ≤ c.f.depth then c.precise 0x02 0
    else
      let t := c.t.setStack c.f (c.f.depth + 1) (c.t.stackTop c.f &&& c.t.readP a.toNat)
      .next c.s (t.setFrag c.fi { c.f with depth := c.f.depth + 1 })

def execPinv (s : State) : Host.Outcome State Fault Refusal :=
  s.issue .pinv (.front 1) fun c =>
    if c.f.depth = 0 then c.precise 0x03 0
    else
      let parent := c.t.stackTop { c.f with depth := c.f.depth - 1 }
      .next c.s (c.t.setStack c.f c.f.depth (parent &&& ~~~(c.t.stackTop c.f)))

/-- A pop below the region entry's depth makes the kernel entry the restart point (R44, R136). -/
def execPpop (s : State) : Host.Outcome State Fault Refusal :=
  s.issue .ppop (.front 1) fun c =>
    if c.f.depth = 0 then c.precise 0x03 0
    else
      let t := { c.t with rep.kentry := c.t.rep.kentry || decide (c.f.depth - 1 < c.t.rep.snap.depth) }
      .next c.s (t.setFrag c.fi { c.f with depth := c.f.depth - 1 })

def execPstkGet (d : BitVec 7) (s : State) : Host.Outcome State Fault Refusal :=
  s.issue (.pstkGet d) (.front 1) fun c => c.setS d (BitVec.ofNat 64 c.f.depth)

/-! NOP, TRAP, BKPT, ERET, REGION, EXIT. -/

def execNop (s : State) : Host.Outcome State Fault Refusal :=
  s.issue .nop (.front 1) fun c => .next c.s c.t

/-- Trap 0x0E with TPC = PC + 4 (R137). DEDUCED (log 38). -/
def execTrap (d : BitVec 7) (s : State) : Host.Outcome State Fault Refusal :=
  s.issue (.trap d) (.front 1) fun c => .trapIssued c.s c.t 0x0E (zext d) (.precise (addr57 (c.pc + 4)))

/-- Breakpoint (R137). -/
def execBkpt (s : State) : Host.Outcome State Fault Refusal :=
  s.issue .bkpt (.front 1) fun c => .trapIssued c.s c.t 0x0D 0 (.precise c.pc)

/-- Return from a trap; no effect outside trap mode (R137, R264 to R266). DESIGN CHOICE (log 80). -/
def execEret (s : State) : Host.Outcome State Fault Refusal :=
  s.issue .eret (.front 1) fun c =>
    if c.t.tm then .done c.s (c.t.eret c.fi) (if c.t.sys.tcause.getLsbD 8 then [0] else [c.fi]) else .next c.s c.t

/-- REGION (R43, R141): in trap mode and in a split team it only closes the windows. -/
def execRegion (s : State) : Host.Outcome State Fault Refusal :=
  s.issue .region (.front 1) fun c =>
    let t := c.t.closeAll
    if t.tm || t.split then .next c.s t
    else
      let (t, pc) := t.advancePc 5 c.pc
      let t := t.setFrag c.fi { c.f with pc := addr57 pc, replay := false }
      .done c.s { t.openRegion c.f (addr57 pc) with iss.bypass := [] } [c.fi]

/-- EXIT ends the fragment (R141); with the last one the team has ended. -/
def execExit (s : State) : Host.Outcome State Fault Refusal :=
  s.issue .exit (.front 1) fun c =>
    let t := c.t.closeAll
    let f := c.f
    let t := t.setFrag c.fi freeFrag
    let t := (t.fuseAfterEnd f.path).alone
    .done c.s (if t.liveCount = 0 then { t with sched.life := .ended } else t) []

end Sys2Proof.Machine
end

