-- ==== Sys2Proof/Machine/ScalarMem.lean ====
section
/-! DEFINITION. Scalar loads, stores and atomics (R120 to R126). -/

namespace Sys2Proof.Machine

/-- The address of a scalar load or store (R121). -/
def Ctx.sAddr (c : Ctx) (a : BitVec 6) (imm : BitVec 7) (n : Nat) : Nat := (c.S a + sext imm * BitVec.ofNat 64 n).toNat

/-- What the accesses of a load leave: a window on what they write and wait for. -/
structure Filling where
  la    : BitVec 4
  /-- Where the bytes of an access go. -/
  dest  : Acc → LoadDest
  /-- The lanes that an access stands for. -/
  lanes : Acc → LaneMask
  /-- What the load writes besides. -/
  extra : List WinWrite
  /-- Where a log entry keeps the bytes of an access. -/
  at_   : Acc → Nat

/-- The window of a load (R50), with what its accesses have given; `entry` is its entry of the replay log. -/
def Team.fillWindow (t : Team) (k : Filling) (entry : Option Nat) (xs : List (Acc × Loaded)) : Team :=
  t.openWindow
    { opened := t.iss.issued, closeAt := t.iss.issued + 1 + k.la.toNat, rp := t.rp,
      writes := k.extra ++ xs.flatMap fun x => match x.2 with
        | .awaits _ _ _ => []
        | v => (k.dest x.1).put (v.bytes x.1.n),
      waits := xs.filterMap fun x => match x.2 with
        | .awaits r off known => some ⟨r, off, known, BitVec.ofNat 64 x.1.va, k.lanes x.1, k.dest x.1, entry.map fun e => (e, k.at_ x.1)⟩
        | _ => none }

/-- The requests that a load waits for, of its accesses inside or outside the scratch window. -/
def awaited (win : Bool) (xs : List (Acc × Loaded)) : List Nat :=
  ((xs.filter fun x => inWindow x.1.va == win).filterMap fun x => x.2.req?).eraseDups

/-- A load after its issue (R123, R184, R185): its missing lanes are noted, its counters rise, a strong one is logged with what it
has read, and its window opens. -/
def Ctx.loads (c : Ctx) (s : State) (k : Filling) (strong : Bool) (paths : List Nat) (data : List Byte) (xs : List (Acc × Loaded)) : Team :=
  let va := (xs.head?.map (·.1.va)).getD 0
  let t := ((s.resync c.t).noteMissing k.lanes xs).addFlights
    (paths.map fun p => loadFlight p strong va c.t.eng.next (awaited (p == 2) xs))
  let u := t.recordIf strong c.fi data
  u.fillWindow k (if u.rep.consumed = t.rep.consumed then none else some t.rep.consumed) xs

/-- The accesses of a load that its log entry answers. -/
def replayed (accs : List Acc) (at_ : Acc → Nat) (data : List Byte) : List (Acc × Loaded) :=
  accs.map fun a => (a, .data ((data.drop (at_ a)).take a.n))

/-- A scalar load (R121 to R123). -/
def Ctx.sLoad (c : Ctx) (d a : BitVec 6) (la : BitVec 4) (w : Strength) (n : Nat) (imm : BitVec 7) (signed : Bool) : Effect :=
  let va := c.sAddr a imm n
  let acc := c.sAcc va n
  let k : Filling := ⟨la, fun _ => .s d signed, fun _ => c.f.mask, [], fun _ => 0⟩
  if va % n ≠ 0 then c.precise 0x05 (addrInfo va)
  else c.effectIf w.isStrong (fun t e => .next c.s (t.fillWindow k none (replayed [acc] k.at_ e.data))) fun t =>
    c.afterStrong t w.isStrong <|
      let path := if inWindow va then 2 else 0
      if c.s.pathsFull t [path] then .stall c.s t .counterFull
      else (c.s.loadIssue t w.isStrong [acc]).run t fun s xs =>
        .next s (({ c with t := t } : Ctx).loads s k w.isStrong [path] (xs.flatMap fun x => x.2.bytes n) xs)

def execSLd (d a : BitVec 6) (la : BitVec 4) (w : Strength) (size : Size) (imm : BitVec 7) (s : State) :
    Host.Outcome State Fault Refusal :=
  s.issue (.sLd d a la w size imm) (.front 1) fun c => c.sLoad d a la w size.bytes imm true

def execSLdu (d a : BitVec 6) (la : BitVec 4) (w : Strength) (size : Size) (imm : BitVec 7) (s : State) :
    Host.Outcome State Fault Refusal :=
  s.issue (.sLdu d a la w size imm) (.front 1) fun c => c.sLoad d a la w size.bytes imm false

/-- S.ST (R121 to R123). -/
def execSSt (d a : BitVec 6) (w : Strength) (size : Size) (imm : BitVec 7) (s : State) : Host.Outcome State Fault Refusal :=
  s.issue (.sSt d a w size imm) (.front 1) fun c =>
    let n := size.bytes
    let va := c.sAddr a imm n
    if va % n ≠ 0 then c.precise 0x05 (addrInfo va)
    else c.effectIf w.isStrong (fun t _ => .next c.s t) fun t =>
      c.afterStrong t w.isStrong <|
        if c.s.pathsFull t [if inWindow va then 3 else 1] then .stall c.s t .counterFull
        else (c.s.store t w.isStrong 1 [(c.sAcc va n, toBytes n (c.S d).toNat)]).run t fun s x =>
          match x.2 with
          | some dead => remoteFault s x.1 dead
          | none => .next s (x.1.recordIf w.isStrong c.fi [])

/-- A scalar atomic with operand x, and y for a compare-and-swap (R125, R126). `write` tells whether S[D] takes the
old value. -/
def Ctx.sAtom (c : Ctx) (op : AtomOp) (o : Order) (a : BitVec 6) (x y : DWord) (write : Option (BitVec 7)) : Effect :=
  let va := (c.S a).toNat
  let put := fun (t : Team) (bs : List Byte) => match write with
    | some d => t.writeS d.toNat (zextBytes bs)
    | none => t
  if va % 8 ≠ 0 then c.precise 0x05 (addrInfo va)
  else c.effect (fun t e => .next c.s (put t e.data)) fun t =>
    c.afterStrong t true <| c.afterRelease t o.releases <|
      (c.s.atomic t (AtomOp.need op) (fun _ old => atomBytes op 8 x.toNat y.toNat old) (fun _ => .atomic op true x y) (op != .st)
        [c.sAcc va 8]).run t fun s r =>
        match r.2 with
        | some dead => remoteFault s (s.resync t) dead
        | none =>
          let bs := r.1.flatMap fun x => x.2.1.bytes 8
          let t := (put (s.resync t) bs).record c.fi (if op = .st then [] else bs)
          if o.acquires then .next (s.acquire t) t.acquired else .next s t

def execSAtomAdd (d : BitVec 7) (a : BitVec 6) (b : BitVec 7) (order : Order) (s : State) : Host.Outcome State Fault Refusal :=
  s.issue (.sAtomAdd d a b order) (.front 1) fun c => c.sAtom .add order a (c.S b) 0 (some d)
def execSAtomAnd (d : BitVec 7) (a : BitVec 6) (b : BitVec 7) (order : Order) (s : State) : Host.Outcome State Fault Refusal :=
  s.issue (.sAtomAnd d a b order) (.front 1) fun c => c.sAtom .and order a (c.S b) 0 (some d)
def execSAtomOr (d : BitVec 7) (a : BitVec 6) (b : BitVec 7) (order : Order) (s : State) : Host.Outcome State Fault Refusal :=
  s.issue (.sAtomOr d a b order) (.front 1) fun c => c.sAtom .or order a (c.S b) 0 (some d)
def execSAtomXor (d : BitVec 7) (a : BitVec 6) (b : BitVec 7) (order : Order) (s : State) : Host.Outcome State Fault Refusal :=
  s.issue (.sAtomXor d a b order) (.front 1) fun c => c.sAtom .xor order a (c.S b) 0 (some d)
def execSAtomMin (d : BitVec 7) (a : BitVec 6) (b : BitVec 7) (order : Order) (s : State) : Host.Outcome State Fault Refusal :=
  s.issue (.sAtomMin d a b order) (.front 1) fun c => c.sAtom .min order a (c.S b) 0 (some d)
def execSAtomMax (d : BitVec 7) (a : BitVec 6) (b : BitVec 7) (order : Order) (s : State) : Host.Outcome State Fault Refusal :=
  s.issue (.sAtomMax d a b order) (.front 1) fun c => c.sAtom .max order a (c.S b) 0 (some d)
def execSAtomMinu (d : BitVec 7) (a : BitVec 6) (b : BitVec 7) (order : Order) (s : State) : Host.Outcome State Fault Refusal :=
  s.issue (.sAtomMinu d a b order) (.front 1) fun c => c.sAtom .minu order a (c.S b) 0 (some d)
def execSAtomMaxu (d : BitVec 7) (a : BitVec 6) (b : BitVec 7) (order : Order) (s : State) : Host.Outcome State Fault Refusal :=
  s.issue (.sAtomMaxu d a b order) (.front 1) fun c => c.sAtom .maxu order a (c.S b) 0 (some d)
def execSAtomSwap (d : BitVec 7) (a : BitVec 6) (b : BitVec 7) (order : Order) (s : State) : Host.Outcome State Fault Refusal :=
  s.issue (.sAtomSwap d a b order) (.front 1) fun c => c.sAtom .swap order a (c.S b) 0 (some d)
/-- Compare-and-swap: S[D] is expected, S[D+1] new. -/
def execSAtomCas (d : BitVec 7) (a : BitVec 6) (order : Order) (s : State) : Host.Outcome State Fault Refusal :=
  s.issue (.sAtomCas d a order) (.front 1) fun c => c.sAtom .cas order a (c.S d) (c.t.readS (d.toNat + 1)) (some d)
def execSAtomLd (d : BitVec 7) (a : BitVec 6) (order : Order) (s : State) : Host.Outcome State Fault Refusal :=
  s.issue (.sAtomLd d a order) (.front 1) fun c => c.sAtom .ld order a 0 0 (some d)
def execSAtomSt (a : BitVec 6) (b : BitVec 7) (order : Order) (s : State) : Host.Outcome State Fault Refusal :=
  s.issue (.sAtomSt a b order) (.front 1) fun c => c.sAtom .st order a (c.S b) 0 none

end Sys2Proof.Machine
end

