-- ==== Sys2Proof/Machine/LaneMem.lean ====
section
/-! DEFINITION. Lane loads, stores and atomics (R183 to R191): one access per guarded lane. -/

namespace Sys2Proof.Machine

/-- The accesses of the guarded lanes (R188). -/
def Ctx.laneAccs (c : Ctx) (a : BitVec 6) (b : BitVec 7) (n : Nat) : List Acc :=
  c.lanes.map fun l => ⟨l, (c.S a + sext (c.t.readV b.toNat l)).toNat, n⟩

/-- The lowest lane whose address is not aligned (R183). -/
def misaligned (accs : List Acc) : Option Nat := (accs.find? fun a => decide (a.va % a.n ≠ 0)).map (·.va)

/-- The lane of an access. -/
def laneBit (a : Acc) : LaneMask := 1 <<< a.key

/-- Values of n bytes by lane, as a log entry keeps them: lane l at n · l. -/
def laneData (t : Team) (n : Nat) (xs : List (Nat × List Byte)) : List Byte :=
  (List.range t.nLanes).flatMap fun l => (lookupKey l xs).getD (zeroBytes n)

/-- The value of a lane in a log entry. -/
def laneOf (n l : Nat) (data : List Byte) : List Byte := (data.drop (n * l)).take n

/-- What a lane load fills (R183, R188): lane l of V[D], and of V[D+1] for 64 bits; a load of V127 makes its transient result
even where no lane is guarded. -/
def laneFill (la : BitVec 4) (d n : Nat) (signed : Bool) : Filling :=
  ⟨la, fun a => .v d a.key signed, laneBit, if d = 127 then [.v d 0 0 0] else [], fun a => n * a.key⟩

/-- The lane datapath is at work for one lane cycle per pass (R183). -/
def Ctx.passWork (c : Ctx) (s : State) : State := (s.useUnit c.t .lanes (passes c.t.const.h c.f.mask)).1

/-- A lane load (R183 to R188). -/
def Ctx.vLoad (c : Ctx) (d : BitVec 7) (a : BitVec 6) (b : BitVec 7) (la : BitVec 4) (n : Nat) (strong signed : Bool) : Effect :=
  let accs := c.laneAccs a b n
  let k := laneFill la d.toNat n signed
  match misaligned accs with
  | some va => c.precise 0x05 (addrInfo va)
  | none =>
    c.effectIf strong (fun t e => .next c.s (t.fillWindow k none (replayed accs k.at_ e.data))) fun t =>
      c.afterStrong t strong <|
        let paths := loadPaths (accs.map (·.va))
        if c.s.pathsFull t paths then .stall c.s t .counterFull
        else (c.s.loadIssue t strong accs).run t fun s xs =>
          .next (c.passWork s)
            (({ c with t := t } : Ctx).loads s k strong paths (laneData t n (xs.map fun x => (x.1.key, x.2.bytes n))) xs)

/-- After a store's dead lanes: the entry of the live ones is recorded, then the remote fault (R184). -/
def Ctx.afterStore (c : Ctx) (s : State) (t : Team) (logged anyLive : Bool) (dead : Option (DWord × Bool)) : Effect :=
  match dead with
  | some d => remoteFault s (t.recordIf (logged && anyLive) c.fi []) d
  | none => .next (c.passWork s) (t.recordIf logged c.fi [])

/-- Whether some access meets a live target. -/
def State.someLive (s : State) (t : Team) (n : Need) (accs : List Acc) : Bool :=
  (s.meetAll t n accs).any fun x => match x.2 with | .dead _ => false | _ => true

/-- The bytes that a lane store writes (R188). DEDUCED (log 34). -/
def Ctx.laneBytes (c : Ctx) (d : BitVec 7) (n l : Nat) : List Byte :=
  toBytes n ((c.t.readV d.toNat l).toNat + (if n = 8 then 2 ^ 32 * (c.t.readV (d.toNat + 1) l).toNat else 0))

/-- A lane store (R183 to R188). -/
def Ctx.vStore (c : Ctx) (d : BitVec 7) (a : BitVec 6) (b : BitVec 7) (n : Nat) (strong : Bool) : Effect :=
  let accs := c.laneAccs a b n
  match misaligned accs with
  | some va => c.precise 0x05 (addrInfo va)
  | none =>
    c.effectIf strong (fun t _ => .next c.s t) fun t =>
      c.afterStrong t strong <|
        if c.s.pathsFull t (storePaths (accs.map (·.va))) then .stall c.s t .counterFull
        else (c.s.store t strong 1 (accs.map fun x => (x, c.laneBytes d n x.key))).run t fun s x =>
          c.afterStore s x.1 strong (c.s.someLive t needW accs) x.2

def execVLd (d : BitVec 7) (a : BitVec 6) (b : BitVec 7) (la : BitVec 4) (size : Size) (s : State) : Host.Outcome State Fault Refusal :=
  s.issue (.vLd d a b la size) (.front 1) fun c => c.vLoad d a b la size.bytes false true
def execVLdu (d : BitVec 7) (a : BitVec 6) (b : BitVec 7) (la : BitVec 4) (size : Size) (s : State) : Host.Outcome State Fault Refusal :=
  s.issue (.vLdu d a b la size) (.front 1) fun c => c.vLoad d a b la size.bytes false false
def execVLdx (d : BitVec 7) (a : BitVec 6) (b : BitVec 7) (la : BitVec 4) (size : Size) (s : State) : Host.Outcome State Fault Refusal :=
  s.issue (.vLdx d a b la size) (.front 1) fun c => c.vLoad d a b la size.bytes true true
def execVSt (d : BitVec 7) (a : BitVec 6) (b : BitVec 7) (size : Size) (s : State) : Host.Outcome State Fault Refusal :=
  s.issue (.vSt d a b size) (.front 1) fun c => c.vStore d a b size.bytes false
def execVStx (d : BitVec 7) (a : BitVec 6) (b : BitVec 7) (size : Size) (s : State) : Host.Outcome State Fault Refusal :=
  s.issue (.vStx d a b size) (.front 1) fun c => c.vStore d a b size.bytes true

/-! V.ATOM (R189 to R191). -/

/-- The operand of a lane: V[D], and the new value of a compare-and-swap. -/
def Ctx.atomX (c : Ctx) (d : BitVec 7) (l : Nat) : Nat := (c.t.readV d.toNat l).toNat
def Ctx.atomY (c : Ctx) (op : AtomOp) (d : BitVec 7) (l : Nat) : Nat :=
  if op = .cas then (c.t.readV (d.toNat + 1) l).toNat else 0

/-- Old values written to V[D]. -/
def putOld (t : Team) (d : BitVec 7) (vals : List (Nat × List Byte)) : Team :=
  t.writeV d.toNat (vals.map fun x => (x.1, BitVec.ofNat 32 (ofBytes x.2)))

/-- A lane atomic but V.ATOM.ST (R189 to R191): the lane operand of a load is zero. -/
def Ctx.vAtom (c : Ctx) (op : AtomOp) (d : BitVec 7) (a : BitVec 6) (b : BitVec 7) (o : Order) : Effect :=
  let accs := c.laneAccs a b 4
  let x := fun l => if op = .ld then 0 else c.atomX d l
  match misaligned accs with
  | some va => c.precise 0x05 (addrInfo va)
  | none =>
    c.effect (fun t e => .next c.s (putOld t d (c.lanes.map fun l => (l, laneOf 4 l e.data)))) fun t =>
      c.afterStrong t true <| c.afterRelease t o.releases <|
        (c.s.atomic t (AtomOp.need op) (fun y old => atomBytes op 4 (x y.key) (c.atomY op d y.key) old)
          (fun y => .atomic op false (BitVec.ofNat 64 (x y.key)) (BitVec.ofNat 64 (c.atomY op d y.key))) true accs).run t fun s r =>
          let vals := r.1.map fun y => (y.1.key, y.2.1.bytes 4)
          let live := r.1.filter fun y => match y.2.1 with | .dead _ => false | _ => true
          let flags := live.foldl (fun acc y => acc ||| atomFlags op (ofBytes (y.2.1.bytes 4)) (x y.1.key)) 0
          let t := (s.resync t).setFlags flags
          match r.2 with
          | some dead => remoteFault s (t.recordIf (!live.isEmpty) c.fi (laneData t 4 vals)) dead
          | none =>
            let t := (putOld t d vals).record c.fi (laneData t 4 vals)
            let s := c.passWork s
            if o.acquires then .next (s.acquire t) t.acquired else .next s t

/-- The paths that the lanes of a V.ATOM.ST use: 1 or 3 for local ones, 7 for remote ones (R185). -/
def atomPaths (xs : List (Acc × Meet)) : List Nat :=
  let some_ := fun (p : Acc → Meet → Bool) => xs.any fun x => p x.1 x.2
  let away := fun (m : Meet) => match m with | .ok (.remote _ _) | .dead _ => true | _ => false
  (if some_ fun a m => !inWindow a.va && !away m then [1] else []) ++ (if some_ fun a _ => inWindow a.va then [3] else []) ++
    (if some_ fun _ m => away m then [7] else [])

/-- V.ATOM.ST: a strong store that does not stall the team; it needs the permissions of an atomic. -/
def Ctx.vAtomStore (c : Ctx) (d : BitVec 7) (a : BitVec 6) (b : BitVec 7) (o : Order) : Effect :=
  let accs := c.laneAccs a b 4
  match misaligned accs with
  | some va => c.precise 0x05 (addrInfo va)
  | none =>
    c.effect (fun t _ => .next c.s t) fun t =>
      c.afterStrong t true <| c.afterRelease t o.releases <|
        if c.s.pathsFull t (atomPaths (c.s.meetAll t needRW accs)) then .stall c.s t .counterFull
        else match firstMeeting (· == .noPerm) (c.s.meetAll t needRW accs) with
        | some va => .trap c.s t 0x07 (addrInfo va) .region
        | none =>
          (c.s.store t true 7 (accs.map fun x => (x, c.laneBytes d 4 x.key))).run t fun s x =>
            c.afterStore s x.1 true (c.s.someLive t needW accs) x.2

def execVAtomAdd (d : BitVec 7) (a : BitVec 6) (b : BitVec 7) (order : Order) (s : State) : Host.Outcome State Fault Refusal :=
  s.issue (.vAtomAdd d a b order) (.front 1) fun c => c.vAtom .add d a b order
def execVAtomAnd (d : BitVec 7) (a : BitVec 6) (b : BitVec 7) (order : Order) (s : State) : Host.Outcome State Fault Refusal :=
  s.issue (.vAtomAnd d a b order) (.front 1) fun c => c.vAtom .and d a b order
def execVAtomOr (d : BitVec 7) (a : BitVec 6) (b : BitVec 7) (order : Order) (s : State) : Host.Outcome State Fault Refusal :=
  s.issue (.vAtomOr d a b order) (.front 1) fun c => c.vAtom .or d a b order
def execVAtomXor (d : BitVec 7) (a : BitVec 6) (b : BitVec 7) (order : Order) (s : State) : Host.Outcome State Fault Refusal :=
  s.issue (.vAtomXor d a b order) (.front 1) fun c => c.vAtom .xor d a b order
def execVAtomMin (d : BitVec 7) (a : BitVec 6) (b : BitVec 7) (order : Order) (s : State) : Host.Outcome State Fault Refusal :=
  s.issue (.vAtomMin d a b order) (.front 1) fun c => c.vAtom .min d a b order
def execVAtomMax (d : BitVec 7) (a : BitVec 6) (b : BitVec 7) (order : Order) (s : State) : Host.Outcome State Fault Refusal :=
  s.issue (.vAtomMax d a b order) (.front 1) fun c => c.vAtom .max d a b order
def execVAtomMinu (d : BitVec 7) (a : BitVec 6) (b : BitVec 7) (order : Order) (s : State) : Host.Outcome State Fault Refusal :=
  s.issue (.vAtomMinu d a b order) (.front 1) fun c => c.vAtom .minu d a b order
def execVAtomMaxu (d : BitVec 7) (a : BitVec 6) (b : BitVec 7) (order : Order) (s : State) : Host.Outcome State Fault Refusal :=
  s.issue (.vAtomMaxu d a b order) (.front 1) fun c => c.vAtom .maxu d a b order
def execVAtomSwap (d : BitVec 7) (a : BitVec 6) (b : BitVec 7) (order : Order) (s : State) : Host.Outcome State Fault Refusal :=
  s.issue (.vAtomSwap d a b order) (.front 1) fun c => c.vAtom .swap d a b order
def execVAtomCas (d : BitVec 7) (a : BitVec 6) (b : BitVec 7) (order : Order) (s : State) : Host.Outcome State Fault Refusal :=
  s.issue (.vAtomCas d a b order) (.front 1) fun c => c.vAtom .cas d a b order
def execVAtomAddf (d : BitVec 7) (a : BitVec 6) (b : BitVec 7) (order : Order) (s : State) : Host.Outcome State Fault Refusal :=
  s.issue (.vAtomAddf d a b order) (.front 1) fun c => c.vAtom .addf d a b order
def execVAtomAddbf (d : BitVec 7) (a : BitVec 6) (b : BitVec 7) (order : Order) (s : State) : Host.Outcome State Fault Refusal :=
  s.issue (.vAtomAddbf d a b order) (.front 1) fun c => c.vAtom .addbf d a b order
def execVAtomLd (d : BitVec 7) (a : BitVec 6) (b : BitVec 7) (order : Order) (s : State) : Host.Outcome State Fault Refusal :=
  s.issue (.vAtomLd d a b order) (.front 1) fun c => c.vAtom .ld d a b order
def execVAtomSt (d : BitVec 7) (a : BitVec 6) (b : BitVec 7) (order : Order) (s : State) : Host.Outcome State Fault Refusal :=
  s.issue (.vAtomSt d a b order) (.front 1) fun c => c.vAtomStore d a b order

end Sys2Proof.Machine
end

