-- ==== Sys2Proof/Machine/System.lean ====
section
/-! DEFINITION. System registers and the other functions of major 0x00 (R39 to R41, R137 to R143). -/

namespace Sys2Proof.Machine

/-! System registers (R39, R40). -/

/-- The team number within its grid (R40). -/
def TeamConst.number (c : TeamConst) : Nat := ((c.z * c.ey + c.y) * c.ex + c.x) * c.nrole + c.role

/-- What SYSR reads from register n; none for 32 to 127 (R39). -/
def State.sysreg (s : State) (t : Team) (n : Nat) : Option DWord :=
  let k := t.const
  match n with
  | 0 => some t.sys.tvec
  | 1 => some t.sys.tcause
  | 2 => some t.sys.tpc
  | 3 => some t.sys.tinfo
  | 4 => some t.sys.tflags
  | 5 => some t.sys.regpc
  | 6 => some t.sys.lsp
  | 7 => some (zext k.asid)
  | 8 => some (BitVec.ofNat 64 (k.serial.toNat * 2 ^ 32 + k.number % 2 ^ 32))
  | 9 => some (BitVec.ofNat 64 (k.z * 2 ^ 32 + k.y * 2 ^ 16 + k.x))
  | 10 => some (BitVec.ofNat 64 (k.n * 2 ^ 12 + k.h * 16 + (k.nrole - 1) * 4 + k.role))
  | 11 => some (BitVec.ofNat 64 (k.ez * 2 ^ 32 + k.ey * 2 ^ 16 + k.ex))
  | 12 => some k.argp
  | 13 => some (BitVec.ofNat 64 (s.clock t false))
  | 14 => some t.sys.seed
  | 15 => some (BitVec.ofNat 64 (t.sched.pclass * 16 + t.sched.prio))
  | 16 => some (BitVec.ofNat 64 (t.sched.slot * 2 ^ 16 + t.sched.cluster * 2 ^ 8 + t.sched.core))
  | 17 => some 0x00020103
  | _ => if n < 32 then some (t.sys.gp.get n) else none

/-- What SYSW leaves; none for a read-only register and for 32 to 127. Reserved and read-only bits are kept out
(R39, R40); a write to SEED reseeds every lane (R41). -/
def Team.writeSys (t : Team) (n : Nat) (x : DWord) : Option Team :=
  let bits := fun (lo hi : Nat) => x &&& (BitVec.ofNat 64 (2 ^ (hi + 1) - 2 ^ lo))
  match n with
  | 0 => some { t with sys.tvec := bits 6 56 }
  | 1 => some { t with sys.tcause := bits 0 8 ||| (t.sys.tcause &&& 512) }
  | 2 => some { t with sys.tpc := bits 2 56 }
  | 3 => some { t with sys.tinfo := x }
  | 4 => some { t with sys.tflags := bits 0 7 }
  | 6 => some { t with sys.lsp := bits 3 56 }
  | 14 => some { t with sys.seed := x, regs.srSeed := x.setWidth 32, regs.sr := [] }
  | _ => if 18 ≤ n ∧ n < 32 then some { t with sys.gp := t.sys.gp.set n x } else none

def execSysr (d b : BitVec 7) (s : State) : Host.Outcome State Fault Refusal :=
  s.issue (.sysr d b) (.front 2) fun c =>
    match c.s.sysreg c.t b.toNat with
    | some x => c.setS d x
    | none => .reservedUse

def execSysw (a b : BitVec 7) (s : State) : Host.Outcome State Fault Refusal :=
  s.issue (.sysw a b) (.front 1) fun c =>
    match c.t.writeSys b.toNat (c.S a) with
    | some t => .next c.s t
    | none => .reservedUse

/-- MODE.SET: the bits under the mask; a reserved value is a reserved use; every window closes first (R52, R139). -/
def execModeSet (a b : BitVec 7) (s : State) : Host.Outcome State Fault Refusal :=
  s.issue (.modeSet a b) (.front 1) fun c =>
    let t := c.t.closeAll
    let m : Word := (t.readS b.toNat).setWidth 32
    let new := (t.mode &&& ~~~m) ||| ((t.readS a.toNat).setWidth 32 &&& m)
    if modeLegal new then .next c.s { t with regs.mode := new } else .reservedUse

def execModeGet (d : BitVec 7) (s : State) : Host.Outcome State Fault Refusal :=
  s.issue (.modeGet d) (.front 1) fun c => c.setS d (zext c.t.mode)

def execVers (d : BitVec 7) (s : State) : Host.Outcome State Fault Refusal :=
  s.issue (.vers d) (.front 1) fun c => c.setS d 0x0103

/-- Lane cycles of the team's cluster since it left reset (R140). -/
def execCycles (d : BitVec 7) (s : State) : Host.Outcome State Fault Refusal :=
  s.issue (.cycles d) (.front 2) fun c => c.setS d (BitVec.ofNat 64 (c.s.clock c.t true))

/-- YIELD: the team is withheld from its issue on (R137). -/
def execYield (s : State) : Host.Outcome State Fault Refusal :=
  s.issue .yield (.front 1) fun c =>
    .next c.s { c.t with iss.withheld := some (c.fi, .yield (c.s.clock c.t false)) }

/-- PERF: the team's performance request (R142). -/
def execPerf (a : BitVec 7) (s : State) : Host.Outcome State Fault Refusal :=
  s.issue (.perf a) (.front 1) fun c =>
    .next c.s { c.t with sched.level := (c.S a).extractLsb' 0 2 }

/-- ICINV waits for the team's stores, then the team is held until every cache has acknowledged (R143).
DEDUCED (log 22). -/
def execIcinv (a b : BitVec 7) (s : State) : Host.Outcome State Fault Refusal :=
  s.issue (.icinv a b) (.front 1) fun c =>
    if c.t.storesDone then .hold c.s c.t (.icinv (c.S a) (c.S b)) else .stall c.s c.t .release

/-- Whether the 128-byte line of an address overlaps a range of n bytes from a, cut at 2^57 (R143). -/
def lineIn (a n va : Nat) : Bool :=
  let e := min (a + n) (2 ^ 57)
  decide (0 < n) && decide (a < va / 128 * 128 + 128) && decide (va / 128 * 128 < e)

end Sys2Proof.Machine
end

