-- ==== Sys2Proof/Machine/Pages.lean ====
section
/-! DEFINITION. The page-request service (R343), PGREQ (R144), and the queue control blocks with LAUNCH (R308 to R311,
R145). -/

namespace Sys2Proof.Machine

/-- A device agent's write at its home; a record for an unpopulated range is dropped (R309). -/
def State.deviceWrite (s : State) (pa : Nat) (bs : List Byte) : State :=
  if (List.range bs.length).all fun i => populated (pa + i) then
    s.register none false ((List.range bs.length).zip bs |>.map fun (i, b) => (pa + i, b))
  else s

/-- A strong 8-byte write of a device agent. -/
def State.device8 (s : State) (pa : Nat) (x : DWord) : State := s.deviceWrite pa (toBytes 8 x.toNat)

def State.setVi (s : State) (v : Nat) (i : VirtIf) : State := { s with vis := setAt s.vis v i }

/-- An MSI-X signal of a function, by its vector (R373): function 0 is the PF, v + 1 the virtual function of interface v. -/
def State.signal (s : State) (function vector : Nat) : State := { s with boot.msix := s.boot.msix ++ [(function, vector)] }

/-! The page-request ring (R343). -/

/-- What the walk for a page request finds. -/
inductive PageFound where
  | resident | refused | waiting
  deriving DecidableEq, Repr

/-- The walk of a page request: the rights that the access needs, any for PGREQ. -/
def State.walkPage (s : State) (asid : BitVec 12) (va : Nat) (n : Need) : PageFound :=
  match s.walk asid va (s.pickNow 0 asid va) with
  | none => .refused
  | some l => if !n.ok l.r l.w l.x || !(l.r || l.w || l.x) then .refused else if l.res then .resident else .waiting

/-- Sending the requests of an interface that have no record yet, while the ring has room. DEDUCED (log 29). -/
def State.sendPage (s : State) (r : PageReq) : State × PageReq :=
  match s.vis[r.vi]? with
  | none => (s, r)
  | some i =>
    if r.sent || decide (2 ^ i.prqlogn ≤ (i.prqwr - i.prqrd).toNat) then (s, r)
    else
      let rec_ := layBytes 32 [(0, toBytes 8 (65536 * r.page)), (8, toBytes 2 r.asid.toNat),
        (10, [if r.kind then 1 else 0]), (12, toBytes 4 i.seq.toNat)]
      let s := s.deviceWrite (i.prqbase + 32 * (i.prqwr.toNat % 2 ^ i.prqlogn)) rec_
      ((s.setVi r.vi { i with prqwr := i.prqwr + 1, seq := i.seq + 1 }).signal (r.vi + 1) 1, { r with seq := i.seq, sent := true })

def State.sendPages (s : State) : List PageReq → State × List PageReq
  | [] => (s, [])
  | r :: rs =>
    let (s, r) := s.sendPage r
    let (s, rs) := s.sendPages rs
    (s, r :: rs)

def State.flushPages (s : State) : State :=
  let (s, rs) := s.sendPages s.prq
  { s with prq := rs }

/-- Asking for the page of an address: one record per ASID and granule. `kind` tells an engine or a copy. -/
def State.askPage (s : State) (vi : Nat) (asid : BitVec 12) (va : Nat) (kind : Bool) : State :=
  if s.prq.any fun r => r.asid == asid && r.page == va / 65536 then s
  else ({ s with prq := s.prq ++ [(⟨vi, asid, va / 65536, 0, kind, false⟩ : PageReq)] } : State).flushPages

def needNone : Need := ⟨false, false, false⟩

/-- PGREQ on an address: whether the request is over at once. DEDUCED (log 23). -/
def State.pgreq (s : State) (t : Team) (va : Nat) : State × Bool :=
  if inWindow va then (s, true)
  else match s.walkPage t.const.asid va needNone with
    | .waiting => (s.askPage t.const.vi t.const.asid va false, false)
    | _ => (s, true)

def execPgreq (a : BitVec 7) (s : State) : Host.Outcome State Fault Refusal :=
  s.issue (.pgreq a) (.front 1) fun c =>
    let va := (c.S a).toNat % 2 ^ 57
    c.effect (fun t _ => .next c.s t) fun t =>
      if t.counterFull [6] then .stall c.s t .counterFull
      else
        let (s, ended) := c.s.pgreq t va
        let f : Flight := ⟨6, .page (BitVec.ofNat 64 va), false, false, [], [], ended, BitVec.ofNat 64 va, 0, none⟩
        .next s (((s.resync t).addFlights [f]).settleFlights.record c.fi [])

/-! Queue control blocks (R308). -/

/-- The address of queue q's block. DEDUCED (log 57). -/
def State.qcb (s : State) (q : Nat) : Nat := s.boot.qcbbase + 256 * q

/-- The configuration of a queue: enable, interface, class, priority, ring sizes (R308). -/
structure QueueCfg where
  en     : Bool
  vi     : Nat
  pclass : Nat
  prio   : Nat
  slogn  : Nat
  logn   : Nat
  deriving DecidableEq, Repr

def queueCfg (x : DWord) : QueueCfg :=
  ⟨x.getLsbD 31, field x 24 6, field x 20 2, field x 16 3, field x 8 5, field x 0 5⟩

/-- CFG as the scheduler last read it (R322), or as the block holds it. -/
def State.cfgNow (s : State) (q : Nat) : QueueCfg := queueCfg (s.home8 (s.qcb q + 8))
def State.cfgRead (s : State) (q : Nat) : QueueCfg :=
  match lookupKey q s.sched.cfg with
  | some x => queueCfg x
  | none => s.cfgNow q

def State.qring (s : State) (q : Nat) : Nat := (s.home8 (s.qcb q)).toNat
def State.qrd (s : State) (q : Nat) : DWord := s.home8 (s.qcb q + 24)
def State.qclaim (s : State) (q : Nat) : DWord := s.home8 (s.qcb q + 128)
def State.qwr (s : State) (q : Nat) : DWord := s.home8 (s.qcb q + 136)

/-- The slot of a record index. -/
def State.qslot (s : State) (q : Nat) (i : DWord) : Nat := s.qring q + 256 * (i.toNat % 2 ^ (s.cfgNow q).logn)

/-- Whether a range of device PAs is populated: its ends are, and it takes in no hole of the map (R309, R323). -/
def rangePopulated (pa n : Nat) : Bool :=
  let last := pa + n - 1
  populated pa && populated last &&
    (if inVault pa then inVault last && decide ((pa - Config.vaultBase) / Config.vaultSpan = (last - Config.vaultBase) / Config.vaultSpan)
     else if inHost pa then inHost last else decide (last < Config.hbmEnd))

/-- Whether the ring of a queue is populated (R309). -/
def State.ringPopulated (s : State) (q : Nat) : Bool := rangePopulated (s.qring q) (256 * 2 ^ (s.cfgNow q).logn)

/-- Whether a queue is full: CLAIM − RD = 2^LOGN. -/
def State.ringFull (s : State) (q : Nat) : Bool := decide (2 ^ (s.cfgNow q).logn ≤ (s.qclaim q - s.qrd q).toNat)

/-- Claiming a slot of a ring that has room, and writing the record into it (R310). -/
def State.claimSlot (s : State) (q : Nat) (r : List Byte) : State :=
  (s.device8 (s.qcb q + 128) (s.qclaim q + 1)).deviceWrite (s.qslot q (s.qclaim q)) r

/-- Publishing the record of index i, once every record before it is (R310). -/
def State.publish (s : State) (q : Nat) (i : DWord) : State := s.device8 (s.qcb q + 136) (i + 1)

/-- LAUNCH after its claim: it stalls until the records before its own are published, then advances the write index. -/
def Ctx.publishWhenDue (c : Ctx) (s : State) (t : Team) (q : Nat) (i : DWord) : Effect :=
  if s.qwr q = i then .next (s.publish q i) ({ t with iss.claim := none }.record c.fi []) else .stall s t .ringFull

/-- What LAUNCH does with the two lines of the record it has read: the first that is not there faults (R145). -/
def Ctx.launchWith (c : Ctx) (s : State) (t : Team) (q : Nat) (xs : List (Acc × Loaded)) : Effect :=
  match xs.find? fun x => match x.2 with | .data _ => false | _ => true with
  | some (a, .dead _) => remoteFault s t (addrInfo a.va, false)
  | some (a, _) => .trap s t 0x06 (addrInfo a.va) .region
  | none =>
    c.afterRelease t true <|
      if s.ringFull q then .stall s t .ringFull
      else
        let i := s.qclaim q
        let s := s.claimSlot q (xs.flatMap fun x => x.2.bytes 128)
        c.publishWhenDue s { s.resync t with iss.claim := some (c.fi, q, i) } q i

/-- LAUNCH (R145). DEDUCED (log 31). -/
def execLaunch (a b : BitVec 7) (s : State) : Host.Outcome State Fault Refusal :=
  s.issue (.launch a b) (.front 1) fun c =>
    let va := (c.S a).toNat
    let q := field (c.S b) 0 10
    if va % 256 ≠ 0 then c.precise 0x05 (addrInfo va)
    else c.effect (fun t _ => .next c.s t) fun t =>
      match t.iss.claim with
      | some (_, q, i) => c.publishWhenDue c.s t q i
      | none =>
      if (c.s.cfgNow q).vi ≠ t.const.vi ∨ !c.s.ringPopulated q then .trap c.s t 0x07 (addrInfo va) .region
      else (c.s.load t false [c.sAcc va 128, c.sAcc (va + 128) 128]).run t fun s xs => c.launchWith s (s.resync t) q xs

end Sys2Proof.Machine
end

