-- ==== Sys2Proof/Machine/Barrier.lean ====
section
/-! DEFINITION. Barrier objects (R198 to R202): their 16 bytes, and what each operation does to them. -/

namespace Sys2Proof.Machine

/-! The fields (R198). -/

def barExp (b : List Byte) : Nat := leField b 0 2
def barArr (b : List Byte) : Nat := leField b 2 2
def barPhase (b : List Byte) : Bool := decide (leField b 4 1 % 2 = 1)
def barPend (b : List Byte) : Nat := leField b 8 4 % 2 ^ 28
def barCredit (b : List Byte) : Nat := leField b 12 4 % 2 ^ 28

/-- A 4-byte field with its low 28 bits replaced. -/
def setLow28 (b : List Byte) (off x : Nat) : List Byte := setLe b off 4 (leField b off 4 / 2 ^ 28 * 2 ^ 28 + x)
def barSetPend (b : List Byte) (x : Nat) : List Byte := setLow28 b 8 x
def barSetCredit (b : List Byte) (x : Nat) : List Byte := setLow28 b 12 x
def barSetArr (b : List Byte) (x : Nat) : List Byte := setLe b 2 2 x
def barFlip (b : List Byte) : List Byte := setLe b 4 1 (leField b 4 1 ^^^ 1)

/-- The completion check (R199). -/
def barCheck (b : List Byte) : List Byte :=
  if barArr b = barExp b ∧ barPend b = 0 then barFlip (barSetArr b 0) else b

/-- What an operation makes of the object, or the detail of its overflow trap (R200, R202). -/
def barApply (op : BarOp) (b : List Byte) : Except (BitVec 2) (List Byte) :=
  match op with
  | .init n => if n = 0 ∨ 65535 < n.toNat then .error 1 else .ok (toBytes 2 n.toNat ++ zeroBytes 14)
  | .arrive => if barArr b = barExp b then .error 2 else .ok (barCheck (barSetArr b (barArr b + 1)))
  | .expect n =>
    let e := n.toNat
    if 2 ^ 28 ≤ e then .error 0
    else if e ≤ barCredit b then .ok (barCheck (barSetCredit b (barCredit b - e)))
    else if 2 ^ 28 ≤ barPend b + (e - barCredit b) then .error 0
    else .ok (barCheck (barSetCredit (barSetPend b (barPend b + (e - barCredit b))) 0))
  | .read => .ok b
  | .credit w =>
    if w ≤ barPend b then .ok (barCheck (barSetPend b (barPend b - w)))
    else .ok (barCheck (barSetPend (barSetCredit b (min (barCredit b + (w - barPend b)) (2 ^ 28 - 1))) 0))

/-- The bytes that an operation writes, none where it writes nothing. -/
def barWrite (op : BarOp) (b : List Byte) : Option (List Byte) :=
  match op with
  | .read => none
  | _ => match barApply op b with | .ok x => some x | .error _ => none

/-- The request that performs a barrier operation at a remote object: BAR.WAIT's look is a read of 16 bytes (R348, R349). -/
def BarOp.request : BarOp → RemoteKind
  | .read => .read 16
  | op => .barrier op

/-- What a barrier operation at its home comes to: the object before it, its overflow, or a dead target. -/
inductive BarDone where
  | ok (old : List Byte)
  | overflow (d : BitVec 2)
  | dead (x : DWord × Bool)

/-- A barrier operation of a team (R199): a strong, indivisible access of 16 bytes. -/
def Ctx.barAt (c : Ctx) (t : Team) (va : Nat) (op : BarOp) (k : State → Team → BarDone → Effect) : Effect :=
  let reads := match op with | .init _ => false | _ => true
  (c.s.atomic t needRW (fun _ old => barWrite op old) (fun _ => BarOp.request op) reads [c.sAcc va 16]).run t fun s r =>
    let t := s.resync t
    match r.2 with
    | some d => k s t (.dead d)
    | none =>
      match r.1 with
      | (_, _, some (.overflow d)) :: _ => k s t (.overflow d)
      | (_, x, ans) :: _ =>
        let old := x.bytes 16
        match ans, barApply op old with
        | none, .error d => k s t (.overflow d)
        | _, _ => k s t (.ok old)
      | [] => k s t (.ok [])

/-- An operation that logs what `data` says of the old object (R201). -/
def Ctx.barOp (c : Ctx) (a : BitVec 7) (op : BarOp) (rel : Bool) (done : Team → List Byte → Team) (data : List Byte → List Byte)
    (after : Team → Team := id) : Effect :=
  let va := (c.S a).toNat
  if va % 16 ≠ 0 then c.precise 0x05 (addrInfo va)
  else c.effect (fun t e => .next c.s (done t e.data)) fun t =>
    c.afterStrong t true <| c.afterRelease t rel <| c.barAt t va op fun s t r =>
      match r with
      | .ok old => .next s (after ((done t (data old)).record c.fi (data old)))
      | .overflow d => .trap s t 0x10 (zext d) (.precise c.pc)
      | .dead d => remoteFault s t d

def execBarInit (a b : BitVec 7) (s : State) : Host.Outcome State Fault Refusal :=
  s.issue (.barInit a b) (.front 1) fun c => c.barOp a (.init (c.S b)) false (fun t _ => t) (fun _ => [])

/-- BAR.ARRIVE: a release; S[D] takes the phase before the arrival's completion check. A team of a shed power class
is withheld after it (R365). -/
def execBarArrive (d a : BitVec 7) (s : State) : Host.Outcome State Fault Refusal :=
  s.issue (.barArrive d a) (.front 1) fun c =>
    c.barOp a .arrive true (fun t x => t.writeS d.toNat (zextBytes x)) (fun old => [if barPhase old then 1 else 0])
      fun t => if t.sched.shedPark then { t with iss.withheld := some (c.fi, .shed) } else t

def execBarExpect (a b : BitVec 7) (s : State) : Host.Outcome State Fault Refusal :=
  s.issue (.barExpect a b) (.front 1) fun c => c.barOp a (.expect (c.S b)) false (fun t _ => t) (fun _ => [])

/-- BAR.WAIT (R200, R201; R365 for a shed power class): complete at once as an acquire, or withheld until the phase turns. -/
def execBarWait (a b : BitVec 7) (s : State) : Host.Outcome State Fault Refusal :=
  s.issue (.barWait a b) (.front 1) fun c =>
    let va := (c.S a).toNat
    let parity := (c.S b).getLsbD 0
    if va % 16 ≠ 0 then c.precise 0x05 (addrInfo va)
    else if c.t.sched.shedPark then .hold c.s c.t .shed
    else c.effect (fun t _ => .next (c.s.acquire t) t.acquired) fun t =>
      c.afterStrong t true <| c.barAt t va .read fun s t r =>
        match r with
        | .ok old =>
          if barPhase old != parity then .next (s.acquire t) (t.acquired.record c.fi [])
          else .hold s t (.barWait (BitVec.ofNat 64 va) parity)
        | .overflow d => .trap s t 0x10 (zext d) (.precise c.pc)
        | .dead d => remoteFault s t (d.1, false)

end Sys2Proof.Machine
end

