-- ==== Sys2Proof/Machine/Sync.lean ====
section
/-! DEFINITION. Fences, WAIT, QFENCE, WALKSYNC and mapped-scratch write-back (R193 to R197, R203, R204). -/

namespace Sys2Proof.Machine

/-- Whether every earlier load and atomic of the team has returned its value (R195). -/
def Team.loadsDone (t : Team) : Bool := t.iss.flights.all fun f => match f.kind with | .load => f.done | _ => true

def execFenceRel (s : State) : Host.Outcome State Fault Refusal :=
  s.issue .fenceRel (.front 1) fun c => c.afterRelease c.t true (.next c.s c.t)

def execFenceAcq (s : State) : Host.Outcome State Fault Refusal :=
  s.issue .fenceAcq (.front 1) fun c =>
    if c.t.loadsDone then .next (c.s.acquire c.t) c.t.acquired else .hold c.s c.t (.fenceAcq false)

/-- FENCE: the windows close, then a release, then an acquire. -/
def execFence (s : State) : Host.Outcome State Fault Refusal :=
  s.issue .fence (.front 1) fun c =>
    let t := c.t.closeAll
    c.afterRelease t true <|
      if t.loadsDone then .next (c.s.acquire t) t.acquired else .hold c.s t (.fenceAcq true)

/-- WAIT (R196): complete when the counter is at or below S[A], as an acquire. -/
def execWait (path : BitVec 3) (a : BitVec 7) (s : State) : Host.Outcome State Fault Refusal :=
  s.issue (.wait path a) (.front 1) fun c =>
    if c.t.counter path.toNat ≤ (c.S a).toNat then .next (c.s.acquire c.t) c.t.acquired
    else .hold c.s c.t (.wait path.toNat (c.S a))

/-- Marks of QFENCE that still order something. -/
def Team.liveFences (t : Team) : List (BitVec 7 × Nat) :=
  t.eng.qfences.filter fun (m, n) => !(List.range 7).all fun q => !m.getLsbD q || (t.queued q).all fun x => decide (n ≤ x)

/-- QFENCE (R197): a mark between the operations issued before it and those issued after. -/
def execQfence (a : BitVec 7) (s : State) : Host.Outcome State Fault Refusal :=
  s.issue (.qfence a) (.front 1) fun c =>
    .next c.s { c.t with eng.qfences := c.t.liveFences ++ [((c.S a).extractLsb' 0 7, c.t.eng.next)] }

/-- WALKSYNC (R203): complete once stores have registered and no walker keeps a copy. -/
def execWalksync (s : State) : Host.Outcome State Fault Refusal :=
  s.issue .walksync (.front 1) fun c =>
    if c.t.storesDone && c.s.ms.walk.isEmpty then .next c.s c.t else .hold c.s c.t .walksync

/-! SC.WB and SC.DROP (R204). -/

/-- What a scratch range names: nothing, the first byte outside every region, a sibling that has not started, or a
sibling's region with the offsets of the words. -/
inductive ScratchRange where
  | none
  | outside (va : Nat)
  | unstarted
  | words (u : Team) (offs : List Nat)

def State.scratchRange (s : State) (t : Team) (va len : Nat) : ScratchRange :=
  if len = 0 then .none
  else if !inWindow va then .outside va
  else
    let o := va % 2 ^ 48
    let k := o / 0x1000000
    let off := o % 0x1000000
    if t.const.nrole ≤ k ∨ t.const.scr ≤ off then .outside va
    else if t.const.scr < off + len then .outside (va - off + t.const.scr)
    else match s.sibling t ((t.const.role + k) % t.const.nrole) with
      | none => .unstarted
      | some u =>
        if u.sched.started then
          let lo := off / 4
          .words u ((List.range ((off + len + 3) / 4 - lo)).map fun i => 4 * (lo + i))
        else .unstarted

/-- The dirty mapped words among some offsets, with the global address of each. -/
def Team.dirtyWords (u : Team) (offs : List Nat) : List (Nat × Nat) :=
  offs.filterMap fun w => match u.mapOf w with
    | some m => if m.dirty.contains w then some (w, m.gva + (w - m.off)) else none
    | none => none

/-- Marking mapped words clean, and unfilled for a drop. -/
def Team.cleanWords (u : Team) (ws : List Nat) (drop : Bool) : Team :=
  { u with maps := u.maps.map fun m =>
      { m with dirty := m.dirty.filter (!ws.contains ·), filled := if drop then m.filled.filter (!ws.contains ·) else m.filled } }

/-- SC.WB: the dirty words go out as weak stores and the team stalls until all have registered; the words before a
fault stay written. -/
def Ctx.writeBack (c : Ctx) (u : Team) (offs : List Nat) : Effect :=
  let ws := u.dirtyWords offs
  let accs : List (Acc × Nat) := ws.map fun (w, g) => (⟨w, g, 4⟩, w)
  let bad := fun (m : Meet) => match m with | .ok _ => false | _ => true
  let good := (c.s.meetAll c.t needW (accs.map (·.1))).takeWhile fun x => !bad x.2
  let rest := (c.s.meetAll c.t needW (accs.map (·.1))).drop good.length
  if ws = [] then (if c.t.storesDone then .next c.s c.t else .stall c.s c.t .drain)
  else if c.s.pathsFull c.t [1] then .stall c.s c.t .counterFull
  else
    let now := accs.take good.length
    (c.s.store c.t false 1 (now.map fun (a, w) => (a, c.s.readScratch c.t (u.sched.scratch + w) 4))).run c.t fun s x =>
      let s := ((s.team? u.id).elim s fun v => s.setTeam (v.cleanWords (now.map (·.2)) false))
      let t := s.resync x.1
      match rest with
      | [] => .stall s t .drain
      | (a, .noPerm) :: _ => .trap s t 0x07 (addrInfo a.va) .region
      | (a, .nonResident) :: _ => .trap s t 0x06 (addrInfo a.va) .region
      | (a, .dead _) :: _ => remoteFault s t (addrInfo a.va, false)
      | _ => .stall s t .sibling

def execScWb (a b : BitVec 7) (s : State) : Host.Outcome State Fault Refusal :=
  s.issue (.scWb a b) (.front 1) fun c =>
    match c.s.scratchRange c.t ((c.S a).toNat % 2 ^ 57) (c.S b).toNat with
    | .none => .next c.s c.t
    | .outside va => .trap c.s c.t 0x07 (addrInfo va) .region
    | .unstarted => .stall c.s c.t .sibling
    | .words u offs => c.writeBack u offs

/-- SC.DROP: dirty words become clean and unfilled; a table that watches one becomes stale. -/
def execScDrop (a b : BitVec 7) (s : State) : Host.Outcome State Fault Refusal :=
  s.issue (.scDrop a b) (.front 1) fun c =>
    match c.s.scratchRange c.t ((c.S a).toNat % 2 ^ 57) (c.S b).toNat with
    | .none => .next c.s c.t
    | .outside va => .trap c.s c.t 0x07 (addrInfo va) .region
    | .unstarted => .stall c.s c.t .sibling
    | .words u offs =>
      let ws := (u.dirtyWords offs).map (·.1)
      let bs := ws.flatMap fun w => (List.range 4).map fun i => (u.sched.scratch + w + i, (0 : Byte))
      let s := c.s.setTeam (u.cleanWords ws true)
      let s := { s with teams := s.teams.map (Team.staleTables · bs) }
      .next s (s.resync c.t)

end Sys2Proof.Machine
end

