-- ==== Sys2Proof/Machine/Queue.lean ====
section
/-! DEFINITION. What the copy, chain and engine queues share: descriptors read at issue (R205, R212), accesses of a
queue (R208, R217, R329), the order of QFENCE (R197), and the end of an operation in error (R208, R232, R241). -/

namespace Sys2Proof.Machine

/-! Descriptors at issue. -/

/-- Reading the records of 16-byte pieces that an instruction names, as (address, bytes), at issue: a weak load whose exceptional
pages fault with the record's address (R205, R212). DEDUCED (log 40). -/
def Ctx.readDescs (c : Ctx) (t : Team) (ds : List (Nat × Nat)) (k : State → Team → List (List Byte) → Effect) : Effect :=
  let pieces := fun (d : Nat × Nat) => (List.range (d.2 / 16)).map fun i => c.sAcc ((d.1 + 16 * i) % 2 ^ 57) 16
  let info := fun (va : Nat) => addrInfo (((ds.find? fun d => (pieces d).any (·.va == va)).map (·.1)).getD 0)
  match c.s.load t false (ds.flatMap pieces) with
  | .stall s why => .stall s (s.resync t) why
  | .fault s cause tinfo => .trap s (s.resync t) cause (if cause = 0x0A then tinfo else info tinfo.toNat) .region
  | .ok s xs =>
    let t := s.resync t
    match xs.find? fun x => match x.2 with | .data _ => false | _ => true with
    | some (a, .dead _) => remoteFault s t (info a.va, false)
    | some (a, _) => .trap s t 0x06 (info a.va) .region
    | none => k s t (ds.map fun d => (pieces d).flatMap fun a => ((xs.find? fun x => x.1 == a).map (·.2.bytes 16)).getD [])

def Ctx.readDesc (c : Ctx) (t : Team) (va n : Nat) (k : State → Team → List Byte → Effect) : Effect :=
  c.readDescs t [(va, n)] fun s t ds => k s t (ds.getD 0 [])

/-- A field whose bits [63:57] are zero. -/
def isAddr (d : List Byte) (off : Nat) : Bool := decide (leField d off 8 < 2 ^ 57)
def allZero (d : List Byte) (off n : Nat) : Bool := decide (leField d off n = 0)
/-- A signed 4-byte field. -/
def leInt (d : List Byte) (off : Nat) : Int := signedOf 32 (leField d off 4)

/-! QFENCE. -/

/-- Whether a mark of QFENCE holds an operation back (R197). -/
def Team.fenceHolds (t : Team) (q serial : Nat) : Bool :=
  t.eng.qfences.any fun (m, n) => m.getLsbD q && decide (n ≤ serial) &&
    (List.range 7).any fun p => m.getLsbD p && (t.queued p).any fun x => decide (x < n)

/-! Accesses. -/

/-- Why an access of a queue does not go on: a page to be requested, an error with its cause and detail, or
something that time will mend. -/
inductive QStop where
  | page (va : Nat)
  | error (cause : BitVec 8) (info : DWord)
  | wait
  deriving DecidableEq, Repr

/-- The global address behind a mapped scratch byte. -/
def State.mappedVa (s : State) (p : Place) : Option Nat :=
  match p with
  | .scratch id off _ => (s.team? id).bind fun u => (u.mapOf off).map fun m => m.gva + (off - m.off)
  | _ => none

/-- The address that an access reports: its first byte that the operation uses (R208, R217, R262). -/
def firstUsed (need : List (Nat × Nat)) (va n : Nat) : Nat :=
  ((need.map (·.1)).filter fun a => decide (va ≤ a) && decide (a < va + n)).foldl min (va + n - 1)

/-- A read of a queue that meets a dead member notes it with the team, as a load does: the residency predicate of its lanes, the
flags and TINFO (R351). DEDUCED (log 65). -/
def State.noteDead (s : State) (id : Nat) (read : Bool) (d : BitVec 10) : State :=
  match s.team? id with
  | some t => if read then s.setTeam ((t.writePIn t.rp t.mask allLanes).noteDead d) else s
  | none => s

/-- Where an access of a queue lands. `at_` is the address that it reports. -/
def State.qPlace (s : State) (t : Team) (va n at_ : Nat) (need : Need) : State × Except QStop Place :=
  let read := need.r && !need.w
  match s.xlate t va need with
  | .noPerm => (s, .error (.error 0x07 (addrInfo at_)))
  | .nonResident => (s, .error (.page at_))
  | .dead d => (s.noteDead t.id read d, .error (.error 0x0B (addrInfo at_)))
  | .wait => (s, .error .wait)
  | .ok p =>
    match s.prepare p n (need.w && !need.r) with
    | (s, .ok p) => (s, .ok p)
    | (s, .noPerm) => (s, .error (.error 0x07 (addrInfo at_)))
    | (s, .nonResident) => (s, .error (.page ((s.mappedVa p).getD at_)))
    | (s, .dead d) => (s.noteDead t.id read d, .error (.error 0x0B (addrInfo at_)))
    | (s, .wait) => (s, .error .wait)

/-- A queue's request to another member, and its answer when there is one: sent, waited for, or answered. The answer to a read
stays for the other elements of its line until the operation is over (R348). DEDUCED (log 30). -/
def State.qAsk (s : State) (id q : Nat) (d : BitVec 10) (pa va at_ : Nat) (k : RemoteKind) : State × Except QStop RemoteAnswer :=
  match s.pod.reqs.find? fun r => r.team == id && r.use == .queue q && r.va.toNat == va && r.kind == k with
  | none => (if s.portsHeld then s else s.send id (.queue q) d pa va k, .error .wait)
  | some r =>
    match r.ans with
    | some .error => (s, .error (.error 0x07 (addrInfo at_)))
    | some .poisoned => (s, .error (.error 0x0A (poisonInfo at_)))
    | some a => (s, .ok a)
    | none =>
      if r.dead then
        (s.noteDead id (RemoteKind.isRead k) d, .error (.error 0x0B (addrInfo at_ ||| (if RemoteKind.isRead k then 0 else 1 <<< 62))))
      else (s, .error .wait)

/-- Requests of an operation with some kinds are done with. -/
def State.endRequests (s : State) (id q : Nat) (kind : RemoteKind → Bool) : State :=
  s.abandon fun r => r.team == id && r.use == .queue q && kind r.kind

/-- Whether some of the byte ranges that matter of a read at va, landing at pa, are poisoned (R275). -/
def State.poisonIn (s : State) (core va pa n : Nat) (need : List (Nat × Nat)) : Bool :=
  need.any fun (a, k) => decide (va ≤ a) && decide (a < va + n) && s.poisoned core (pa + (a - va)) k true

/-- The byte that an operation has written at a place of another member and not sent (R207, R348). -/
def State.formingByte (s : State) (id q : Nat) (d : BitVec 10) (pa : Nat) : Option Byte :=
  (s.pod.reqs.find? fun r => r.team == id && r.use == .queue q && r.forming && r.dev == d && r.pa == pa / 256 * 256).bind fun r =>
    match r.kind with
    | .write xs => (xs.reverse.find? fun x => x.1 == pa % 256).map (·.2)
    | _ => none

/-- A read of an operation, by its serial: a weak access (R207, R217). `need` gives the byte ranges that the operation uses. -/
def State.qReadFor (s : State) (id q va n : Nat) (need : List (Nat × Nat)) : State × Except QStop (List Byte) :=
  let at_ := firstUsed need va n
  match s.team? id with
  | none => (s, .error .wait)
  | some t =>
    match s.qPlace t va n at_ needR with
    | (s, .error e) => (s, .error e)
    | (s, .ok (.home pa)) =>
      if s.poisonIn t.coreId va pa n need then (s, .error (.error 0x0A (poisonInfo at_)))
      else let (s, bs) := s.readHome t true pa n; (s, .ok bs)
    | (s, .ok (.scratch _ _ pa)) =>
      if s.poisonIn t.coreId va pa n need then (s, .error (.error 0x0A (poisonInfo at_))) else (s, .ok (s.readScratch t pa n))
    | (s, .ok (.remote d pa)) =>
      let l := if va % 128 + n ≤ 128 then va % 128 else 0
      match s.qAsk id q d (pa - l) (va - l) at_ (.read (if va % 128 + n ≤ 128 then 128 else n)) with
      | (s, .ok (.data bs)) =>
        (s, .ok ((List.range n).map fun i => (s.formingByte id q d (pa + i)).getD (bs.getD (l + i) 0)))
      | (s, .ok _) => (s, .error (.error 0x0B (addrInfo at_)))
      | (s, .error e) => (s, .error e)

def State.qRead (s : State) (id q va n : Nat) : State × Except QStop (List Byte) := s.qReadFor id q va n [(va, n)]

/-- A remote write of a queue joins the packet that the operation forms of its block; it is sent when the operation has made
its last write (R348). -/
def State.gatherWrite (s : State) (id q : Nat) (dev : BitVec 10) (pa va : Nat) (bs : List Byte) : State :=
  (addBytes dev pa va bs []).foldl (fun s x =>
    match s.pod.reqs.find? fun r => r.team == id && r.use == .queue q && r.forming && r.dev == dev && r.pa == x.block with
    | some r =>
      let old := match r.kind with | .write xs => xs | _ => []
      { s with pod.reqs := s.pod.reqs.map fun y => if y.id = r.id then { y with kind := .write (old ++ x.bytes) } else y }
    | none =>
      { s with pod.nextReq := s.pod.nextReq + 1,
               pod.reqs := s.pod.reqs ++
                 [⟨s.pod.nextReq, id, .queue q, dev, x.block, BitVec.ofNat 64 x.va, .write x.bytes, 0, s.now, none, false, false, true⟩] }) s

/-- A packet that was forming goes out. -/
def State.sendFormed (s : State) (r : RemoteOut) : State :=
  let s := s.staleBlock r.team r.dev r.pa
  { s with pod.inUse := s.portsNow,
           pod.reqs := s.pod.reqs.map fun x =>
             if x.id = r.id then { x with forming := false, at_ := s.now, port := s.portOf r.dev r.pa } else x }

/-- The packets that some test admits and that are forming go out, unless a port holds new requests back (R345). -/
def State.flushWrites (s : State) (mine : RemoteOut → Bool) : State :=
  if s.portsHeld then s else (s.pod.reqs.filter fun r => r.forming && mine r).foldl State.sendFormed s

/-- Whether an operation has packets that have not been sent. -/
def State.qForming (s : State) (id q : Nat) : Bool :=
  s.pod.reqs.any fun r => r.team == id && r.use == .queue q && r.forming

/-- An operation has made its last access: its packets go out, and the lines that it has read are done with. -/
def State.qFinish (s : State) (id q : Nat) : State :=
  (s.flushWrites fun r => r.team == id && r.use == .queue q).endRequests id q RemoteKind.isRead

/-- Operations are over before their end: what they have written still goes out, and nothing waits for an answer. -/
def State.leaveOps (s : State) (id : Nat) (serials : List Nat) : State :=
  let mine := fun (r : RemoteOut) => r.team == id && serials.any fun n => r.use == .queue n
  let s := s.flushWrites mine
  let rest := s.pod.reqs.filter fun r => !(mine r && (r.ans.isSome || r.dead))
  { s with pod.reqs := rest.map fun (r : RemoteOut) => if mine r then { r with use := .gone } else r }

/-- A write of a queue. It waits for an own store to the same words that has not registered. DEDUCED (log 36). -/
def State.qWrite (s : State) (id q va : Nat) (bs : List Byte) : State × Except QStop Unit :=
  match s.team? id with
  | none => (s, .error .wait)
  | some t =>
    match s.qPlace t va bs.length va needW with
    | (s, .error e) => (s, .error e)
    | (s, .ok (.remote d pa)) => (s.gatherWrite id q d pa va bs, .ok ())
    | (s, .ok p) =>
      let pa := match p with | .home pa => pa | .scratch _ _ pa => pa | .remote _ pa => pa
      let xs := (List.range bs.length).zip bs |>.map fun (i, b) => (pa + i, b)
      if t.pendingOn (wordsOf xs) then (s, .error .wait) else ((s.register none false xs).markDirty p bs.length, .ok ())

/-- Whether an operation has write packets without an answer. -/
def State.qBusy (s : State) (id q : Nat) : Bool :=
  s.pod.reqs.any fun r => r.team == id && r.use == .queue q && (match r.kind with | .write _ => true | _ => false)

/-! The work of an engine (R356, R361). -/

def State.engineOf (s : State) (t : Team) : ShutEngine :=
  ((s.core? t.sched.cluster t.sched.core).map (·.engine)).getD ⟨false, false, none, 0⟩

def State.setEngine (s : State) (t : Team) (e : ShutEngine) : State :=
  match s.core? t.sched.cluster t.sched.core with
  | some k => s.setCore t.sched.cluster t.sched.core { k with engine := e }
  | none => s

/-- Whether an operation is under way: started, and not suspended. -/
def EngineOp.running (o : EngineOp) : Bool := o.started && !o.paused

/-- Whether an operation performs work at a lane cycle: a tile that is being stored does in its first 16 alone (R369). -/
def EngineOp.works (o : EngineOp) (now : Nat) : Bool :=
  o.running && (match o.op with | .mxAccrd _ _ _ => decide (now < o.begun + 16) | _ => true)

/-- The engine of a team's core has worked until now. -/
def State.engineEnds (s : State) (t : Team) : State :=
  let s := s.touchUnit t .matrix
  s.setEngine t { s.engineOf t with ended := s.clock t false }

/-- The work of an operation ends: the unit has worked until now, and the engine's work ended in this front cycle. -/
def State.workEnds (s : State) (t : Team) (o : EngineOp) : State :=
  if o.running then
    let s := s.touchUnit t .matrix
    if o.works (s.clock t true) then s.setEngine t { s.engineOf t with ended := s.clock t false } else s
  else s

/-! Ends in error. -/

/-- The fault of a queue that ended in error: TINFO[60] and the queue's number (R208, R262). -/
def queueFault (q serial : Nat) (cause : BitVec 8) (info : DWord) : PendFault :=
  ⟨cause, info ||| (1 <<< 60) ||| (BitVec.ofNat 64 q <<< 57), serial, false, false, false⟩

/-- Faults in the order in which their operations issued, pipeline errors first (R263). -/
def insertFault (f : PendFault) : List PendFault → List PendFault
  | [] => [f]
  | x :: r =>
    if (f.pipeline && !x.pipeline) || (f.pipeline == x.pipeline && decide (2 * f.serial + (if f.access then 0 else 1) < 2 * x.serial + (if x.access then 0 else 1))) then f :: x :: r
    else x :: insertFault f r

/-- Whether a log entry is one of the failed operations, or a KBUILD of the same table register. -/
def failedEntry (serials : List Nat) (k : Option Nat) (e : LogEntry) : LogEntry :=
  if (e.serial != 0 && serials.contains e.serial) || (k.isSome && e.kreg == k) then { e with failed := true } else e

/-- Operations end in error or are cancelled: they leave their queues, their counters fall and their entries are
marked failed. A pending fault of one of them is dropped with it (R263). -/
def Team.failOps (t : Team) (serials : List Nat) (k : Option Nat) (f : PendFault) : Team :=
  let gone := fun (x : Nat) => serials.contains x
  { t with
    eng.q5 := t.eng.q5.filter (fun o => !gone o.serial),
    eng.q6 := t.eng.q6.filter (fun o => !gone o.serial),
    eng.copies := t.eng.copies.filter (fun o => !gone o.serial),
    rep.log := t.rep.log.map (failedEntry serials k),
    iss.faults := insertFault f (t.iss.faults.filter fun x => !gone x.serial || x.pipeline || x.access),
    iss.flights := retireFlights [] (t.iss.flights.map fun x => match x.kind with
      | .copy n => if gone n then { x with done := true } else x
      | _ => x) }

/-- A pending fault ends a wait at WAIT, MX.WAIT or BAR.WAIT outside trap mode (R263). -/
def Team.endWait (t : Team) : Team :=
  if t.tm || t.iss.faults.isEmpty then t
  else match t.iss.withheld with
    | some (_, .wait _ _) | some (_, .barWait _ _) | some (_, .mxWait _) => { t with iss.withheld := none }
    | _ => t

/-- An empty table register (R233). -/
def emptyTable : KTable := ⟨.empty, 0, 0, 0, [], 0, 0, 0, []⟩

/-- A tile of C as an operation's `kept` holds it, put back. -/
def putTile (tile : Nat) (kept c : Sparse 32) : Sparse 32 :=
  c.setAll ((List.range 4096).map fun i => (4096 * tile + i, kept.get (4096 * tile + i)))

/-- What an operation that ends in error leaves: its destination as it stood at its start (R232), its table empty (R235). -/
def Team.undoOp (t : Team) (o : EngineOp) : Team :=
  let t := match o.op, o.kept with
    | .mxMma c _ _ _ _ _ _ _, some k | .mxKmma c _ _ _ _ _ _, some k => { t with regs.c := putTile c.toNat k t.regs.c }
    | _, _ => t
  match o.op with
  | .tblKbuild k _ _ => if o.started then { t with eng.k := setAt t.eng.k k.toNat emptyTable } else t
  | _ => t

/-- A queue's operation ends in error: it and every later operation of the queue. -/
def Team.failQueue (t : Team) (q serial : Nat) (cause : BitVec 8) (info : DWord) : Team :=
  let ops := if q = 5 then t.eng.q5 else if q = 6 then t.eng.q6 else []
  ((ops.foldl Team.undoOp t).failOps (t.queued q) none (queueFault q serial cause info)).endWait

/-- The same in the machine: the work of the operation ends, and its requests are left. -/
def State.failOp (s : State) (id q serial : Nat) (cause : BitVec 8) (info : DWord) : State :=
  match s.team? id with
  | none => s
  | some t =>
    let s := s.leaveOps id (t.queued q)
    let s := if q < 5 then s.touchUnit t .copy else (t.eng.q5 ++ t.eng.q6).foldl (fun s o =>
      if o.serial = serial then s.workEnds t o else s) s
    s.setTeam (t.failQueue q serial cause info)

end Sys2Proof.Machine
end

