-- ==== Sys2Proof/Machine/Special.lean ====
section
/-! DEFINITION. Special functions (R159 to R162). Where the architecture leaves one of two bracketing values open, an
opaque choice of Config decides; the exact value itself is computed here, with an odd last bit standing for what
lies below it. -/

namespace Sys2Proof.Machine

/-- ln 2 · 2^256, rounded down. -/
def ln2Fix : Nat := 0xb17217f7d1cf79abc9e3b39803f2f6af40f343267298b62d8a0d175b8baafa2b

/-- π · 2^512, rounded down. -/
def piFix : Nat := 0x3243f6a8885a308d313198a2e03707344a4093822299f31d0082efa98ec4e6c89452821e638d01377be5466cf34e90c6cc0ac29b7c97c50dd3f84d5b5b5470917

/-- A value known to lie strictly between k and k + 1 units of 2^e. -/
def between (neg : Bool) (k : Nat) (e : Int) : FVal := .fin neg (2 * k + 1) (e - 1)

/-- q · 2^e exactly, or a value just above it. -/
def approx (neg exact : Bool) (q : Nat) (e : Int) : FVal := if exact then .fin neg q e else between neg q e

/-! The functions on finite nonzero operands m · 2^e. -/

def recipFin (neg : Bool) (m : Nat) (e : Int) : FVal :=
  let k := 80 + Nat.log2 m
  approx neg (decide (2 ^ k % m = 0)) (2 ^ k / m) (-(k : Int) - e)

def sqrtFin (m : Nat) (e : Int) : FVal :=
  let j : Nat := if e % 2 = 0 then 128 else 129
  let q := isqrt (m * 2 ^ j)
  approx false (decide (q * q = m * 2 ^ j)) q ((e - j) / 2)

def rsqFin (m : Nat) (e : Int) : FVal :=
  let j : Nat := if e % 2 = 0 then 192 else 193
  let q := isqrt (2 ^ j / m)
  approx false (decide (q * q * m = 2 ^ j)) q ((-e - j) / 2)

/-- The sum of x^k / k! from term number k on, in units of 2^-256, by `fuel` terms. -/
def expSeries (x : Nat) : Nat → Nat → Nat → Nat
  | 0, _, _ => 0
  | fuel + 1, k, t => t + expSeries x fuel (k + 1) (t * x / (2 ^ 256 * k))

def exp2Fin (neg : Bool) (m : Nat) (e : Int) : FVal :=
  -- below -400 every format gives the same bracket
  if neg && decide (400 * 2 ^ (-e).toNat < scaleUp m e) then between false 1 (-401)
  else
    let a := scaleUp m (e + 256)
    let v : Int := if neg then -(a : Int) else a
    let n := v / ((2 ^ 256 : Nat) : Int)
    let f := (v % ((2 ^ 256 : Nat) : Int)).toNat
    if f = 0 then .fin false 1 n
    else between false (expSeries (f * ln2Fix / 2 ^ 256) 64 1 (2 ^ 256)) (n - 256)

/-- The next `fuel` bits of log2 y, for y in units of 2^-320 between 1 and 2. -/
def log2Bits : Nat → Nat → Nat → Nat
  | 0, _, acc => acc
  | fuel + 1, y, acc =>
    let z := y * y / 2 ^ 320
    if 2 ^ 321 ≤ z then log2Bits fuel (z / 2) (2 * acc + 1) else log2Bits fuel z (2 * acc)

def log2Fin (m : Nat) (e : Int) : FVal :=
  let l := Nat.log2 m
  let n := e + l
  if m = 2 ^ l then ofInt n
  else
    let v := 2 * (n * ((2 ^ 110 : Nat) : Int) + log2Bits 110 (m * 2 ^ (320 - l)) 0) + 1
    .fin (decide (v < 0)) v.natAbs (-111)

/-! Rounding. -/

/-- One of the two values that bracket the true value (R159), as the implementation chooses; a value that is
representable is given as it is. No overflow: above the largest finite value lies only that value (R160).
DEDUCED (log 10). -/
def faithful (f : Fmt) (fn : SpecialFn) (rm : RoundMode) (et : ElemType) (x : Nat) (ftz : Bool) (v : FVal) : Nat × Nat :=
  let lo := f.round ⟨.rdn, 0, ftz, false⟩ v
  let hi := f.round ⟨.rup, 0, ftz, false⟩ v
  if hi.2 = fOverflow + fInexact then (lo.1, fInexact)
  else if Config.pickUpper fn rm et (BitVec.ofNat 32 x) then hi else lo

/-- RNE where SR would stand (R159, R162). -/
def noSr (rm : RoundMode) : RoundMode := if rm = .sr then .rne else rm

/-- RCP of an element (R159, R160). -/
def rcpElem (f : Fmt) (o : Rnd) (x : Nat) : Nat × Nat :=
  match f.read o.ftz x with
  | .nan => (f.nan, 0)
  | .inf neg => (f.signBit neg, 0)
  | .fin neg m e => if m = 0 then (f.signBit neg + f.infBits, fDivZero) else f.round o (recipFin neg m e)

/-- SQRT of an element. -/
def sqrtElem (f : Fmt) (o : Rnd) (x : Nat) : Nat × Nat :=
  match f.read o.ftz x with
  | .nan => (f.nan, 0)
  | .inf neg => if neg then (f.nan, fInvalid) else (f.infBits, 0)
  | .fin neg m e => if m = 0 then (f.signBit neg, 0) else if neg then (f.nan, fInvalid) else f.round o (sqrtFin m e)

/-- RSQ of an element. -/
def rsqElem (f : Fmt) (et : ElemType) (o : Rnd) (x : Nat) : Nat × Nat :=
  match f.read o.ftz x with
  | .nan => (f.nan, 0)
  | .inf neg => if neg then (f.nan, fInvalid) else (0, 0)
  | .fin neg m e =>
    if m = 0 then (f.signBit neg + f.infBits, fDivZero)
    else if neg then (f.nan, fInvalid) else faithful f .rsq o.rm et x o.ftz (rsqFin m e)

/-- EXP2 of an element: overflow from 128, or from 16 for FP16 (R160). -/
def exp2Elem (f : Fmt) (et : ElemType) (o : Rnd) (x : Nat) : Nat × Nat :=
  match f.read o.ftz x with
  | .nan => (f.nan, 0)
  | .inf neg => if neg then (0, 0) else (f.infBits, 0)
  | .fin neg m e =>
    if m = 0 then ((f.round rne (ofInt 1)).1, 0)
    else if !neg && decide ((f.bias + 1) * 2 ^ (-e).toNat ≤ scaleUp m e) then
      (f.overflow (noSr o.rm) false false, fOverflow + fInexact)
    else faithful f .exp2 o.rm et x o.ftz (exp2Fin neg m e)

/-- LOG2 of an element. -/
def log2Elem (f : Fmt) (et : ElemType) (o : Rnd) (x : Nat) : Nat × Nat :=
  match f.read o.ftz x with
  | .nan => (f.nan, 0)
  | .inf neg => if neg then (f.nan, fInvalid) else (f.infBits, 0)
  | .fin neg m e =>
    if m = 0 then (f.signBit true + f.infBits, fDivZero)
    else if neg then (f.nan, fInvalid) else faithful f .log2 o.rm et x o.ftz (log2Fin m e)

/-- A special function over the elements of V[A]: FP32, BF16 or FP16 only (R159). `steps` tells whether it
consumes SR steps. -/
def Ctx.special (c : Ctx) (d a : BitVec 7) (steps : Bool) (g : Fmt → ElemType → Rnd → Nat → Nat × Nat) : Effect :=
  let t := c.t
  match ElemType.fmt t.et with
  | none => .reservedUse
  | some f =>
    if ElemType.memoryOnly t.et then .reservedUse
    else c.lanewise d.toNat f.w (32 / f.w) (if steps then t.rnd else { t.rnd with rm := noSr t.rm }) fun l o e => g f t.et o (t.el a.toNat l e)

def sfu : Time := .lane .special 4 6

def execVRcp (d a : BitVec 7) (s : State) : Host.Outcome State Fault Refusal :=
  s.issue (.vRcp d a) sfu fun c => c.special d a true fun f _ => rcpElem f
def execVRsq (d a : BitVec 7) (s : State) : Host.Outcome State Fault Refusal :=
  s.issue (.vRsq d a) sfu fun c => c.special d a false fun f et => rsqElem f et
def execVSqrt (d a : BitVec 7) (s : State) : Host.Outcome State Fault Refusal :=
  s.issue (.vSqrt d a) sfu fun c => c.special d a true fun f _ => sqrtElem f
def execVExp2 (d a : BitVec 7) (s : State) : Host.Outcome State Fault Refusal :=
  s.issue (.vExp2 d a) sfu fun c => c.special d a false fun f et => exp2Elem f et
def execVLog2 (d a : BitVec 7) (s : State) : Host.Outcome State Fault Refusal :=
  s.issue (.vLog2 d a) sfu fun c => c.special d a false fun f et => log2Elem f et

/-! Argument reduction and reduced sine and cosine (R161, R162). -/

/-- The nearest integer, ties to even. -/
def nearestInt : FVal → Int
  | .fin neg m e =>
    let k := if 0 ≤ e then scaleUp m e else (roundShift .rne 0 false m (-e).toNat).1
    if neg then -(k : Int) else k
  | _ => 0

/-- One fused step r - n·P, rounded RNE (R161); with n = 0 a zero r keeps its sign. -/
def reduceStep (r : FVal) (n : Int) (p : Nat) : FVal :=
  fp32.decode (fp32.round rne (sumProducts .rne [((ofInt n).neg, fp32.decode p)] [r]).1).1

/-- r, q and the flags of V.RRED. -/
def rred (ftz : Bool) (x : Nat) : Nat × Int × Nat :=
  match fp32.read ftz x with
  | .nan | .inf _ => (fp32.nan, 0, fInvalid)
  | a@(.fin neg m e) =>
    if scaleUp m e ≤ 2 ^ 20 * 2 ^ (-e).toNat then
      let n := nearestInt (fp32.decode (fp32.round rne (product a (fp32.decode 0x3F22F983)).1).1)
      let r := reduceStep (reduceStep (reduceStep a n 0x3FC90000) n 0x39FDA000) n 0x33A22169
      ((fp32.round rne r).1, n % 4, 0)
    else
      -- a is m · 2^e with e ≥ -3 here; the quotient by π/2 to 512 bits decides n
      let v := scaleUp m (e + 8)
      let k := v * 2 ^ 512 * 2 / (piFix * 2 ^ 8)
      let twice := v * 2 ^ 512 * 4 / (piFix * 2 ^ 8)
      let n : Nat := if twice % 2 = 1 then k + 1 else k
      let r : Int := (v : Int) * ((2 ^ 505 : Nat) : Int) - (n : Int) * piFix
      let neg' := if r < 0 then !neg else neg
      let ni : Int := if neg then -(n : Int) else n
      ((fp32.round rne (between neg' r.natAbs (-513))).1, ni % 4, fInexact)

/-- The state after V.RRED: r in V[D], q in V[D+1]. -/
def execVRred (d a : BitVec 7) (s : State) : Host.Outcome State Fault Refusal :=
  s.issue (.vRred d a) sfu fun c =>
    let t := c.t
    if t.et ≠ .fp32 then .reservedUse
    else
      let rs := c.lanes.map fun l => (l, rred t.ftz (t.readV a.toNat l).toNat)
      let t1 := t.writeV d.toNat (rs.map fun x => (x.1, BitVec.ofNat 32 x.2.1))
      let t2 := t1.writeV (d.toNat + 1) (rs.map fun x => (x.1, BitVec.ofInt 32 x.2.2.1))
      .next c.s (t2.setFlags (rs.foldl (fun acc x => acc ||| x.2.2.2) 0))

/-- Terms of an alternating series in units of 2^-200: each is the last times -x² / (k (k+1)). -/
def trigSeries (x2 : Nat) : Nat → Nat → Int → Int
  | 0, _, _ => 0
  | fuel + 1, k, t => t + trigSeries x2 fuel (k + 2) (-(t * x2 / ((2 ^ 200 * (k * (k + 1)) : Nat) : Int)))

/-- m · 2^e in units of 2^-200, as an integer not above it. -/
def unit200 (m : Nat) (e : Int) : Nat := if -200 ≤ e then scaleUp m (e + 200) else m / 2 ^ (-(e + 200)).toNat

/-- sin of m · 2^e with |r| < 1. -/
def sinFin (neg : Bool) (m : Nat) (e : Int) : FVal :=
  if m = 0 then .fin neg 0 e
  else if (Nat.log2 m : Int) + e < -40 then between neg (m * 2 ^ 64 - 1) (e - 64)
  else
    let x := unit200 m e
    between neg (trigSeries (x * x / 2 ^ 200) 40 2 x).toNat (-200)

/-- cos of m · 2^e with |r| < 1. -/
def cosFin (m : Nat) (e : Int) : FVal :=
  if m = 0 then ofInt 1
  else if (Nat.log2 m : Int) + e < -40 then between false (2 ^ 100 - 1) (-100)
  else
    let x := unit200 m e
    between false (trigSeries (x * x / 2 ^ 200) 40 1 ((2 ^ 200 : Nat) : Int)).toNat (-200)

/-- An argument m · 2^e above 1 reduced by the exact π/2: sign, magnitude and exponent of the rest, and the quadrant. -/
def reduceTrig (neg : Bool) (m : Nat) (e : Int) : Bool × Nat × Int × Int :=
  if scaleUp m (e + 160) ≤ 2 ^ 160 then (neg, m, e, 0)
  else
    let v := scaleUp m (e + 32)
    let k := v * 2 ^ 512 * 2 / (piFix * 2 ^ 32)
    let n : Nat := if v * 2 ^ 512 * 4 / (piFix * 2 ^ 32) % 2 = 1 then k + 1 else k
    let r : Int := (v : Int) * ((2 ^ 481 : Nat) : Int) - (n : Int) * piFix
    (if r < 0 then !neg else neg, r.natAbs, -513, if neg then -(n : Int) else n)

/-- The result of V.SINR or V.COSR for a value: of the two FP32 values that lie next to it, each within 1 ulp, the one that the
implementation gives (R162). DEDUCED (log 10). -/
def sinCosResult (fn : SpecialFn) (x : Nat) (q : BitVec 2) (v : FVal) (ftz : Bool) : Nat × Nat :=
  let free := (Config.sinCos fn (BitVec.ofNat 32 x) q).toNat
  let lo := (fp32.round ⟨.rdn, 0, false, false⟩ v).1
  let hi := (fp32.round ⟨.rup, 0, false, false⟩ v).1
  let b := if free = lo ∨ free = hi then free else (fp32.round rne v).1
  let small := decide (b % 2 ^ 31 < 2 ^ 23)
  if lo = hi then (b, 0)
  else if small && ftz then (b / 2 ^ 31 * 2 ^ 31, fUnderflow + fInexact)
  else (b, fInexact + if small then fUnderflow else 0)

/-- V.SINR (`sine`) or V.COSR of r in V[A] and q in V[A+1] (R162). -/
def trigElem (sine ftz : Bool) (x : Nat) (q : BitVec 2) : Nat × Nat :=
  match fp32.read ftz x with
  | .nan => (fp32.nan, 0)
  | .inf _ => (fp32.nan, fInvalid)
  | .fin neg m e =>
    if sine && m == 0 && q == 0 then (fp32.signBit neg, 0)
    else
      let (neg', m', e', n) := reduceTrig neg m e
      let k := q + BitVec.ofInt 2 n
      let v := if k.getLsbD 0 == sine then cosFin m' e' else sinFin neg' m' e'
      let minus := if sine then k.getLsbD 1 else (k == 1 || k == 2)
      sinCosResult (if sine then .sinr else .cosr) x q (if minus then v.neg else v) ftz

def Ctx.trig (c : Ctx) (d a : BitVec 7) (sine : Bool) : Effect :=
  let t := c.t
  if t.et ≠ .fp32 then .reservedUse
  else c.lanewise d.toNat 32 1 { t.rnd with rm := noSr t.rm } fun l o _ =>
    trigElem sine o.ftz (t.readV a.toNat l).toNat ((t.readV (a.toNat + 1) l).extractLsb' 0 2)

def execVSinr (d a : BitVec 7) (s : State) : Host.Outcome State Fault Refusal :=
  s.issue (.vSinr d a) sfu fun c => c.trig d a true
def execVCosr (d a : BitVec 7) (s : State) : Host.Outcome State Fault Refusal :=
  s.issue (.vCosr d a) sfu fun c => c.trig d a false

end Sys2Proof.Machine
end

