-- ==== Sys2Proof/Machine/Copy.lean ====
section
/-! DEFINITION. The copy and chain engines: CPY and CHAIN at issue, and the steps of their operations (R202, R205 to
R210). -/

namespace Sys2Proof.Machine

/-! The copy descriptor (R206). -/

structure CopyDesc where
  src : Nat
  dst : Nat
  x   : List Nat
  st  : List Int
  qd  : Int
  lay : Nat
  b   : Nat
  pad : List Byte
  pb0 : Nat
  pa0 : Nat
  pb1 : Nat
  pa1 : Nat
  credit : Bool
  bara : Nat
  deriving DecidableEq, Repr

def copyDesc (d : List Byte) : CopyDesc :=
  let b := 2 ^ (leField d 48 1 % 4)
  let w := (d.drop 52).take 4
  { src := leField d 0 8, dst := leField d 8 8, x := [leField d 16 4, leField d 20 4, leField d 24 4, leField d 28 4],
    st := [leInt d 32, leInt d 36, leInt d 40], qd := leInt d 44, lay := leField d 48 1 / 16 % 8, b := b,
    pad := (w ++ w).take b, pb0 := leField d 56 1, pa0 := leField d 57 1, pb1 := leField d 58 1, pa1 := leField d 59 1,
    credit := decide (leField d 60 1 % 2 = 1), bara := leField d 64 8 }

namespace CopyDesc

def d0 (c : CopyDesc) : Nat := c.x.getD 0 0 + c.pb0 + c.pa0
def d1 (c : CopyDesc) : Nat := c.x.getD 1 0 + c.pb1 + c.pa1
def d2 (c : CopyDesc) : Nat := c.x.getD 2 0
def d3 (c : CopyDesc) : Nat := c.x.getD 3 0
/-- The elements written: none when some extent of the box is zero (R207). -/
def count (c : CopyDesc) : Nat := c.d0 * c.d1 * c.d2 * c.d3
def bytes (c : CopyDesc) : Nat := c.count * c.b

/-- The destination address of element i in the order of R207. -/
def dstOf (c : CopyDesc) (i : Nat) : Nat :=
  let i0 := i % c.d0
  let rho := i / c.d0
  layoutAddr c.lay c.dst c.qd c.b 1 c.d0 0 rho i0

/-- The source address of element i, none for padding. -/
def srcOf (c : CopyDesc) (i : Nat) : Option Nat :=
  let i0 := i % c.d0
  let i1 := i / c.d0 % c.d1
  let i2 := i / (c.d0 * c.d1) % c.d2
  let i3 := i / (c.d0 * c.d1 * c.d2)
  if c.pb0 ≤ i0 ∧ i0 < c.pb0 + c.x.getD 0 0 ∧ c.pb1 ≤ i1 ∧ i1 < c.pb1 + c.x.getD 1 0 then
    some (((c.src : Int) + i3 * c.st.getD 2 0 + i2 * c.st.getD 1 0 + ((i1 : Int) - c.pb1) * c.st.getD 0 0
      + ((i0 : Int) - c.pb0) * c.b) % ((2 ^ 57 : Nat) : Int)).toNat
  else none

end CopyDesc

/-- Reserved fields and codes, and the limit of a credited copy (R205, R206). -/
def copyReserved (d : List Byte) : Bool :=
  let c := copyDesc d
  !(isAddr d 0 && isAddr d 8 && isAddr d 64 && allZero d 72 8 && decide (leField d 60 4 < 2) &&
    decide (leField d 48 4 / 128 = 0) && decide (leField d 48 1 / 4 % 4 = 0) && decide (c.lay ≤ 5)) ||
  (c.credit && decide (2 ^ 28 ≤ c.bytes))

/-- The address of the misalignment trap of a copy (R205, R87). DESIGN CHOICE (log 69). -/
def copyMisaligned (c : CopyDesc) : Option Nat :=
  if c.src % c.b ≠ 0 ∨ c.st.any (fun s => s % c.b != 0) then some c.src
  else if c.dst % c.b ≠ 0 ∨ c.qd % c.b ≠ 0 ∨ !layoutAligned c.lay c.dst c.qd then some c.dst
  else if c.credit ∧ c.bara % 16 ≠ 0 then some c.bara
  else none

/-! The chain descriptor (R209). -/

structure ChainDesc where
  src : Nat
  dst : Nat
  n   : Nat
  st  : ElemType
  dt  : ElemType
  ops : List (Nat × Nat)
  rm  : RoundMode
  satf : Bool
  deriving DecidableEq, Repr

def chainDesc (d : List Byte) : ChainDesc :=
  let nop := leField d 26 1 % 16
  let ty := fun (off : Nat) => (ElemType.ofCode (BitVec.ofNat 4 (leField d off 1))).getD .int32
  { src := leField d 0 8, dst := leField d 8 8, n := leField d 16 4, st := ty 24, dt := ty 25,
    ops := (List.range nop).map fun i => (leField d 28 4 / 16 ^ i % 16, leField d (32 + 4 * i) 4),
    rm := (match leField d 27 1 % 4 with | 1 => .rtz | 2 => .rdn | 3 => .rup | _ => .rne),
    satf := decide (leField d 27 1 / 4 % 2 = 1) }

/-- The reserved uses of a chain descriptor; of the operation codes, those of the stages that it has (R97, R209).
DESIGN CHOICE (log 70). -/
def chainReserved (d : List Byte) : Bool :=
  let nop := leField d 26 1
  !(isAddr d 0 && isAddr d 8 && allZero d 20 4 && decide (leField d 24 1 ≤ 10) && decide (leField d 25 1 ≤ 10) &&
    decide (1 ≤ nop) && decide (nop ≤ 8) && decide (leField d 27 1 < 8)) ||
  (chainDesc d).ops.any fun o => decide (8 ≤ o.1) || (decide (o.1 = 6) && decide (10 < o.2 % 16))

def chainMisaligned (c : ChainDesc) : Option Nat :=
  if c.src % (c.st.width / 8) ≠ 0 then some c.src else if c.dst % (c.dt.width / 8) ≠ 0 then some c.dst else none

/-- A stage (R209): its exact result, and the flags that finding it raises. SCALE's K is bounded without effect on
the rounded result. DEDUCED (log 32). -/
def chainStage (op k x s : Nat) : FVal × Nat :=
  let v := fp32.decode x
  let kv := fp32.decode k
  match op with
  | 0 => sumProducts .rne [] [v, kv]
  | 1 => sumProducts .rne [(v, kv)] []
  | 2 => sumProducts .rne [(v, kv)] [fp32.decode s]
  | 3 => (fp32.decode (fp32.minMax true false x k), 0)
  | 4 => (fp32.decode (fp32.minMax false false x k), 0)
  | 5 => let r := exp2Elem fp32 .fp32 rne x; (fp32.decode r.1, r.2)
  | 6 => match ElemType.ofCode (BitVec.ofNat 4 (k % 16)) with
    | some t => let r := convert .fp32 t rne x; (t.value false r.1, r.2)
    | none => (v, 0)
  | _ => match v with
    | .fin neg m e => (.fin neg m (e + max (-2000) (min 2000 (signedOf 32 k))), 0)
    | _ => (v, 0)

/-- A stage rounded to FP32, with the flags of its exact result and of the rounding (R209). A product alone keeps the sign of a zero.
DESIGN CHOICE (log 77). -/
def chainRound (op k x s : Nat) : Nat × Nat :=
  if op = 1 then
    match fp32.decode x, fp32.decode k with
    | a, b => match a.mul b with
      | some v => fp32.round rne v
      | none => (fp32.nan, fInvalid)
  else
    let r := chainStage op k x s
    if r.2 &&& fInvalid ≠ 0 ∧ r.1.isNan then (fp32.nan, r.2)
    else let y := fp32.round rne r.1; (y.1, y.2 ||| r.2)

def chainStages (s : Nat) : List (Nat × Nat) → Nat → Nat × Nat
  | [], x => (x, 0)
  | (op, k) :: r, x =>
    let y := chainRound op k x s
    let z := chainStages s r y.1
    (z.1, y.2 ||| z.2)

/-- One element of a chain: from its source bits to its destination bits, with flags (R210). -/
def chainElem (c : ChainDesc) (x : Nat) : Nat × Nat :=
  let s := fp32.round rne (c.st.value false x)
  let y := chainStages s.1 c.ops s.1
  let z := convert .fp32 c.dt ⟨c.rm, 0, false, c.satf⟩ y.1
  (z.1, s.2 ||| y.2 ||| z.2)

/-! Issue (R205). -/

/-- Queuing a copy or chain. -/
def Ctx.queueCopy (c : Ctx) (s : State) (t : Team) (q : Nat) (chain : Bool) (d : List Byte) : Effect :=
  let n := t.eng.next
  let path := if chain then 5 else 4
  let t := t.addFlights [⟨path, .copy n, false, false, [], [], false, 0, n, none⟩]
  let t := { t with eng.next := n + 1, eng.copies := t.eng.copies ++ [⟨n, q, chain, d, 0, false, false, none, 0⟩] }
  .next (s.useUnit t .copy 0).1 (t.record c.fi [] n)

def execCpy (a b : BitVec 7) (s : State) : Host.Outcome State Fault Refusal :=
  s.issue (.cpy a b) (.front 1) fun c =>
    let va := (c.S a).toNat % 2 ^ 57
    if 3 < (c.S b).toNat then .reservedUse
    else if va % 16 ≠ 0 then c.precise 0x05 (addrInfo va)
    else c.enters (c.t.counterFull [4]) .counterFull <| c.readDesc c.t va 80 fun s t d =>
      if copyReserved d then .reservedRead s t
      else match copyMisaligned (copyDesc d) with
        | some x => .trap s t 0x05 (addrInfo x) (.precise c.pc)
        | none => c.performs s t fun t => c.queueCopy s t (c.S b).toNat false d

def execChain (a : BitVec 7) (s : State) : Host.Outcome State Fault Refusal :=
  s.issue (.chain a) (.front 1) fun c =>
    let va := (c.S a).toNat % 2 ^ 57
    if va % 16 ≠ 0 then c.precise 0x05 (addrInfo va)
    else c.enters (c.t.counterFull [5]) .counterFull <| c.readDesc c.t va 64 fun s t d =>
      if chainReserved d then .reservedRead s t
      else match chainMisaligned (chainDesc d) with
        | some x => .trap s t 0x05 (addrInfo x) (.precise c.pc)
        | none => c.performs s t fun t => c.queueCopy s t 4 true d

/-! The steps of an operation (R207, R208, R210). -/

/-- Element i of a copy. -/
def State.copyElem (s : State) (id serial : Nat) (c : CopyDesc) (i : Nat) : State × Except QStop Nat :=
  let put := fun (s : State) (bs : List Byte) => match s.qWrite id serial (c.dstOf i % 2 ^ 57) bs with
    | (s, .ok _) => (s, .ok 0)
    | (s, .error e) => (s, .error e)
  match c.srcOf i with
  | none => put s c.pad
  | some va => match s.qRead id serial va c.b with
    | (s, .ok bs) => put s bs
    | (s, .error e) => (s, .error e)

/-- Element i of a chain, with its flags. -/
def State.chainAt (s : State) (id serial : Nat) (c : ChainDesc) (i : Nat) : State × Except QStop Nat :=
  let bs := c.st.width / 8
  let bd := c.dt.width / 8
  match s.qRead id serial ((c.src + i * bs) % 2 ^ 57) bs with
  | (s, .error e) => (s, .error e)
  | (s, .ok x) =>
    let y := chainElem c (ofBytes x)
    match s.qWrite id serial ((c.dst + i * bd) % 2 ^ 57) (toBytes bd y.1) with
    | (s, .ok _) => (s, .ok y.2)
    | (s, .error e) => (s, .error e)

/-- Elements from i on, in order, until one stops: the state, the next element, the flags, the stop. -/
def runElements (f : State → Nat → State × Except QStop Nat) : Nat → State → Nat → Nat → State × Nat × Nat × Option QStop
  | 0, s, i, fl => (s, i, fl, none)
  | n + 1, s, i, fl =>
    match f s i with
    | (s, .ok x) => runElements f n s (i + 1) (fl ||| x)
    | (s, .error e) => (s, i, fl, some e)

/-- The number of elements of an operation. -/
def CopyOp.count (o : CopyOp) : Nat := if o.chain then (chainDesc o.desc).n else (copyDesc o.desc).count

def CopyOp.step (o : CopyOp) (id : Nat) (s : State) (i : Nat) : State × Except QStop Nat :=
  if o.chain then s.chainAt id o.serial (chainDesc o.desc) i else s.copyElem id o.serial (copyDesc o.desc) i

/-- The operation at the head of a copy queue. -/
def Team.headCopy (t : Team) (q : Nat) : Option CopyOp := t.eng.copies.find? (·.q == q)

def Team.setCopy (t : Team) (o : CopyOp) : Team :=
  { t with eng.copies := t.eng.copies.map fun x => if x.serial = o.serial then o else x }

def Team.dropCopy (t : Team) (serial : Nat) : Team := { t with eng.copies := t.eng.copies.filter (·.serial != serial) }

/-- The counter of a copy or chain falls. -/
def Team.copyReturns (t : Team) (serial : Nat) : Team :=
  Team.settleFlights { t with
    iss.flights := t.iss.flights.map fun (f : Flight) => if f.kind = .copy serial then { f with done := true } else f }

/-- Asking for a page on behalf of a queue (R208). -/
def State.queuePage (s : State) (t : Team) (va : Nat) : State := s.askPage t.const.vi t.const.asid va true

/-- Whether the copy engine of a team's core is awake (R356). -/
def State.unitAwake (s : State) (t : Team) (u : CoreUnit) : Bool :=
  match s.unitNow t u with
  | .awake _ => true
  | .waking _ _ => false
  | .down => false

/-- A team and the operation that may run at the head of its queue. -/
def State.copyReady (s : State) (id q : Nat) : Option (Team × CopyOp) :=
  match s.team? id with
  | none => none
  | some t =>
    match t.headCopy q with
    | none => none
    | some o => if !o.written && o.page.isNone && !t.fenceHolds q o.serial && s.unitAwake t .copy then some (t, o) else none

/-- A queued copy or chain starts, and runs as far as it can. DEDUCED (log 3). -/
def execCopyOpStart (team q : Nat) (s : State) : Host.Outcome State Fault Refusal :=
  match s.copyReady team q with
  | none => .refused (.notEnabled "COPY_OP_START")
  | some (_, o) =>
    let (s, i, fl, stop) := runElements (o.step team) (o.count - o.pos) s o.pos o.flags.toNat
    match s.team? team with
    | none => .next s
    | some t =>
      let o := { o with pos := i, flags := BitVec.ofNat 5 fl }
      match stop with
      | none =>
        let s := s.qFinish team o.serial
        .next (s.setTeam (t.setCopy { o with written := !s.qForming team o.serial }))
      | some .wait => .next (s.setTeam (t.setCopy o))
      | some (.page va) => .next ((s.setTeam (t.setCopy { o with page := some (BitVec.ofNat 64 va) })).queuePage t va)
      | some (.error cause info) => .next ((s.setTeam (t.setCopy o)).failOp team q o.serial cause info)

/-- The head of a queue, when every byte is written and acknowledged. -/
def State.copyWritten (s : State) (id q : Nat) : Option (Team × CopyOp) :=
  match s.team? id with
  | none => none
  | some t =>
    match t.headCopy q with
    | none => none
    | some o => if o.written && !s.qBusy id o.serial then some (t, o) else none

def CopyOp.credits (o : CopyOp) : Bool := !o.chain && (copyDesc o.desc).credit

/-- Every written byte has registered: path 4 falls; an operation with a credit to make stays for it. -/
def execCopyComplete (team q : Nat) (s : State) : Host.Outcome State Fault Refusal :=
  match s.copyWritten team q with
  | some (t, o) =>
    if o.chain || o.fallen || (o.credits && decide (o.count = 0)) then .refused (.notEnabled "COPY_COMPLETE")
    else
      let t := t.copyReturns o.serial
      .next ((s.touchUnit t .copy).setTeam (if o.credits then t.setCopy { o with fallen := true } else t.dropCopy o.serial))
  | none => .refused (.notEnabled "COPY_COMPLETE")

/-- The request for a credit that an operation has outstanding. -/
def State.creditReq (s : State) (id serial : Nat) (c : CopyDesc) : Option RemoteOut :=
  s.pod.reqs.find? fun r => r.team == id && r.use == .queue serial && r.kind == .barrier (.credit c.bytes)

/-- What the credit comes to at the barrier object (R202); one that has been sent waits for its answer, whatever has become of
its member (R351). -/
def State.creditAt (s : State) (id serial : Nat) (c : CopyDesc) : State × Except QStop Unit :=
  let ask := fun (s : State) (d : BitVec 10) (pa : Nat) =>
    match s.qAsk id serial d pa c.bara c.bara (.barrier (.credit c.bytes)) with
    | (s, .ok _) => (s.endRequests id serial fun _ => true, .ok ())
    | (s, .error e) => (s, .error e)
  match s.creditReq id serial c, s.team? id with
  | some r, some _ => ask s r.dev r.pa
  | _, none => (s, .error .wait)
  | none, some t =>
    match s.qPlace t c.bara 16 c.bara needRW with
    | (s, .error e) => (s, .error e)
    | (s, .ok (.remote d pa)) => ask s d pa
    | (s, .ok p) =>
      let pa := match p with | .home pa => pa | .scratch _ _ pa => pa | .remote _ pa => pa
      if s.poisoned t.coreId pa 16 true then (s, .error (.error 0x0A (poisonInfo c.bara)))
      else match barWrite (.credit c.bytes) (s.mem.bytes pa 16) with
        | some bs => ((s.register none false ((List.range 16).zip bs |>.map fun (i, b) => (pa + i, b))).markDirty p 16, .ok ())
        | none => (s, .ok ())

/-- Whether the credit of the head of a queue is due. -/
def State.creditDue (s : State) (id q : Nat) : Option (Team × CopyOp) :=
  match s.team? id with
  | none => none
  | some t =>
    match t.headCopy q with
    | none => none
    | some o => if o.credits && o.page.isNone && (o.fallen || (o.written && decide (o.count = 0))) then some (t, o) else none

/-- The credit of a copy (R202). -/
def execCopyCredit (team q : Nat) (s : State) : Host.Outcome State Fault Refusal :=
  match s.creditDue team q with
  | none => .refused (.notEnabled "COPY_CREDIT")
  | some (_, o) =>
    let (s, r) := s.creditAt team o.serial (copyDesc o.desc)
    match s.team? team with
    | none => .next s
    | some t =>
      match r with
      | .ok _ => .next ((s.touchUnit t .copy).setTeam ((t.copyReturns o.serial).dropCopy o.serial))
      | .error .wait => .next s
      | .error (.page va) => .next ((s.setTeam (t.setCopy { o with page := some (BitVec.ofNat 64 va) })).queuePage t va)
      | .error (.error cause info) => .next (s.failOp team q o.serial cause info)

/-- A chain completes: its flags go to TFLAGS and path 5 falls (R210). -/
def execChainComplete (team : Nat) (s : State) : Host.Outcome State Fault Refusal :=
  match s.copyWritten team 4 with
  | some (t, o) => .next ((s.touchUnit t .copy).setTeam (((t.setFlags o.flags.toNat).copyReturns o.serial).dropCopy o.serial))
  | none => .refused (.notEnabled "CHAIN_COMPLETE")

end Sys2Proof.Machine
end

