-- ==== Sys2Proof/Machine/EngineMath.lean ====
section
/-! DEFINITION. The arithmetic of the matrix engine: operand descriptors (R215, R216), block elements (R65 to R68),
dense products (R74, R222), table builds (R75) and lookups (R76). -/

namespace Sys2Proof.Machine

/-! Operand descriptors (R215). -/

structure OpDesc where
  base   : Nat
  hdr    : Nat
  pitch  : Int
  hpitch : Int
  rows   : Nat
  cols   : Nat
  kg0    : Nat
  kgn    : Nat
  lay    : Nat
  deriving DecidableEq, Repr

def opDesc (d : List Byte) : OpDesc :=
  { base := leField d 0 8, hdr := leField d 8 8, pitch := signedOf' (leField d 16 4), hpitch := signedOf' (leField d 20 4),
    rows := leField d 24 2, cols := leField d 26 2, kg0 := leField d 28 2, kgn := leField d 30 1, lay := leField d 31 1 }
where
  /-- A signed 32-bit field. -/
  signedOf' (x : Nat) : Int := if 2 ^ 31 ≤ x then (x : Int) - (2 ^ 32 : Nat) else x

def ElemType.isBlock : ElemType → Bool | .bx8 | .bx4 => true | _ => false

namespace OpDesc

/-- The reserved uses that do not depend on the format (R216, R219). -/
def reservedBase (d : OpDesc) : Bool :=
  decide (2 ^ 57 ≤ d.base) || decide (2 ^ 57 ≤ d.hdr) || decide (6 ≤ d.lay) || d.rows == 0 || d.cols == 0 || d.kgn == 0

/-- The reserved uses of a descriptor under a format (R216). -/
def reserved (d : OpDesc) (t : ElemType) : Bool :=
  d.reservedBase ||
  (if ElemType.isBlock t then d.lay != 0 || d.kg0 % 4 != 0 || d.kgn % 4 != 0 || d.hdr % 2 != 0 || d.hpitch % 2 != 0
   else d.hdr != 0 || d.hpitch != 0)

/-- Whether the misalignment trap is raised at issue (R216). -/
def misaligned (d : OpDesc) (t : ElemType) : Bool :=
  let b := if ElemType.isBlock t then 16 else t.width / 8
  d.base % b != 0 || d.pitch % (b : Int) != 0 || !layoutAligned d.lay d.base d.pitch

/-- The address of stored element (i, j). -/
def elemAt (d : OpDesc) (t : ElemType) (i j : Nat) : Nat :=
  match t with
  | .bx8 => (((d.base : Int) + i * d.pitch + j) % ((2 ^ 57 : Nat) : Int)).toNat
  | .bx4 => (((d.base : Int) + i * d.pitch + (j / 2 : Nat)) % ((2 ^ 57 : Nat) : Int)).toNat
  | _ => layoutAddr d.lay d.base d.pitch (t.width / 8) d.rows d.cols 0 i j % 2 ^ 57

/-- The address of the header of its block. -/
def headerAt (d : OpDesc) (i j : Nat) : Nat := (((d.hdr : Int) + i * d.hpitch + (2 * (j / 32) : Nat)) % ((2 ^ 57 : Nat) : Int)).toNat

/-- A vacant position: operand position k at stored index (i, j). DEDUCED (log 58). -/
def vacant (d : OpDesc) (k i j : Nat) : Bool := decide (8 * d.kgn ≤ k) || decide (d.rows ≤ i) || decide (d.cols ≤ j)

/-- The byte ranges that the element at (i, j) needs. -/
def needs (d : OpDesc) (t : ElemType) (i j : Nat) : List (Nat × Nat) :=
  (d.elemAt t i j, max 1 (t.width / 8)) :: (if ElemType.isBlock t then [(d.headerAt i j, 2)] else [])

end OpDesc

/-! Fetched bytes. -/

abbrev Lines := List (Nat × List Byte)

/-- A byte of the fetched lines; zero where the line is not there. -/
def lineByte (ls : Lines) (va : Nat) : Byte := ((lookupKey (va / 128 * 128) ls).getD []).getD (va % 128) 0
def lineNum (ls : Lines) (va n : Nat) : Nat := ofBytes ((List.range n).map fun i => lineByte ls (va + i))

/-- A value, and whether it is a reserved block element or header (R66, R68). -/
def blockBx8 (e0 e1 x : Nat) : FVal × Bool :=
  let e := if 128 ≤ x then e1 else e0
  let m := x % 64
  let neg := decide (x / 64 % 2 = 1)
  if e0 = 255 ∨ e1 = 255 ∨ (neg ∧ m = 0) then (.nan, true) else (.fin neg m ((e : Int) - 132), false)

/-- The stored element (i, j) as a value. -/
def OpDesc.value (d : OpDesc) (t : ElemType) (ls : Lines) (i j : Nat) : FVal × Bool :=
  match t with
  | .bx8 => blockBx8 (lineNum ls (d.headerAt i j) 1) (lineNum ls (d.headerAt i j + 1) 1) (lineNum ls (d.elemAt t i j) 1)
  | _ => match t.fmt with
    | some f => (f.decode (lineNum ls (d.elemAt t i j) f.w), false)
    | none => (.nan, false)

/-! Dense products (R74, R222). -/

/-- What an MX.MMA works on: its operands with their types and orders, and K. -/
structure Mma where
  a  : OpDesc
  b  : OpDesc
  ta : ElemType
  tb : ElemType
  at_ : Bool
  bt : Bool
  acc : Bool
  deriving DecidableEq, Repr

namespace Mma

/-- K (R222). -/
def k (o : Mma) : Nat := if decide (9 ≤ o.ta.code.toNat) && decide (9 ≤ o.tb.code.toNat) then 128 else 64

/-- The stored index of A(m, k) and of B(k, n). -/
def aIdx (o : Mma) (m k : Nat) : Nat × Nat := if o.at_ then (8 * o.a.kg0 + k, m) else (m, 8 * o.a.kg0 + k)
def bIdx (o : Mma) (k n : Nat) : Nat × Nat := if o.bt then (n, 8 * o.b.kg0 + k) else (8 * o.b.kg0 + k, n)

def aVacant (o : Mma) (m k : Nat) : Bool := o.a.vacant k (o.aIdx m k).1 (o.aIdx m k).2
def bVacant (o : Mma) (k n : Nat) : Bool := o.b.vacant k (o.bIdx k n).1 (o.bIdx k n).2

/-- Steps of the loop nest of R230: depth, row block, column block. -/
def steps (o : Mma) : Nat := o.k / 16 * 16

end Mma

/-- The depths of a block (row, column) that are done when `step` steps are: of `blocks` blocks per depth. -/
def depthsDone (blocks idx step : Nat) : Nat := (step + blocks - 1 - idx) / blocks

/-- The operand at a position, and whether it is a reserved element; a vacant position takes the value 0 (R222). -/
def Mma.aVal (o : Mma) (la : Lines) (m k : Nat) : FVal × Bool :=
  if o.aVacant m k then (.fin false 0 0, false) else o.a.value o.ta la (o.aIdx m k).1 (o.aIdx m k).2
def Mma.bVal (o : Mma) (lb : Lines) (k n : Nat) : FVal × Bool :=
  if o.bVacant k n then (.fin false 0 0, false) else o.b.value o.tb lb (o.bIdx k n).1 (o.bIdx k n).2

/-- Whether no operand of a position is vacant: a vacant position counts as a +0 product, whatever stands opposite (R74). -/
def Mma.meets (o : Mma) (m k n : Nat) : Bool := !o.aVacant m k && !o.bVacant k n

/-- The product at a position: none for 0 times infinity. -/
def Mma.prod (o : Mma) (a b : FVal) (m k n : Nat) : Option FVal := if o.meets m k n then a.mul b else some (.fin false 0 0)

/-- One 16-K group added into an output (R74): the accumulator, the flags of rounding, and whether an invalid case
and a reserved element met; such an element is read and sets invalid opposite a vacant position too (R217). -/
def mmaGroup (o : Mma) (la lb : Lines) (m n q : Nat) (acc : Nat) : Nat × Nat × Bool × Bool :=
  let ks := (List.range 16).map (16 * q + ·)
  let bad := ks.any fun k => (o.aVal la m k).2 || (o.bVal lb k n).2
  let prods := ks.map fun k => o.prod (o.aVal la m k).1 (o.bVal lb k n).1 m k n
  if prods.any Option.isNone then (fp32.nan, 0, true, bad)
  else match sumExact .rne (prods.filterMap id) with
    | none => (fp32.nan, 0, true, bad)
    | some s => match sumExact .rne [fp32.decode acc, s] with
      | none => (fp32.nan, 0, true, bad)
      | some v => let r := fp32.round rne v; (r.1, r.2, false, bad)

/-- Groups from depth d on, n of them. -/
def mmaGroups (o : Mma) (la lb : Lines) (m n : Nat) : Nat → Nat → Nat → Nat × Nat × Bool × Bool
  | 0, _, acc => (acc, 0, false, false)
  | k + 1, d, acc =>
    let x := mmaGroup o la lb m n d acc
    let y := mmaGroups o la lb m n k (d + 1) x.1
    (y.1, x.2.1 ||| y.2.1, x.2.2.1 || y.2.2.1, x.2.2.2 || y.2.2.2)

/-- Whether a NaN stands among the operands of an output element over some depths. -/
def mmaNan (o : Mma) (la lb : Lines) (m n d0 d1 : Nat) : Bool :=
  (List.range (16 * (d1 - d0))).any fun j =>
    let k := 16 * d0 + j
    o.meets m k n && ((o.aVal la m k).1.isNan || (o.bVal lb k n).1.isNan)

/-- What an output element of a dense product comes to between two step boundaries: its value, its flags but for an invalid
case, whether it met such a case, and whether a NaN operand (R74). `met` tells that an earlier part met an invalid case: the NaN
that the output then holds is no operand. DESIGN CHOICE (log 77). -/
def mmaElem (o : Mma) (la lb : Lines) (from_ upto m n c : Nat) (met : Bool) : Nat × Nat × Bool × Bool :=
  let idx := 4 * (m / 16) + n / 16
  let d0 := depthsDone 16 idx from_
  let d1 := depthsDone 16 idx upto
  let acc := if o.acc || decide (0 < d0) then c else 0
  let r := mmaGroups o la lb m n (d1 - d0) d0 acc
  if d1 = d0 then (c, 0, false, false)
  else (r.1, r.2.1 ||| (if r.2.2.2 then fInvalid else 0), r.2.2.1, (!met && (fp32.decode acc).isNan) || mmaNan o la lb m n d0 d1)

/-- A dense product between two step boundaries over tile t: the tiles, the flags, the outputs that have met an invalid case
and a NaN operand. `pend` are the outputs that have met an invalid case in an earlier part. -/
def mmaRun (o : Mma) (la lb : Lines) (from_ upto t : Nat) (c : Sparse 32) (pend : List Nat) :
    Sparse 32 × Nat × List Nat × List Nat :=
  let xs := (List.range 4096).map fun i =>
    (i, mmaElem o la lb from_ upto (i / 64) (i % 64) (c.get (4096 * t + i)).toNat (pend.contains i))
  (c.setAll (xs.map fun x => (4096 * t + x.1, BitVec.ofNat 32 x.2.1)), xs.foldl (fun acc x => acc ||| x.2.2.1) 0,
    (xs.filter fun x => x.2.2.2.1).map (·.1), (xs.filter fun x => x.2.2.2.2).map (·.1))

/-- The bytes that the operands of some steps need: of A, or of B. -/
def Mma.needsA (o : Mma) (from_ upto : Nat) : List (Nat × Nat) :=
  ((List.range (upto - from_)).flatMap fun i =>
    let s := from_ + i
    (List.range 256).flatMap fun j =>
      let m := s / 4 % 4 * 16 + j / 16
      let k := s / 16 * 16 + j % 16
      if o.aVacant m k then [] else o.a.needs o.ta (o.aIdx m k).1 (o.aIdx m k).2).eraseDups
def Mma.needsB (o : Mma) (from_ upto : Nat) : List (Nat × Nat) :=
  ((List.range (upto - from_)).flatMap fun i =>
    let s := from_ + i
    (List.range 256).flatMap fun j =>
      let n := s % 4 * 16 + j / 16
      let k := s / 16 * 16 + j % 16
      if o.bVacant k n then [] else o.b.needs o.tb (o.bIdx k n).1 (o.bIdx k n).2).eraseDups

/-! Tables (R75). -/

/-- An entry of a table: the signed sum of eight activations in FP32, with flags. DESIGN CHOICE (log 68). -/
def buildEntry (as : List FVal) (s : Nat) : Nat × Nat :=
  let term := fun (j : Nat) => let a := as.getD j (.fin false 0 0); if s / 2 ^ j % 2 = 1 then a.neg else a
  (List.range 7).foldl (fun acc j =>
    let r := fp32.roundI rne (sumProducts .rne [] [fp32.decode acc.1, term (j + 1)])
    (r.1, acc.2 ||| r.2)) ((fp32.round rne (term 0)).1, 0)

/-- The table of a built activation tile, at the keys of R233, and its flags. -/
def buildTable (d : OpDesc) (t : ElemType) (ls : Lines) : Sparse 32 × Nat :=
  let xs := (List.range d.rows).flatMap fun m => (List.range d.kgn).flatMap fun g =>
    let as := (List.range 8).map fun j =>
      let col := 8 * (d.kg0 + g) + j
      if d.cols ≤ col then FVal.fin false 0 0 else (d.value t ls m col).1
    (List.range 128).map fun s => let r := buildEntry as s; ((8 * m + g) * 128 + s, r.1, r.2)
  (Sparse.setAll [] (xs.map fun x => (x.1, BitVec.ofNat 32 x.2.1)), xs.foldl (fun acc x => acc ||| x.2.2) 0)

/-- The bytes that a build reads. -/
def buildNeeds (d : OpDesc) (t : ElemType) : List (Nat × Nat) :=
  ((List.range d.rows).flatMap fun m => (List.range (8 * d.kgn)).flatMap fun j =>
    let col := 8 * d.kg0 + j
    if d.cols ≤ col then [] else d.needs t m col).eraseDups

/-- The watch range of a build: its first byte and length, on 16-byte boundaries (R235). -/
def watchRange (d : OpDesc) (t : ElemType) : Nat × Nat :=
  let as := (List.range d.rows).flatMap fun m => (List.range (8 * d.kgn)).map fun j => d.elemAt t m (8 * d.kg0 + j)
  let lo := as.foldl min (as.headD 0) / 16 * 16
  let hi := (as.foldl max 0 + t.width / 8 + 15) / 16 * 16
  (lo, hi - lo)

/-! Lookups (R76). -/

/-- Look(T, s). -/
def look (tab : Sparse 32) (m g s : Nat) : FVal :=
  let at_ := fun (i : Nat) => fp32.decode (tab.get ((8 * m + g) * 128 + i)).toNat
  if s < 128 then at_ s else (at_ (255 - s)).neg

/-- 2^i times a value. -/
def scaled (i : Int) : FVal → FVal | .fin n m e => .fin n m (e + i) | v => v

/-- The weight nibble of stored row n, column j. -/
def weightAt (d : OpDesc) (ls : Lines) (n j : Nat) : Nat :=
  let b := lineNum ls (d.elemAt .bx4 n j) 1
  if j % 2 = 0 then b % 16 else b / 16

/-- One k-group of 8 added into the partial sums A and B (R76). -/
def kmmaGroup (tab : Sparse 32) (d : OpDesc) (ls : Lines) (m n kg : Nat) (ab : Nat × Nat) : (Nat × Nat) × Nat :=
  let w := (List.range 8).map fun j => weightAt d ls n (8 * (d.kg0 + kg) + j)
  let q := (List.range 8).foldl (fun acc j => acc + 2 ^ j * (w.getD j 0 / 8)) 0
  (List.range 3).foldl (fun (acc : (Nat × Nat) × Nat) (i : Nat) =>
    let u := (List.range 8).foldl (fun s j => s + 2 ^ j * (1 - w.getD j 0 / 2 ^ i % 2)) 0
    let add := fun (x s : Nat) => fp32.roundI rne (sumProducts .rne [] [fp32.decode x, scaled (i : Int) (look tab m kg s)])
    let a := add acc.1.1 u
    let b := add acc.1.2 (u ^^^ q)
    ((a.1, b.1), acc.2 ||| a.2 ||| b.2)) (ab, 0)

/-- The end of a weight block: out with the two sums (R76). -/
def kmmaBlock (d : OpDesc) (ls : Lines) (n b : Nat) (ab : Nat × Nat) (out : Nat) : Nat × Nat :=
  let h := d.headerAt n (8 * d.kg0 + 32 * b)
  let e0 := lineNum ls h 1
  let e1 := lineNum ls (h + 1) 1
  if e0 = 255 ∨ e1 = 255 then (fp32.nan, fInvalid)
  else
    let p := fun (e : Nat) => FVal.fin false 1 ((e : Int) - 131)
    let al := fp32.roundI rne (sumProducts .rne [] [p e0, p e1])
    let be := fp32.roundI rne (sumProducts .rne [] [p e0, (p e1).neg])
    let x := fp32.roundI rne (sumProducts .rne [(fp32.decode al.1, fp32.decode ab.1)] [fp32.decode out])
    let y := fp32.roundI rne (sumProducts .rne [(fp32.decode be.1, fp32.decode ab.2)] [fp32.decode x.1])
    (y.1, al.2 ||| be.2 ||| x.2 ||| y.2)

/-- The k-groups of one output from depth d on, n of them: out, the partial sums, the flags. -/
def kmmaGroups (tab : Sparse 32) (w : OpDesc) (ls : Lines) (m n : Nat) : Nat → Nat → Nat → Nat × Nat → Nat × (Nat × Nat) × Nat
  | 0, _, out, ab => (out, ab, 0)
  | k + 1, d, out, ab =>
    let ab := if d % 4 = 0 then (0, 0) else ab
    let x := kmmaGroup tab w ls m n d ab
    let y := if d % 4 = 3 then kmmaBlock w ls n (d / 4) x.1 out else (out, 0)
    let z := kmmaGroups tab w ls m n k (d + 1) y.1 x.1
    (z.1, z.2.1, x.2 ||| y.2 ||| z.2.2)

/-- A lookup product between two step boundaries: tile, partial sums, flags. -/
def kmmaRun (tab : Sparse 32) (w : OpDesc) (ls : Lines) (acc : Bool) (from_ upto base : Nat) (c parts : Sparse 32) :
    Sparse 32 × Sparse 32 × Nat :=
  let xs := (List.range 2048).map fun i =>
    let m := i / 64
    let n := i % 64
    let idx := 4 * (m / 16) + n / 16
    let d0 := depthsDone 8 idx from_
    let d1 := depthsDone 8 idx upto
    let out := if acc || decide (4 ≤ d0) then (c.get (base + i)).toNat else 0
    if n < w.rows ∧ d0 < d1 then
      let r := kmmaGroups tab w ls m n (d1 - d0) d0 out ((parts.get i).toNat, (parts.get (2048 + i)).toNat)
      (i, (if d1 / 4 = d0 / 4 then (c.get (base + i)).toNat else r.1), r.2.1, r.2.2)
    else (i, (c.get (base + i)).toNat, ((parts.get i).toNat, (parts.get (2048 + i)).toNat), 0)
  (c.setAll (xs.map fun x => (base + x.1, BitVec.ofNat 32 x.2.1)),
   parts.setAll (xs.flatMap fun x => [(x.1, BitVec.ofNat 32 x.2.2.1.1), (2048 + x.1, BitVec.ofNat 32 x.2.2.1.2)]),
   xs.foldl (fun f x => f ||| x.2.2.2) 0)

/-- The bytes that the weights of some steps need. -/
def kmmaNeeds (w : OpDesc) (from_ upto : Nat) : List (Nat × Nat) :=
  ((List.range (upto - from_)).flatMap fun i =>
    let s := from_ + i
    (List.range 16).flatMap fun j =>
      let n := s % 4 * 16 + j
      if w.rows ≤ n then [] else (List.range 8).flatMap fun e => w.needs .bx4 n (8 * (w.kg0 + s / 8) + e)).eraseDups

end Sys2Proof.Machine
end

