-- ==== Sys2Proof/Machine/Engine.lean ====
section
/-! DEFINITION. MX and TBL instructions at issue (R211 to R239). -/

namespace Sys2Proof.Machine

/-! Format slots (R69, R70). -/

/-- Whether a slot is legal for a use: its fixed fields, and the types that the use accepts. -/
def slotLegal (q : QWord) (a b : Nat → Bool) : Bool :=
  decide (field q 43 85 = 0) && decide (field q 32 8 = 127) && decide (field q 24 8 = 5) && decide (field q 16 8 = 6) &&
    decide (field q 0 8 ≤ 12) && decide (field q 8 8 ≤ 12) && a (field q 0 8) && b (field q 8 8)

def denseType (x : Nat) : Bool := decide (7 ≤ x) && decide (x ≤ 11)
def anyType (_ : Nat) : Bool := true

/-! Queues (R211). -/

def Team.setQ (t : Team) (q : EngineQueue) (os : List EngineOp) : Team :=
  match q with
  | .q5 => { t with eng.q5 := os }
  | .q6 => { t with eng.q6 := os }

def Team.getQ (t : Team) : EngineQueue → List EngineOp
  | .q5 => t.eng.q5
  | .q6 => t.eng.q6

/-- An operation as it is captured at issue (R212). -/
def Ctx.newOp (_ : Ctx) (t : Team) (i : Instr) : EngineOp :=
  { serial := t.eng.next, op := i, word := (encode i).getD 0, mode := t.mode, gang := t.regs.gang, adesc := [], bdesc := [],
    batch := t.eng.opened, late := false, asked := false, started := false, step := 0, partials := [], pv := false, flags := 0, lines := [],
    stream := none, page := none, suspended := none, paused := false, alone := false, joint := none, kept := none, pend := [],
    nans := [], begun := 0, addr := 0, pitch := 0 }

/-- Queuing an operation, logged at issue. -/
def Ctx.enqueue (c : Ctx) (s : State) (t : Team) (q : EngineQueue) (o : EngineOp) (kreg : Option Nat := none) : Effect :=
  let t := (t.setQ q (t.getQ q ++ [o])).record c.fi [] o.serial kreg
  .next (s.useUnit t .matrix 0).1 { t with eng.next := o.serial + 1 }

/-- An engine operation stalls while its queue is full (R211). -/
def Ctx.intoQueue (c : Ctx) (q : EngineQueue) (k : Effect) : Effect := c.enters (decide (32 ≤ (c.t.getQ q).length)) .queueFull k

/-- An operation that reads no descriptor. -/
def Ctx.queued (c : Ctx) (q : EngineQueue) (k : Team → Effect) : Effect := c.intoQueue q (c.performs c.s c.t k)

/-! Streams (R218 to R220). -/

def TeamConst.placeNo (k : TeamConst) : Nat := (k.z * k.ey + k.y) * k.ex + k.x

/-- The open stream of a number at a team's place. -/
def State.stream? (s : State) (t : Team) (n : Nat) : Option Stream :=
  (s.clusters[t.sched.cluster]?).bind fun c =>
    c.streams.find? fun x => !x.closed && x.launch == t.const.launch && x.place == t.const.placeNo && x.num == n

def State.mapCluster (s : State) (n : Nat) (f : Cluster → Cluster) : State :=
  match s.clusters[n]? with
  | some c => { s with clusters := setAt s.clusters n (f c) }
  | none => s

/-- Tile t of a stream: its operand descriptor (R219). -/
def streamTile (d : List Byte) (t : Nat) : List Byte :=
  let step := fun (off : Nat) (x : Int) => toBytes 8 ((((leField d off 8 : Nat) : Int) + t * x) % ((2 ^ 57 : Nat) : Int)).toNat
  step 0 (leInt d 36) ++ step 8 (leInt d 40) ++ (d.drop 16).take 16

def streamCount (d : List Byte) : Nat := leField d 32 4
def streamSubs (d : List Byte) : Nat := leField d 44 4

/-- What S[B] names: a descriptor, a stream, or neither (R220). -/
inductive BOperand where
  | desc (va : Nat)
  | stream (n : Nat)
  | bad
  deriving DecidableEq, Repr

def streamBase : Nat := 0xF000000000000000

def bOperand (x : DWord) : BOperand :=
  if x.toNat < 2 ^ 57 then .desc x.toNat
  else if streamBase ≤ x.toNat ∧ x.toNat < streamBase + 16 then .stream (x.toNat - streamBase) else .bad

def isStream (x : DWord) : Bool := match bOperand x with | .stream _ => true | _ => false

/-- The subscription of a team to a stream: window and count. -/
def Team.sub? (t : Team) (n : Nat) : Option (Nat × Nat) := (t.eng.subs.find? (·.1 == n)).map (·.2)

def Team.setSub (t : Team) (n w c : Nat) : Team :=
  { t with eng.subs := t.eng.subs.filter (·.1 != n) ++ [(n, w, c)] }

/-- Whether S[B] names a stream from which the team can take no tile (R220). -/
def Ctx.streamBad (c : Ctx) (x : DWord) : Bool :=
  match bOperand x with
  | .bad => true
  | .desc _ => false
  | .stream n => match c.t.sub? n, c.s.stream? c.t n with
    | some (_, cnt), some st => decide (streamCount st.desc ≤ cnt)
    | _, _ => true

/-- The descriptor that S[B] names, to be read at issue. -/
def bDescs (x : DWord) : List (Nat × Nat) := match bOperand x with | .desc va => [(va, 32)] | _ => []

/-- The identity of a stream that opens: none that a stream of its cluster has. -/
def Cluster.freshStream (c : Cluster) : Nat := c.streams.foldl (fun n x => max n (x.id + 1)) 0

/-- Closing the streams of a cluster (R220): one whose subscriptions have all consumed every tile, once as many teams as it expects
have subscribed, one whose subscriptions have all ended, and one whose place has no team any more. A closed stream takes no further
part, but for the tiles that operations have taken and still need. DEDUCED (log 33). -/
def State.closeStreams (s : State) (cluster : Nat) : State :=
  match s.clusters[cluster]? with
  | none => s
  | some c =>
    let here := fun (st : Stream) => s.teams.filter fun u =>
      u.const.launch == st.launch && u.const.placeNo == st.place && u.sched.life != .retired
    let ended := fun (st : Stream) =>
      let subs := (here st).filterMap fun u => (u.sub? st.num).map (·.2)
      (here st).isEmpty || (decide (0 < st.joined) && subs.isEmpty) ||
        (decide (streamSubs st.desc ≤ st.joined) && subs.all fun k => decide (streamCount st.desc ≤ k))
    let gone := c.streams.filter fun st => !st.closed && ended st
    let taken := fun (st : Stream) => s.teams.any fun u => u.eng.q5.any fun o => o.stream.any (·.1 == st.id)
    let streams := c.streams.map fun st => { st with closed := st.closed || ended st }
    { s with
      clusters := setAt s.clusters cluster { c with streams := streams.filter fun st => !st.closed || taken st },
      teams := s.teams.map fun (u : Team) => { u with eng.subs := u.eng.subs.filter fun x =>
        !(gone.any fun st => u.const.launch == st.launch && u.const.placeNo == st.place && x.1 == st.num) } }

/-- A team's subscriptions as the state now has them: a stream that has closed has ended them. -/
def State.resubs (s : State) (t : Team) : Team := (s.team? t.id).elim t fun u => { t with eng.subs := u.eng.subs }

/-- The B operand of an operation: its descriptor, as read or as the stream's tile gives it; the stream and tile; what consumes
the tile. None for a reserved use. -/
def Ctx.bSource (_ : Ctx) (s : State) (t : Team) (x : DWord) (d : List Byte) :
    Option (List Byte × Option (Nat × Nat) × (Team → Team)) :=
  match bOperand x with
  | .bad => none
  | .desc _ => some (d, none, id)
  | .stream n =>
    match t.sub? n, s.stream? t n with
    | some (w, cnt), some st => some (streamTile st.desc cnt, some (st.id, cnt), fun t => t.setSub n w (cnt + 1))
    | _, _ => none

/-! Gangs (R224 to R226). -/

def gangN (g : DWord) : Nat := field g 0 3
def gangSlots (g : DWord) : List Nat := (List.range (gangN g)).map fun i => field g (8 + 8 * i) 8

/-- A sibling of a team in a team-table slot of its cluster. -/
def State.siblingAt (s : State) (t : Team) (slot : Nat) : Option Team :=
  s.teams.find? fun u => u.const.launch == t.const.launch && u.const.placeNo == t.const.placeNo &&
    u.sched.slot == slot && u.sched.life != .retired && u.sched.life != .ended

/-- Whether GANG lists live siblings, the team among them. -/
def State.gangOk (s : State) (t : Team) : Bool :=
  let ss := gangSlots t.regs.gang
  ss.contains t.sched.slot && ss.all fun x => (s.siblingAt t x).isSome

def sameSlots (a b : DWord) : Bool :=
  (gangSlots a).all (gangSlots b).contains && (gangSlots b).all (gangSlots a).contains

/-- Whether team u is recorded at the latch and listed in the GANG of team t of its place (R225). -/
def Team.latchedWith (u t : Team) : Bool :=
  u.const.launch == t.const.launch && u.const.placeNo == t.const.placeNo && (gangSlots t.regs.gang).contains u.sched.slot &&
    (match u.iss.withheld with | some (_, .gang _ _ _ _) => true | _ => false)

/-- The gang-mismatch trap of a withheld member. -/
def Team.gangTrap (u : Team) (d : DWord) : Team :=
  match u.iss.withheld with
  | some (fi, _) => u.takeTrap fi 0x0C d (.precise (u.frag fi).pc)
  | none => u

/-- What the issue of an instruction of class 5 takes from the aperture and the class run (R321, R359). -/
def State.chargeIssue (s : State) (t : Team) (weight : Nat) : State :=
  match s.clusters[t.sched.cluster]?, (s.clusters[t.sched.cluster]?).bind (·.cores[t.sched.core]?) with
  | some c, some k =>
    let k := if k.lastClass = 5 then { k with run := k.run + 1 } else { k with lastClass := 5, run := 1 }
    let c := { c with aperture := c.aperture - (weight : Nat), cores := setAt c.cores t.sched.core k }
    { s with clusters := setAt s.clusters t.sched.cluster c }
  | _, _ => s

/-- A latched member issues, with its charge, which its arrival did not take. DEDUCED (log 59). -/
def State.gangIssues (s : State) (t : Team) (weight : Nat) (k : State → Team → State) : State :=
  k (s.chargeIssue t weight) { t with iss.withheld := none, sched.waits := 0, sched.boosted := false }

/-- Recorded members take the gang-mismatch trap. -/
def State.gangTraps (s : State) (weight : Nat) (d : DWord) (ms : List Team) : State :=
  ms.foldl (fun s u => s.gangIssues u weight fun s _ =>
    s.setTeam (({ u with sched.waits := 0, sched.boosted := false } : Team).gangTrap d)) s

/-- The weight of MX.MMA and MX.KMMA (R359). -/
def Power.gangWeight (p : Power) : Nat := field p.aw1 32 16

/-- An operation that may belong to a gang: alone it goes on; a member arrives at the latch, unissued, with the descriptors that it
has read, unless its list is wrong, which traps it and the recorded members. -/
def Ctx.gangGate (c : Ctx) (s : State) (t : Team) (i : Instr) (gang : Bool) (da db : List Byte) (k : Effect) : Effect :=
  if !gang then k
  else match t.logStep c.fi with
  | .wait u => .stall s u .replay
  | _ =>
    if gangN t.regs.gang < 2 ∨ 6 < gangN t.regs.gang then .trap s t 0x0C 2 (.precise c.pc)
    else if s.gangOk t then .hold s t (.gang ((encode i).getD 0) true da db)
    else .trap (s.gangTraps s.pwr.gangWeight 1 (s.teams.filter fun u => u.id != t.id && u.latchedWith t)) t 0x0C 1 (.precise c.pc)

/-! MX.MMA and MX.KMMA (R221, R222, R237). -/

/-- A product enters its queue with its descriptors, B's as read or that of a stream's tile, which it takes; `joint` names the gang
that issues it. -/
def Ctx.takeProduct (c : Ctx) (s : State) (t : Team) (i : Instr) (b : BitVec 6) (da db : List Byte) (joint : Option (Nat × Nat)) :
    Effect :=
  match c.bSource s t (c.S b) db with
  | none => .reservedRead s t
  | some (db, st, consume) => c.performs s t fun t =>
      match c.enqueue s (consume t) .q5 { c.newOp t i with adesc := da, bdesc := db, stream := st, joint := joint } with
      | .next s u => .next ((s.setTeam u).closeStreams u.sched.cluster) (((s.setTeam u).closeStreams u.sched.cluster).resubs u)
      | e => e

/-- MX.MMA at issue: its reserved uses, those of its descriptors included, come before every misalignment (R98).
DESIGN CHOICE (log 69). -/
def Ctx.mma (c : Ctx) (tile sl : BitVec 3) (a b : BitVec 6) (acc gang ta tb : Bool) : Effect :=
  let q := c.t.slot sl
  let i : Instr := .mxMma tile sl a b acc gang ta tb
  let fa := (slotTypeA q).getD .bf16
  let fb := (slotTypeB q).getD .bf16
  let va := (c.S a).toNat % 2 ^ 57
  let aOk := va % 32 == 0
  let bOk := (bDescs (c.S b)).all (·.1 % 32 == 0)
  if !slotLegal q denseType denseType || isStream (c.S a) || bOperand (c.S b) == .bad ||
      (fa == .bx8 && ta) || (fb == .bx8 && !tb) then .reservedUse
  else c.intoQueue .q5 <| if c.streamBad (c.S b) then .reservedUse else
    c.readDescs c.t ((if aOk then [(va, 32)] else []) ++ (if bOk then bDescs (c.S b) else [])) fun s t ds =>
      let da := if aOk then ds.getD 0 [] else []
      let db := ds.getD (if aOk then 1 else 0) []
      match c.bSource s t (c.S b) db with
      | none => .reservedRead s t
      | some (tb', _, _) =>
      let oa := opDesc da
      let ob := opDesc tb'
      if (aOk && oa.reserved fa) || (bOk && ob.reserved fb) then .reservedRead s t
      else if !aOk then .trap s t 0x05 (addrInfo va) (.precise c.pc)
      else if !bOk then .trap s t 0x05 (addrInfo (c.S b).toNat) (.precise c.pc)
      else if oa.misaligned fa then .trap s t 0x05 (addrInfo oa.base) (.precise c.pc)
      else if ob.misaligned fb then .trap s t 0x05 (addrInfo ob.base) (.precise c.pc)
      else c.gangGate s t i gang da db <| c.takeProduct s t i b da db none

/-- MX.KMMA at issue. DESIGN CHOICE (log 69). -/
def Ctx.kmma (c : Ctx) (tile sl : BitVec 3) (a b : BitVec 6) (acc gang hi : Bool) : Effect :=
  let i : Instr := .mxKmma tile sl a b acc gang hi
  if !slotLegal (c.t.slot sl) anyType (· == 12) || bOperand (c.S b) == .bad then .reservedUse
  else c.intoQueue .q5 <| if c.streamBad (c.S b) then .reservedUse
  else if (c.S b).toNat < 2 ^ 57 ∧ (c.S b).toNat % 32 ≠ 0 then c.precise 0x05 (addrInfo (c.S b).toNat)
  else c.readDescs c.t (bDescs (c.S b)) fun s t ds =>
      let db := ds.getD 0 []
      match c.bSource s t (c.S b) db with
      | none => .reservedRead s t
      | some (tb, _, _) =>
      let w := opDesc tb
      if w.reserved .bx4 || !(w.kgn == 4 || w.kgn == 8) || decide (w.cols < 8 * (w.kg0 + w.kgn)) then .reservedRead s t
      else if w.misaligned .bx4 then .trap s t 0x05 (addrInfo w.base) (.precise c.pc)
      else c.gangGate s t i gang [] db <| c.takeProduct s t i b [] db none

/-- A member's part that waited for a descriptor was on its way to the latch, and no selection has charged it: its trap or its
reserved use is charged as it happens (R359). DEDUCED (log 59). -/
def Ctx.chargeGangPart (c : Ctx) (gang : Bool) (e : Effect) : Effect :=
  if gang = false ∨ c.t.iss.begun.isNone = true then e
  else
    let rest := fun (t : Team) => { t with sched.waits := 0, sched.boosted := false }
    match e with
    | .trap s t cause info kind => .trap (s.chargeIssue t s.pwr.gangWeight) (rest t) cause info kind
    | .reservedUse => .reservedRead (c.s.chargeIssue c.t (field c.s.pwr.aw1 16 16)) (rest c.t)
    | .reservedRead s t => .reservedRead (s.chargeIssue t (field s.pwr.aw1 16 16)) (rest t)
    | e => e

def execMxMma (t sl : BitVec 3) (a b : BitVec 6) (acc gang ta tb : Bool) (s : State) : Host.Outcome State Fault Refusal :=
  s.issue (.mxMma t sl a b acc gang ta tb) (.front 1) fun c => c.chargeGangPart gang (c.mma t sl a b acc gang ta tb)
def execMxKmma (t sl : BitVec 3) (a b : BitVec 6) (acc gang hi : Bool) (s : State) : Host.Outcome State Fault Refusal :=
  s.issue (.mxKmma t sl a b acc gang hi) (.front 1) fun c => c.chargeGangPart gang (c.kmma t sl a b acc gang hi)

/-! Tile moves, save and resume (R227, R228, R231). -/

def execMxZero (t : BitVec 3) (s : State) : Host.Outcome State Fault Refusal :=
  s.issue (.mxZero t) (.front 1) fun c => c.queued .q5 fun u => c.enqueue c.s u .q5 (c.newOp u (.mxZero t))

/-- A tile move: base and pitch are multiples of 4. DESIGN CHOICE (log 69). -/
def Ctx.tileMove (c : Ctx) (i : Instr) (a b : BitVec 6) : Effect :=
  if (c.S a).toNat % 4 ≠ 0 ∨ (c.S b).toNat % 4 ≠ 0 then c.precise 0x05 (addrInfo (c.S a).toNat)
  else c.queued .q5 fun t => c.enqueue c.s t .q5 { c.newOp t i with addr := c.S a, pitch := c.S b }

def execMxAccrd (t : BitVec 3) (a b : BitVec 6) (s : State) : Host.Outcome State Fault Refusal :=
  s.issue (.mxAccrd t a b) (.front 1) fun c => c.tileMove (.mxAccrd t a b) a b
def execMxAccwr (t : BitVec 3) (a b : BitVec 6) (s : State) : Host.Outcome State Fault Refusal :=
  s.issue (.mxAccwr t a b) (.front 1) fun c => c.tileMove (.mxAccwr t a b) a b

def execMxSave (a : BitVec 6) (s : State) : Host.Outcome State Fault Refusal :=
  s.issue (.mxSave a) (.front 1) fun c =>
    if (c.S a).toNat % 256 ≠ 0 then c.precise 0x05 (addrInfo (c.S a).toNat)
    else c.queued .q5 fun t => c.enqueue c.s t .q5 { c.newOp t (.mxSave a) with addr := c.S a }

/-- The operation that a save header continues: none for an empty one. -/
def headerOp (h : List Byte) : Option Instr :=
  match decode (BitVec.ofNat 32 (leField h 0 4)) with
  | .ok (.mxMma t sl a b acc g ta tb) => some (.mxMma t sl a b acc g ta tb)
  | .ok (.mxKmma t sl a b acc g hi) => some (.mxKmma t sl a b acc g hi)
  | _ => none

/-- K steps of an operation, its row blocks, and whether its slot and registers are legal for a team. -/
def Team.opShape (t : Team) (i : Instr) (bdesc : List Byte) : Option (Nat × Nat) :=
  match i with
  | .mxMma tile sl _ _ _ _ _ _ =>
    let q := t.slot sl
    if slotLegal q denseType denseType && decide (tile.toNat < t.const.tiles) then
      some ((if decide (9 ≤ field q 0 8) && decide (9 ≤ field q 8 8) then 8 else 4), 4)
    else none
  | .mxKmma tile sl a _ _ _ _ =>
    if slotLegal (t.slot sl) anyType (· == 12) && decide (tile.toNat < t.const.tiles) && decide (a.toNat < t.const.tables) then
      some ((opDesc bdesc).kgn, 2)
    else none
  | _ => none

/-- The step index of a header's counters. -/
def headerStep (h : List Byte) (rows : Nat) : Nat := (leField h 84 2 * rows + leField h 80 2) * 4 + leField h 82 2

/-- Whether a save header is a reserved use for a team (R231). -/
def Team.headerReserved (t : Team) (h : List Byte) : Bool :=
  let opw := leField h 0 4
  let bd := (h.drop 48).take 32
  !(allZero h 104 152 && decide (leField h 96 8 < 32) && decide (leField h 86 1 < 2) && leField h 87 1 == t.const.tiles) ||
  (if opw = 0 then leField h 86 1 != 0
   else match headerOp h with
    | none => true
    | some i => match t.opShape i bd with
      | none => true
      | some (depths, rows) =>
        decide (depths ≤ leField h 84 2) || decide (rows ≤ leField h 80 2) || decide (4 ≤ leField h 82 2) ||
        (leField h 86 1 != 0 && rows != 2))

def execMxResume (a : BitVec 6) (s : State) : Host.Outcome State Fault Refusal :=
  s.issue (.mxResume a) (.front 1) fun c =>
    let va := (c.S a).toNat % 2 ^ 57
    if va % 256 ≠ 0 then c.precise 0x05 (addrInfo va)
    else c.intoQueue .q5 <| c.readDesc c.t va 256 fun s t h =>
      if t.headerReserved h then .reservedRead s t
      else c.performs s t fun t => c.enqueue s t .q5 { c.newOp t (.mxResume a) with addr := BitVec.ofNat 64 va, adesc := h }

/-! Batches (R229). -/

def execMxFence (a : BitVec 6) (s : State) : Host.Outcome State Fault Refusal :=
  s.issue (.mxFence a) (.front 1) fun c =>
    c.effect (fun t e => .next c.s (t.writeS a.toNat (zextBytes e.data))) fun t =>
      let n := BitVec.ofNat 64 t.eng.opened
      let t := { t with eng.closed := t.eng.opened, eng.opened := t.eng.opened + 1 }
      .next c.s ((t.writeS a.toNat n).record c.fi (toBytes 8 n.toNat))

/-- Whether every batch up to a number is complete. -/
def Team.batchesDone (t : Team) (n : Nat) : Bool := (t.eng.q5 ++ t.eng.q6).all fun o => decide (n < o.batch)

/-- The batches that MX.WAIT waits for. -/
def Team.mxWaits (t : Team) (x : DWord) : Bool := !t.batchesDone (min x.toNat t.eng.closed)

def execMxWait (a : BitVec 6) (s : State) : Host.Outcome State Fault Refusal :=
  s.issue (.mxWait a) (.front 1) fun c =>
    if c.t.mxWaits (c.S a) then .hold c.s c.t (.mxWait (c.S a)) else .next (c.s.acquire c.t) c.t.acquired

/-! Streams and GANG. -/

/-- MX.STREAM.OPEN (R219): a number still open at the place, or 16 live streams, stalls it. DEDUCED (log 35). -/
def execMxStreamOpen (a b : BitVec 6) (s : State) : Host.Outcome State Fault Refusal :=
  s.issue (.mxStreamOpen a b) (.front 1) fun c =>
    let va := (c.S a).toNat % 2 ^ 57
    let n := (c.S b).toNat
    if 15 < n then .reservedUse
    else if va % 64 ≠ 0 then c.precise 0x05 (addrInfo va)
    else
      let busy := (c.s.stream? c.t n).isSome || decide (16 ≤ ((c.s.clusters[c.t.sched.cluster]?).map fun k => (k.streams.filter (!·.closed)).length).getD 0)
      c.enters busy .streamBusy <| c.readDesc c.t va 64 fun s t d =>
        if (opDesc d).reservedBase || !allZero d 48 16 || streamCount d == 0 || streamSubs d == 0 || decide (16 < streamSubs d) then
          .reservedRead s t
        else c.performs s t fun t => .next (s.mapCluster t.sched.cluster fun k =>
            { k with streams := k.streams ++ [⟨k.freshStream, t.const.launch, t.const.placeNo, n, d, 0, 0, [], false⟩] }) (t.record c.fi [])

/-- MX.SUB (R220). -/
def execMxSub (a b : BitVec 6) (s : State) : Host.Outcome State Fault Refusal :=
  s.issue (.mxSub a b) (.front 1) fun c =>
    let n := (c.S a).toNat
    let w := (c.S b).toNat
    if 15 < n ∨ w = 0 ∨ 16 < w then .reservedUse
    else c.enters (c.s.stream? c.t n).isNone .streamBusy <| c.performs c.s c.t fun t =>
      match t.sub? n with
      | some (_, k) => .next c.s ((t.setSub n w k).record c.fi [])
      | none =>
        .next (c.s.mapCluster t.sched.cluster fun k =>
            { k with streams := k.streams.map fun x =>
                if !x.closed && x.launch == t.const.launch && x.place == t.const.placeNo && x.num == n then { x with joined := x.joined + 1 } else x })
          ((t.setSub n w 0).record c.fi [])

def execMxSetgang (a : BitVec 6) (s : State) : Host.Outcome State Fault Refusal :=
  s.issue (.mxSetgang a) (.front 1) fun c =>
    let g := c.S a
    if field g 56 8 ≠ 0 ∨ field g 3 5 ≠ 0 ∨ gangN g = 1 ∨ gangN g = 7 then .reservedUse
    else .next c.s { c.t with regs.gang := g }

/-! Tables (R234, R239). -/

def execTblKbuild (t sl : BitVec 3) (a : BitVec 6) (s : State) : Host.Outcome State Fault Refusal :=
  s.issue (.tblKbuild t sl a) (.front 1) fun c =>
    let q := c.t.slot sl
    let ty := (slotTypeA q).getD .bf16
    let va := (c.S a).toNat % 2 ^ 57
    if !slotLegal q (fun x => decide (6 ≤ x) && decide (x ≤ 10)) anyType then .reservedUse
    else if va % 32 ≠ 0 then c.precise 0x05 (addrInfo va)
    else c.intoQueue .q6 <| c.readDesc c.t va 32 fun s u d =>
      let o := opDesc d
      if o.reserved ty || !inWindow o.base || decide (32 < o.rows) || decide (8 < o.kgn) then .reservedRead s u
      else if o.misaligned ty then .trap s u 0x05 (addrInfo o.base) (.precise c.pc)
      else c.performs s u fun u => c.enqueue s u .q6 { c.newOp u (.tblKbuild t sl a) with adesc := d } (some t.toNat)

def execTblKinv (t : BitVec 3) (s : State) : Host.Outcome State Fault Refusal :=
  s.issue (.tblKinv t) (.front 1) fun c => c.queued .q6 fun u => c.enqueue c.s u .q6 (c.newOp u (.tblKinv t))
def execTblKdetach (t : BitVec 3) (s : State) : Host.Outcome State Fault Refusal :=
  s.issue (.tblKdetach t) (.front 1) fun c => c.queued .q6 fun u => c.enqueue c.s u .q6 (c.newOp u (.tblKdetach t))

/-- The table register that an operation names (R212). -/
def EngineOp.table (o : EngineOp) : Option Nat :=
  match o.op with
  | .mxKmma _ _ a _ _ _ _ => some a.toNat
  | .tblKbuild t _ _ | .tblKinv t | .tblKdetach t => some t.toNat
  | _ => none

def tabCode : TabState → Nat | .empty => 0 | .attached => 1 | .stale => 2 | .detached => 3
def Team.table (t : Team) (k : Nat) : KTable := t.eng.k.getD k emptyTable

/-- State, rows and k-groups of a table register (R239). -/
def tableInfo (k : KTable) : Nat :=
  tabCode k.st + (if k.st = .empty then 0 else k.rows * 2 ^ 8 + k.groups * 2 ^ 16)

def execTblKtest (t : BitVec 3) (a : BitVec 6) (s : State) : Host.Outcome State Fault Refusal :=
  s.issue (.tblKtest t a) (.front 1) fun c =>
    if c.t.eng.q6.any fun o => o.table == some t.toNat then .stall c.s c.t .tables
    else .next c.s (c.t.writeS a.toNat (BitVec.ofNat 64 (tableInfo (c.t.table t.toNat))))

end Sys2Proof.Machine
end

