-- ==== Sys2Proof/Machine/Fetch.lean ====
section
/-! DEFINITION. Fetching an instruction word (R89, R113, R143, R251), and the choices that the hardware makes and no
row of the opcode table names. -/

namespace Sys2Proof.Machine

/-- What a fetch gives. -/
inductive Fetched where
  | word (s : State) (w : Word)
  | fault (cause : BitVec 8) (tinfo : DWord)
  deriving DecidableEq, Repr

/-- The first n elements of a list that meet a test, and all that do not. -/
def keepFirst {α : Type} (p : α → Bool) : Nat → List α → List α
  | _, [] => []
  | n, x :: r =>
    if p x then
      match n with
      | 0 => keepFirst p 0 r
      | n + 1 => x :: keepFirst p n r
    else x :: keepFirst p n r

/-- A word as a cluster's instruction cache gives it: its copy, else the home's, of which a copy then stays while the cache
has room; none where the home's word is poisoned (R275). -/
def State.codeWord (s : State) (cluster va pa : Nat) : Option (State × Word) :=
  match s.ms.icache.find? fun c => c.cluster == cluster && c.va == va && c.pa == pa with
  | some c => some (s, c.word)
  | none =>
    if s.ms.poison.contains (pa / 4 * 4) then none
    else
      let w := s.homeWord pa
      some ({ s with ms.icache := ⟨cluster, va, pa, w⟩ :: keepFirst (·.cluster == cluster) (Config.icacheWords - 1) s.ms.icache }, w)

/-! The loop buffer (R134). -/

/-- Whether a loop's body fits the loop buffer of a core. -/
def LoopEntry.short (e : LoopEntry) : Bool := decide ((e.last - e.first).toNat < 4 * Config.loopWords)

/-- The word of a team's loop at an address, as its core's loop buffer holds it. -/
def State.loopWord (s : State) (t : Team) (va pa : Nat) : Option LoopWord :=
  (s.core? t.sched.cluster t.sched.core).bind fun k => k.loopBuf.find? fun w => w.team == t.id && w.va == va && w.pa == pa

/-- The loop buffer of a team's core after a fetch: the team's words outside its loops leave it, and a word of the body of
its innermost loop enters. -/
def Team.loopFetch (t : Team) (va pa : Nat) (w : Word) (buf : List LoopWord) : List LoopWord :=
  let kept := buf.filter fun x => x.team != t.id || t.ctl.loop.any fun e => e.short && e.inBody (BitVec.ofNat 64 x.va)
  let inner := (t.ctl.loop.head?).any fun e => e.short && e.inBody (BitVec.ofNat 64 va)
  if inner && !(kept.any fun x => x.team == t.id && x.va == va) then ⟨t.id, va, pa, w⟩ :: kept.take (Config.loopWords - 1) else kept

def State.setLoopBuf (s : State) (t : Team) (f : List LoopWord → List LoopWord) : State :=
  match s.core? t.sched.cluster t.sched.core with
  | some k => if f k.loopBuf = k.loopBuf then s else s.setCore t.sched.cluster t.sched.core { k with loopBuf := f k.loopBuf }
  | none => s

/-- No instruction cache and no loop buffer keeps the words of some VAs (R134, R143). -/
def State.dropCode (s : State) (hit : Nat → Bool) : State :=
  { s with ms.icache := s.ms.icache.filter fun c => !hit c.va,
           clusters := s.clusters.map fun (c : Cluster) => { c with
             cores := c.cores.map fun (k : Core) => { k with loopBuf := k.loopBuf.filter fun w => !hit w.va } } }

/-- Fetching at a team's address, which must translate with execute permission (R113): a word fetched ahead, which is used
up (R251), else the loop buffer's, else the instruction cache's. The scratch window holds no code, and code never runs
from another member (R347). DEDUCED (log 64). -/
def State.fetch (s : State) (t : Team) (pc : DWord) : Fetched :=
  match s.xlate t pc.toNat needX with
  | .ok (.home pa) =>
    match t.iss.ahead.find? (·.1 == pc) with
    | some x =>
      let s := s.setTeam { t with iss.ahead := t.iss.ahead.filter (·.1 != pc) }
      .word (s.setLoopBuf t (t.loopFetch pc.toNat pa x.2)) x.2
    | none =>
      match s.loopWord t pc.toNat pa with
      | some x => .word s x.word
      | none =>
        match s.codeWord t.sched.cluster pc.toNat pa with
        | some (s, w) => .word (s.setLoopBuf t (t.loopFetch pc.toNat pa w)) w
        | none => .fault 0x0A (poisonInfo pc.toNat)
  | _ => .fault 0x07 pc

/-- A fragment takes a trap at its issue slot; the slot is used up. -/
def State.trapAtIssue (s : State) (t : Team) (fi : Nat) (cause : BitVec 8) (tinfo : DWord) (kind : TrapKind) : State :=
  { s with slots := s.slots.drop 1 }.setTeam (t.takeTrap fi cause tinfo kind)

/-- Whether the fragment that a slot names can issue now: its team is resident and not withheld, it is running,
and in trap mode it is the handler's fragment (R260, R320). -/
def Team.mayIssue (t : Team) (fi : Nat) : Bool :=
  t.sched.life == .resident && (t.frag fi).st == .running && t.iss.withheld.isNone &&
    (match t.iss.trapFrag with | none => true | some k => k == fi)

/-- The teams that hold resources of a core. -/
def State.onCore (s : State) (cluster core : Nat) : List Team :=
  s.teams.filter fun t => t.sched.life.holds && t.sched.cluster == cluster && t.sched.core == core

/-- Whether the instruction of a fragment has issued and is under way. A pending fault waits for it. -/
def Team.begunBy (t : Team) (fi : Nat) : Bool := t.iss.begun.any (·.1 == fi)

/-- Whether the descriptors of an operation that the team has issued are still on their way: the team stalls (R212, R369). -/
def Team.descsLate (t : Team) : Bool := (t.eng.q5 ++ t.eng.q6).any (·.late)

/-- Whether the cluster of a team is one of its interface's (R374). -/
def State.ownsCluster (s : State) (t : Team) : Bool := (s.vis[t.const.vi]?).any fun i => i.clm.getLsbD t.sched.cluster

/-- Whether a fragment issues, or goes on with an instruction under way: on a cluster of its interface, where no other instruction
of the team is under way, and no window that is due waits for bytes. A team that a forced save waits for issues while a transient
value is live, for at most three instructions (R268), and goes on with its instruction under way. DEDUCED (log 17). -/
def State.mayIssue (s : State) (t : Team) (fi : Nat) : Bool :=
  t.mayIssue fi && s.ownsCluster t && (t.iss.begun.isNone || t.begunBy fi) && !t.descsLate && !t.windowWaits &&
    (match t.sched.saveDue with
      | none => true
      | some n => (t.transientLive && decide (t.iss.issued < n + 3)) || t.begunBy fi)

/-- Two weak stores of one team to a word with no release between them may be merged (R249): the earlier one's
bytes are dropped where the later weak store writes them too. -/
def Team.mergeStore (t : Team) (op word : Nat) : Team :=
  match t.iss.flights[op]? with
  | none => t
  | some f =>
    let later := (t.iss.flights.drop (op + 1)).flatMap fun g => if g.strong then [] else g.bytes
    if f.strong then t
    else
      let bytes := f.bytes.filter fun b => !(b.1 / 4 * 4 == word && later.any fun c => c.1 == b.1)
      { t with iss.flights := setAt t.iss.flights op { f with bytes := bytes, done := f.done || (bytes.isEmpty && f.remote.isEmpty) } }

/-- The home brings the rest of a line that a core's L1 holds: the words that it lacks, but for poisoned ones (R330). -/
def State.fillL1 (s : State) (core pa : Nat) : State :=
  let line := pa / 128 * 128
  if s.ms.l1.any fun w => w.core == core && w.dev.isNone && w.pa / 128 == pa / 128 then
    let lacking := ((List.range 32).map (line + 4 * ·)).filter fun a => !(s.ms.l1.any (l1Has core none a)) && !s.ms.poison.contains a
    { s with ms.l1 := l1Put core none (lacking.map fun a => ⟨core, none, a, s.homeWord a, false⟩) s.ms.l1 }
  else s

/-- Whether an operation reads descriptors at its issue (R212, R231). -/
def readsDescs : Instr → Bool
  | .mxMma _ _ _ _ _ _ _ _ | .mxKmma _ _ _ _ _ _ _ | .tblKbuild _ _ _ | .mxResume _ => true
  | _ => false

/-- The operation that a team has queued last is waiting for its descriptors, or has them: only until it asks for its start. -/
def Team.setLate (t : Team) (late : Bool) : Team :=
  let upd := fun (o : EngineOp) =>
    if o.serial + 1 = t.eng.next ∧ readsDescs o.op = true ∧ !o.asked ∧ !o.started then { o with late := late } else o
  { t with eng.q5 := t.eng.q5.map upd, eng.q6 := t.eng.q6.map upd }

/-- A silent choice of the hardware. DESIGN CHOICE (log 56). -/
def State.choose (s : State) : Choice → State
  | .tick n => { s with now := s.now + n }
  | .evictL1 core pa => { s with ms.l1 := s.ms.l1.filter fun w => !(w.core == core && w.pa / 128 == pa / 128) }
  | .fillL1 core pa => s.fillL1 core pa
  | .evictTlb n => { s with ms.tlb := s.ms.tlb.eraseIdx n }
  | .dropWalk n => { s with ms.walk := s.ms.walk.eraseIdx n }
  | .evictIcache n => { s with ms.icache := s.ms.icache.eraseIdx n }
  | .prefetch id va =>
    match s.team? id with
    | none => s
    | some t =>
      if t.iss.ahead.any (·.1 == va) then s
      else match s.fetch t va with
      | .word s w => s.setTeam { t with iss.ahead := (va, w) :: t.iss.ahead }
      | .fault _ _ => s
  | .descLate id => (s.team? id).elim s fun t => s.setTeam (t.setLate true)
  | .descReturn id => (s.team? id).elim s fun t => s.setTeam (t.setLate false)
  | .mergeStore id op word =>
    match s.team? id with
    | none => s
    | some t => s.setTeam (t.mergeStore op word).settleFlights

/-! What the next step does. -/

/-- A step's plan: a state that it ends in, or an instruction or event to execute in a state. -/
inductive Plan where
  | go (s : State)
  | run (i : Instr) (s : State)
  deriving DecidableEq, Repr

/-- A slot whose fragment does not issue is passed over; what the selection charged is given back. -/
def State.passSlot (s : State) : State := { s with slots := s.slots.drop 1 }

/-- The instruction of a word, or what becomes of a reserved one. -/
def runWord (s : State) (w : Word) : Plan :=
  match decode w with
  | .ok i => .run i s
  | .error _ => .run (.reservedEncoding w) s

/-- What happens in the issue slot of a fragment: its due windows close, an instruction under way goes on, a pending fault is taken
(R263), else the word at its PC is fetched and its instruction executed. -/
def State.planIssue (s : State) (id fi : Nat) : Plan :=
  match s.team? id with
  | none => .go s.passSlot
  | some t =>
    if !s.mayIssue t fi then .go ((s.passSlot.uncharge t).setTeam t.uncharged)
    else if !(dueWindows t).isEmpty then .run (.windowClose id) s
    else match t.iss.begun with
    | some (_, w) => runWord s w
    | none =>
      if !t.tm && !t.iss.faults.isEmpty then .run (.trapEntry id fi) s
      else match s.fetch t (t.frag fi).pc with
        | .fault cause ti => .go (s.trapAtIssue t fi cause ti .region)
        | .word s w => runWord s w

/-- The issue slots come first; then the next entry of the agenda; with nothing else to do a cluster runs a front
cycle (R321). DESIGN CHOICE (log 1). -/
def State.plan (s : State) : Plan :=
  match s.slots with
  | (id, fi) :: _ => s.planIssue id fi
  | [] =>
    match s.agenda with
    | .event i :: rest => .run i { s with agenda := rest }
    | .choice c :: rest => .go ({ s with agenda := rest }.choose c)
    | [] => .run (.issueSelect s.idle) { s with idle := (s.idle + 1) % 32 }

/-! Placing a word where the next step fetches it. -/

/-- Page tables that map the first GiB of VAs onto the first GiB of HBM4 with every right, and the context entry
of ASID 0 for interface 0 (R335, R336): what a runtime writes before it launches a program. -/
def loaderTables : List (Nat × Byte) :=
  let e : Nat → Nat → List (Nat × Byte) := fun a x => ((List.range 8).zip (toBytes 8 x)).map fun (i, b) => (a + i, b)
  e 0x100000 (0x200000 + 1) ++ e 0x200000 (0x201000 + 1) ++ e 0x201000 (0x202000 + 1) ++ e 0x202000 0x3F

/-- The entry point of the team that `withFetchWord` places. -/
def loadEntry : DWord := 0x10000

/-- A team at its start (R42): one role of one group with every register, table and tile. -/
def freshTeam (id : Nat) (c : TeamConst) (tvec : DWord) (sched : TeamSched) : Team :=
  { id := id, const := c, sched := sched,
    regs := { s := [], v := [], p := [], g := [], loupe := [], c := [], mode := 0, gang := 0,
              srSeed := BitVec.ofNat 32 ((((c.z * c.ey + c.y) * c.ex + c.x) * c.nrole + c.role)), sr := [] },
    sys := { tvec := tvec, tcause := 0, tpc := 0, tinfo := 0, tflags := 0, regpc := c.entry, lsp := 0,
             seed := BitVec.ofNat 64 ((((c.z * c.ey + c.y) * c.ex + c.x) * c.nrole + c.role) % 2 ^ 32), gp := [] },
    ctl := { frags := oneFrag (lanesUpTo (32 * c.h)) c.entry 0, fuse := noFuse, pend := none, link := [], spilled := 0,
             loop := [], rloop := [], pstk := [], splits := 0 },
    iss := { issued := 0, bypass := [], windows := [], busy := [], stalled := none, withheld := none, trapFrag := none,
             ahead := [], flights := [], faults := [], dtrap := ⟨0, 0, 0, false⟩, charge := none, claim := none,
             begun := none },
    rep := ⟨[], 0, ⟨lanesUpTo (32 * c.h), 0, 0, none⟩, false, 0⟩,
    eng := { q5 := [], q6 := [], copies := [], opened := 1, closed := 0, next := 1, qfences := [],
             k := List.replicate c.tables ⟨.empty, 0, 0, 0, [], 0, 0, 0, []⟩, subs := [] },
    maps := [] }

def loadConst : TeamConst :=
  { launch := 0, vi := 0, serial := 0, asid := 0, role := 0, nrole := 1, h := 1, n := 128, tables := 4, tiles := 8,
    ex := 1, ey := 1, ez := 1, x := 0, y := 0, z := 0, entry := loadEntry, argp := 0x30000, handle := 0,
    scr := 0x10000, slots := List.replicate 8 0 }

def loadSched : TeamSched :=
  { life := .resident, started := true, cluster := 0, core := 0, slot := 0, order := 0, prio := 0, pclass := 1,
    waits := 0, boosted := false, level := 2, parking := 0x1000000, scratch := vaultPa 0 0, saveDue := none,
    shedPark := false, rests := none }

/-- The PA that the head of the issue slots fetches from, when it can issue. -/
def State.fetchPlace (s : State) : Option (Team × Nat) :=
  match s.slots with
  | [] => none
  | (id, fi) :: _ =>
    match s.team? id with
    | none => none
    | some t =>
      if s.mayIssue t fi && (dueWindows t).isEmpty && t.iss.begun.isNone && t.iss.faults.isEmpty then
        match s.xlate t (t.frag fi).pc.toNat needX with
        | .ok (.home pa) => some (t, pa)
        | _ => none
      else none

/-- The state with a program's page tables and one resident team about to issue: what a boot, a load and a launch
leave when the program is placed from outside the machine. DESIGN CHOICE (log 4). -/
def State.loaded (s : State) : State :=
  let s := { s with boot.stage := 5, boot.ctxbase := 0x100000, mem := s.mem.writeBytes loaderTables,
                    ms.tlb := [], ms.walk := [], ms.icache := [],
                    vis := setAt s.vis 0 { s.vis.getD 0 State.resetVi with en := true, s2en := false, first := 0, count := 1, clm := 0xFFFFFFFF } }
  { s with teams := freshTeam 0 loadConst 0x20000 loadSched :: s.teams.filter (fun t => t.id != 0),
           sched.nextTeam := max 1 s.sched.nextTeam, slots := [(0, 0)] }

/-- Storing the bytes of a word where the next issue fetches. -/
def State.placeWord (s : State) (bs : List Byte) : State :=
  match s.fetchPlace with
  | none => s
  | some (t, pa) =>
    { s with mem := s.mem.write pa bs, ms.icache := s.ms.icache.filter fun c => c.pa != pa }.setTeam
      { t with iss.ahead := [] }

/-- The state with the first bits of a word placed where the next step fetches; where no fragment is about to issue,
a program's page tables and one team are placed first. -/
def State.withWord (s : State) (nbits w : Nat) : State :=
  let s := if s.fetchPlace.isSome then s else s.loaded
  s.placeWord (toBytes 4 (w % 2 ^ nbits))

end Sys2Proof.Machine
end

