-- ==== Sys2Proof/Machine/Complete.lean ====
section
/-! DEFINITION. The ends of loads, stores and waits: counters that fall, registration at the homes, and the events that
complete an instruction for which a team was withheld. -/

namespace Sys2Proof.Machine

/-! Loads and stores in flight (R38, R185, R244). -/

def Team.flight? (t : Team) (op : Nat) : Option Flight := t.iss.flights[op]?

/-- A load's value returns, what other members bring included; the counter falls in issue order. -/
def execLoadReturn (team op : Nat) (s : State) : Host.Outcome State Fault Refusal :=
  match (s.team? team).bind fun t => (t.flight? op).map fun f => (t, f) with
  | some (t, f) =>
    if f.kind = .load ∧ f.done = false ∧ f.remote = [] then
      .next (s.setTeam (Team.settleFlights { t with iss.flights := setAt t.iss.flights op { f with done := true } }))
    else .refused (.notEnabled "LOAD_RETURN")
  | none => .refused (.notEnabled "LOAD_RETURN")

/-- The bytes of a store that register together with a word: a naturally aligned strong 8-byte store is one unit (R249).
DEDUCED (log 18). -/
def Flight.unit (f : Flight) (word : Nat) : List (Nat × Byte) :=
  if f.whole then f.bytes.filter fun b => b.1 / 8 == word / 8 else f.bytes.filter fun b => b.1 / 4 * 4 == word

/-- A store after some of its bytes have registered. -/
def Flight.without (f : Flight) (ws : List Nat) : Flight :=
  let rest := f.bytes.filter fun b => !ws.contains (b.1 / 4 * 4)
  { f with bytes := rest, done := rest.isEmpty && f.remote.isEmpty }

/-- The registration of one word of a store at its home, or its acknowledgement by the vault. A team's stores to one
word register in issue order. DEDUCED (log 18). -/
def execStoreRegister (team op word : Nat) (s : State) : Host.Outcome State Fault Refusal :=
  match (s.team? team).bind fun t => (t.flight? op).map fun f => (t, f) with
  | some (t, f) =>
    let now := f.unit word
    let ws := wordsOf now
    if ws.contains word && !((t.iss.flights.take op).any fun g => g.bytes.any fun b => ws.contains (b.1 / 4 * 4)) then
      let t' := Team.settleFlights { t with iss.flights := setAt t.iss.flights op (f.without ws) }
      .next ((s.setTeam t').register (some t.coreId) (f.path == 1) now (some t.id))
    else .refused (.notEnabled "STORE_REGISTER")
  | none => .refused (.notEnabled "STORE_REGISTER")

/-! Waits that end. -/

/-- The instruction for which a team was withheld completes. -/
def Team.endHold (t : Team) (fi : Nat) : Team := Team.fallThrough { t with iss.withheld := none } fi

/-- A wait ends as an acquire. -/
def State.acquireHold (s : State) (t : Team) (fi : Nat) : State := (s.acquire t).setTeam (t.acquired.endHold fi)

/-- A team that is withheld, with its fragment and reason. -/
def State.holder? (s : State) (team : Nat) : Option (Team × Nat × Withheld) :=
  (s.team? team).bind fun t => t.iss.withheld.map fun x => (t, x.1, x.2)

/-- What a waiter at a barrier sees. -/
inductive BarLook where
  | turned | same | reissue
  deriving DecidableEq, Repr

/-- The access of a barrier instruction of a fragment. -/
def barAcc (fi : Nat) (va : Nat) : Acc := ⟨1024 + fi, va, 16⟩

/-- The read of the remote object that a waiting team has sent last (R349). -/
def State.pollOf (s : State) (team : Nat) : Option RemoteOut := s.pod.reqs.find? fun r => r.team == team && r.use == .poll

/-- A team waits no more for the answer of its read. -/
def State.endPoll (s : State) (team : Nat) : State := s.abandon fun r => r.team == team && r.use == .poll

/-- Where the object of a wait lies. -/
def State.barPlace (s : State) (t : Team) (va : Nat) : Meet := s.xlate t (va % 2 ^ 57) needRW

/-- A look at the phase. Where the object cannot be read any more, the instruction issues again and takes its fault. -/
def State.barLook (s : State) (t : Team) (va : Nat) (parity : Bool) : BarLook :=
  let see := fun (bs : List Byte) => if barPhase bs != parity then BarLook.turned else .same
  match s.barPlace t va with
  | .ok (.home pa) | .ok (.scratch _ _ pa) =>
    if s.poisoned t.coreId pa 16 true then .reissue else see (s.mem.bytes pa 16)
  | .ok (.remote _ _) =>
    match (s.pollOf t.id).bind (·.ans) with
    | some (.data bs) => see bs
    | some _ => .reissue
    | none => .same
  | .wait => .same
  | _ => .reissue

/-- A team's wait at a barrier, when the object at a place has turned for it: its fragment. A team that a shed class parks
completes no wait (R365). -/
def State.turnedAt (s : State) (t : Team) (p : Meet) : Option Nat :=
  match t.iss.withheld with
  | some (fi, .barWait addr parity) =>
    if !t.sched.shedPark && s.barPlace t addr.toNat == p && s.barLook t addr.toNat parity == .turned then some fi else none
  | _ => none

/-- The wait of one team completes: an acquire, logged (R201). -/
def State.completeWait (s : State) (id : Nat) (p : Meet) : State :=
  match s.team? id with
  | none => s
  | some t => (s.turnedAt t p).elim s fun fi => (s.endPoll id).acquireHold (t.record fi []) fi

/-- The teams that a phase's completion reaches with a team: those of its cluster that wait on the same object, where that lies
in this device's memory (R368). -/
def State.waitGroup (s : State) (t : Team) (p : Meet) : List Nat :=
  match p with
  | .ok (.remote _ _) => [t.id]
  | _ => (s.teams.filter fun u => u.sched.cluster == t.sched.cluster && (s.turnedAt u p).isSome).map (·.id)

/-- BAR.WAIT completes (R201, R368). -/
def execBarWaitComplete (team : Nat) (s : State) : Host.Outcome State Fault Refusal :=
  match s.holder? team with
  | some (t, _, .barWait addr parity) =>
    let p := s.barPlace t addr.toNat
    if t.sched.shedPark then .refused (.notEnabled "BAR_WAIT_COMPLETE")
    else match s.barLook t addr.toNat parity with
    | .turned => .next ((s.waitGroup t p).foldl (fun s id => s.completeWait id p) s)
    | .reissue => .next ((s.endPoll t.id).setTeam { t with iss.withheld := none })
    | .same => .refused (.notEnabled "BAR_WAIT_COMPLETE")
  | _ => .refused (.notEnabled "BAR_WAIT_COMPLETE")

/-- The next read of a remote object that a team waits on (R349). -/
def execRemoteBarrierPoll (team : Nat) (s : State) : Host.Outcome State Fault Refusal :=
  match s.holder? team with
  | some (t, _, .barWait addr parity) =>
    match s.barPlace t addr.toNat with
    | .ok (.remote d pa) =>
      if s.portsHeld || (s.pollOf t.id).any (·.ans.isNone) || s.barLook t addr.toNat parity != .same then
        .refused (.notEnabled "REMOTE_BARRIER_POLL")
      else .next (((s.endPoll t.id).staleBlock t.id d pa).send t.id .poll d pa addr.toNat (.read 16))
    | _ => .refused (.notEnabled "REMOTE_BARRIER_POLL")
  | _ => .refused (.notEnabled "REMOTE_BARRIER_POLL")

/-- WAIT completes (R196). -/
def execWaitComplete (team : Nat) (s : State) : Host.Outcome State Fault Refusal :=
  match s.holder? team with
  | some (t, fi, .wait path thr) =>
    if t.counter path ≤ thr.toNat then .next (s.acquireHold t fi) else .refused (.notEnabled "WAIT_COMPLETE")
  | _ => .refused (.notEnabled "WAIT_COMPLETE")

/-- MX.WAIT completes (R229). -/
def execMxWaitComplete (team : Nat) (s : State) : Host.Outcome State Fault Refusal :=
  match s.holder? team with
  | some (t, fi, .mxWait n) =>
    if t.mxWaits n then .refused (.notEnabled "MX_WAIT_COMPLETE") else .next (s.acquireHold t fi)
  | _ => .refused (.notEnabled "MX_WAIT_COMPLETE")

/-- FENCE.ACQ, or the acquire of FENCE, takes effect (R195). -/
def execFenceAcqComplete (team : Nat) (s : State) : Host.Outcome State Fault Refusal :=
  match s.holder? team with
  | some (t, fi, .fenceAcq _) =>
    if t.loadsDone then .next (s.acquireHold t fi) else .refused (.notEnabled "FENCE_ACQ_COMPLETE")
  | _ => .refused (.notEnabled "FENCE_ACQ_COMPLETE")

/-- Every instruction cache and loop buffer has dropped the lines of an ICINV, and the team continues; what it had
fetched ahead of the range goes too (R143). -/
def execIcinvComplete (team : Nat) (s : State) : Host.Outcome State Fault Refusal :=
  match s.holder? team with
  | some (t, fi, .icinv va len) =>
    let hit := lineIn (addr57 va).toNat len.toNat
    let t := { t with iss.ahead := t.iss.ahead.filter fun x => !hit x.1.toNat }
    .next ((s.dropCode hit).setTeam (t.endHold fi))
  | _ => .refused (.notEnabled "ICINV_COMPLETE")

/-- No walker keeps an entry that the team's stores wrote (R203). -/
def execWalksyncComplete (team : Nat) (s : State) : Host.Outcome State Fault Refusal :=
  match s.holder? team with
  | some (t, fi, .walksync) =>
    if t.storesDone then .next (({ s with ms.walk := [] } : State).setTeam (t.endHold fi))
    else .refused (.notEnabled "WALKSYNC_COMPLETE")
  | _ => .refused (.notEnabled "WALKSYNC_COMPLETE")

end Sys2Proof.Machine
end

