-- ==== Sys2Proof/Machine/Admit.lean ====
section
/-! DEFINITION. From a launch record to admitted teams (R306 to R316): taking and checking records, status records,
gates, the choice of a cluster, scratch, and the entries of a place. -/

namespace Sys2Proof.Machine

/-! Status records (R313). -/

def statusRecord (code : Nat) (serial : Word) (tag : Nat) (d0 d1 : Nat) : List Byte :=
  layBytes 32 [(0, toBytes 2 code), (4, toBytes 4 serial.toNat), (8, toBytes 8 tag), (16, toBytes 8 d0), (24, toBytes 8 d1)]

def State.qstat (s : State) (q : Nat) : Nat := (s.home8 (s.qcb q + 32)).toNat
def State.qstrd (s : State) (q : Nat) : DWord := s.home8 (s.qcb q + 40)
def State.qstwr (s : State) (q : Nat) : DWord := s.home8 (s.qcb q + 48)

/-- Whether the status ring of a queue has room. -/
def State.statusRoom (s : State) (q : Nat) : Bool :=
  (s.qstwr q - s.qstrd q).toNat != 2 ^ (s.cfgNow q).slogn

/-- One status record: the record, then STWR. -/
def State.putStatus (s : State) (q : Nat) (r : List Byte) : State :=
  let i := s.qstwr q
  ((s.deviceWrite (s.qstat q + 32 * (i.toNat % 2 ^ (s.cfgNow q).slogn)) r).device8 (s.qcb q + 48) (i + 1)).signal ((s.cfgNow q).vi + 1) 0

/-- Reports go out in order, as the rings have room; the others are held. -/
def State.putReports (s : State) (held : List Nat) : List (Nat × List Byte) → State × List (Nat × List Byte)
  | [] => (s, [])
  | (q, r) :: rest =>
    if held.contains q || !s.statusRoom q then
      let (s, keep) := s.putReports (q :: held) rest
      (s, (q, r) :: keep)
    else (s.putStatus q r).putReports held rest

def State.flushReports (s : State) : State :=
  let (s, keep) := s.putReports [] s.sched.reports
  { s with sched.reports := keep }

/-- Reporting to a queue. -/
def State.report (s : State) (q : Nat) (r : List Byte) : State :=
  ({ s with sched.reports := s.sched.reports ++ [(q, r)] } : State).flushReports

/-! The launch record (R306). -/

def recFlag (r : List Byte) (i : Nat) : Bool := decide (leField r 11 1 / 2 ^ i % 2 = 1)
def recNrole (r : List Byte) : Nat := leField r 10 1
def recScr (r : List Byte) : Nat := leField r 12 4
def recTag (r : List Byte) : Nat := leField r 88 8
def recRole (r : List Byte) (i : Nat) : Nat := leField r (16 + 8 * i) 8
def recExt (r : List Byte) (i : Nat) : Nat := leField r (48 + 2 * i) 2
def recPlaces (r : List Byte) : Nat := recExt r 0 * recExt r 1 * recExt r 2

def roleEntry (x : Nat) : Nat := x % 2 ^ 32
def roleH (x : Nat) : Nat := x / 2 ^ 32 % 256
def roleN (x : Nat) : Nat := x / 2 ^ 40 % 256
def roleTables (x : Nat) : Nat := x / 2 ^ 48 % 16
def roleTiles (x : Nat) : Nat := x / 2 ^ 52 % 16

def recRoles (r : List Byte) : List Nat := (List.range (recNrole r)).map (recRole r)

/-! Scratch in the vaults (R324 to R327). -/

/-- Hops between two clusters of a die (R325). -/
def hops (a b : Nat) : Nat :=
  let d := fun (x y : Nat) => max x y - min x y
  d (a % 4) (b % 4) + d (a % 16 / 4) (b % 16 / 4)

/-- The vaults that may hold a region of a place of a cluster, in the order in which they are tried (R326). -/
def vaultOrder (c : Nat) : List Nat :=
  let die := (List.range 16).map (16 * (c / 16) + ·)
  [0, 1, 2].flatMap fun h => die.filter fun v => hops c v = h

/-- A range of vault bytes that is taken. -/
abbrev Taken := List (Nat × Nat)

/-- The regions that are allotted: those of places with a team that has not retired (R316). -/
def State.taken (s : State) : Taken :=
  (s.teams.filter fun t => s.teams.any fun u =>
    u.const.launch == t.const.launch && u.const.placeNo == t.const.placeNo && u.sched.life != .retired).map fun t =>
      (t.sched.scratch, t.const.scr)

/-- Whether a 4 KiB page of a vault is free: in no block allotted as vault pages (R327), in no region. -/
def State.pageFree (s : State) (taken : Taken) (vault p : Nat) : Bool :=
  let a := vaultPa vault (4096 * p)
  (s.allots (192 * vault + p / 16)).isNone &&
    !(taken.any fun (b, n) => decide (b < a + 4096) && decide (a < b + n))

/-- Whether a region of some pages fits at a page. -/
def State.fitsAt (s : State) (taken : Taken) (vault pages p : Nat) : Bool :=
  decide (p + pages ≤ 3072) && (List.range pages).all fun i => s.pageFree taken vault (p + i)

def scratchPages (scr : Nat) : Nat := (scr + 4095) / 4096

/-- The vault of a region, and the lowest page at which it fits. -/
def State.pickVault (s : State) (taken : Taken) (cluster scr : Nat) : Option (Nat × Nat) :=
  (vaultOrder cluster).findSome? fun v =>
    ((List.range 3073).find? fun p => s.fitsAt taken v (scratchPages scr) p).map fun p => (v, p)

/-- Whether regions for n siblings fit (R326). -/
def State.canPlace (s : State) (cluster scr : Nat) : Nat → Taken → Bool
  | 0, _ => true
  | n + 1, taken =>
    match s.pickVault taken cluster scr with
    | some (v, p) => s.canPlace cluster scr n ((vaultPa v (4096 * p), scr) :: taken)
    | none => false

/-- The regions of the siblings at the offsets that the scheduler has chosen, none where one does not fit in the vault
that the rule gives. -/
def State.placeRegions (s : State) (cluster scr : Nat) : List Area → Taken → Option (List Nat)
  | [], _ => some []
  | a :: r, taken =>
    match s.pickVault taken cluster scr with
    | none => none
    | some (v, _) =>
      if a.offset % 4096 = 0 ∧ s.fitsAt taken v (scratchPages scr) (a.offset / 4096) = true then
        (s.placeRegions cluster scr r ((vaultPa v a.offset, scr) :: taken)).map fun xs => vaultPa v a.offset :: xs
      else none

/-! Checks (R312). -/

/-- The object that a handle names for an interface. -/
def State.object? (s : State) (vi : Nat) (handle : DWord) : Option Object :=
  s.ldr.objects.find? fun o => o.handle == handle && o.vi == vi

def recReserved (r : List Byte) : Bool :=
  !(allZero r 96 32 && allZero r 54 2 && isAddr r 56 && isAddr r 64 && isAddr r 72 && isAddr r 80 &&
    decide (leField r 11 1 < 32) && decide (recNrole r < 8) &&
    (List.range 4).all fun i => decide (recRole r i < 2 ^ 56) && (decide (i < recNrole r) || decide (recRole r i = 0)))

def roleBad (x : Nat) : Bool :=
  !(decide (1 ≤ roleH x) && decide (roleH x ≤ 32) && [16, 32, 64, 96, 128].contains (roleN x) &&
    decide (roleTables x ≤ 4) && decide (roleTiles x ≤ 8))

/-- The clusters of an interface's mask. -/
def VirtIf.clusterList (i : VirtIf) : List Nat := (List.range 32).filter i.clm.getLsbD

/-- The checks of R312 in the order of their reasons: the first that fails. -/
def State.rejection (s : State) (vi : Nat) (r : List Byte) : Option Nat :=
  let o := s.object? vi (BitVec.ofNat 64 (leField r 0 8))
  let bars := (if recFlag r 1 then [leField r 64 8] else []) ++ (if recFlag r 2 then [leField r 72 8] else []) ++
    (if recFlag r 0 then [leField r 80 8] else [])
  let checks : List (Nat × Bool) :=
    [(1, recReserved r),
     (2, match o with | some x => x.unloading | none => true),
     (3, match o with | some x => leField r 8 1 != x.minor || leField r 9 1 != x.major | none => false),
     (4, decide (recNrole r = 0) || decide (4 < recNrole r)),
     (5, (recRoles r).any roleBad),
     (6, (recRoles r).any fun x => roleEntry x % 4 != 0 || (match o with | some y => decide (y.textLen ≤ roleEntry x) | none => false)),
     (7, decide (recPlaces r = 0) || decide (2 ^ 32 < recPlaces r * recNrole r)),
     (8, recScr r % 256 != 0 || decide (4194304 < recScr r)),
     (9, leField r 56 8 % 8 != 0 || bars.any fun b => b % 16 != 0),
     (10, !((s.vis.getD vi State.resetVi).clusterList.any fun c => s.canPlace c (recScr r) (recNrole r) []))]
  (checks.find? (·.2)).map (·.1)

/-! Taking a record (R310, R312). -/

/-- Whether the scheduler may take a record of a queue. -/
def State.mayTake (s : State) (q : Nat) : Bool :=
  let c := s.cfgRead q
  decide (q < 1024) && decide (5 ≤ s.boot.stage.toNat) && decide (s.boot.stage.toNat < 6) && c.en &&
    (s.vis[c.vi]?).any (·.en) && decide ((s.qrd q).toNat < (s.qwr q).toNat) &&
    !(s.sched.reports.any fun x => x.1 == q) && s.statusRoom q

def execRecordTake (q : Nat) (s : State) : Host.Outcome State Fault Refusal :=
  if s.mayTake q then
    let c := s.cfgRead q
    let i := s.qrd q
    let va := s.qslot q i
    let r := s.mem.bytes va 256
    let v := s.vis.getD c.vi State.resetVi
    let bad := if populated va && populated (va + 255) then s.rejection c.vi r else some 1
    let s := (s.setVi c.vi { v with serial := v.serial + 1 }).device8 (s.qcb q + 24) (i + 1)
    match bad with
    | some n => .next (s.report q (statusRecord (if n = 2 then 2 else 1) v.serial (recTag r) n i.toNat))
    | none =>
      match s.object? c.vi (BitVec.ofNat 64 (leField r 0 8)) with
      | none => .next s
      | some o =>
        let l : Launch := ⟨s.sched.nextLaunch, q, c.vi, v.serial, i, r, o.asid, BitVec.ofNat 64 o.text, false, 0, false⟩
        .next { s with sched.launches := s.sched.launches ++ [l], sched.nextLaunch := s.sched.nextLaunch + 1 }
  else .refused (.notEnabled "RECORD_TAKE")

/-- The scheduler reads a changed CFG line again (R322). -/
def execQueueCfgReload (q : Nat) (s : State) : Host.Outcome State Fault Refusal :=
  if s.boot.powered = true ∧ s.boot.reset = false ∧ q < 1024 ∧ lookupKey q s.sched.cfg ≠ some (s.home8 (s.qcb q + 8)) then
    .next ({ s with sched.cfg := setKey q (s.home8 (s.qcb q + 8)) s.sched.cfg } : State).flushReports
  else .refused (.notEnabled "QUEUE_CFG_RELOAD")

/-! Gates (R314). -/

def State.launch? (s : State) (id : Nat) : Option Launch := s.sched.launches.find? (·.id == id)
def State.setLaunch (s : State) (l : Launch) : State :=
  { s with sched.launches := s.sched.launches.map fun x => if x.id = l.id then l else x }

/-- The answer to a launch's request for one of its barriers. -/
def State.gateReq (s : State) (id n : Nat) : Option RemoteOut := s.pod.reqs.find? fun r => r.use == .gate id n

def State.dropGate (s : State) (id n : Nat) : State :=
  { s with pod.reqs := s.pod.reqs.filter fun r => r.use != .gate id n }

/-- A gate as a strong load finds it: open or not, or not known yet; the state has the request of a remote object.
DEDUCED (log 24). -/
def State.gate (s : State) (l : Launch) (n va : Nat) (past : Bool) : State × Option Bool :=
  if inWindow va then (s, some false)
  else match s.global 0 l.asid va needR with
    | .ok (.home pa) => (s, some (barPhase (s.mem.bytes pa 16) != past))
    | .ok (.remote d pa) =>
      match s.gateReq l.id n with
      | none => (if s.portsHeld then s else s.send 0 (.gate l.id n) d pa va (.read 16), none)
      | some r =>
        match r.ans with
        | some (.data bs) => (s.dropGate l.id n, some (barPhase bs != past))
        | some _ => (s.dropGate l.id n, some false)
        | none => if r.dead then (s.dropGate l.id n, some false) else (s, none)
    | _ => (s, some false)

/-- Whether every earlier launch of a launch's queue has been admitted. -/
def State.firstOfQueue (s : State) (l : Launch) : Bool :=
  s.sched.launches.all fun x => x.q != l.q || decide (l.id ≤ x.id) || decide (recPlaces x.record ≤ x.place)

/-- Power class and priority of a queue, and whether the class is shed (R365). -/
def State.shedClass (s : State) (pclass : Nat) : Bool := decide (1 ≤ pclass) && s.pwr.shed.getD (pclass - 1) false

/-- The next launch of a queue opens its gates, unless the queue's class is shed (R314, R365). -/
def execLaunchDistribute (launch : Nat) (s : State) : Host.Outcome State Fault Refusal :=
  match s.launch? launch with
  | none => .refused (.notEnabled "LAUNCH_DISTRIBUTE")
  | some l =>
    if l.began || !s.firstOfQueue l || s.shedClass (s.cfgRead l.q).pclass then .refused (.notEnabled "LAUNCH_DISTRIBUTE")
    else
      let (s, a) := if recFlag l.record 1 then s.gate l 0 (leField l.record 64 8) (recFlag l.record 3) else (s, some true)
      let (s, b) := if recFlag l.record 2 then s.gate l 1 (leField l.record 72 8) (recFlag l.record 4) else (s, some true)
      .next (if a = some true ∧ b = some true then s.setLaunch { l with began := true } else s)

/-! Admission (R315, R316). -/

/-- The teams of a cluster that are admitted. -/
def State.admittedOn (s : State) (cluster : Nat) : Nat :=
  (s.teams.filter fun t => t.sched.cluster == cluster && t.sched.life != .retired).length

/-- Whether a cluster has the entries and the scratch room for a place. -/
def State.clusterFits (s : State) (l : Launch) (c : Nat) : Bool :=
  decide ((s.teams.filter (·.sched.cluster == c)).length + recNrole l.record ≤ 256) &&
    s.canPlace c (recScr l.record) (recNrole l.record) s.taken

/-- The cluster of a launch's next place: the one with the fewest admitted teams, then the lowest. -/
def State.clusterFor (s : State) (l : Launch) : Option Nat :=
  let cs := (s.vis.getD l.vi State.resetVi).clusterList.filter (s.clusterFits l)
  cs.foldl (fun best c => match best with
    | none => some c
    | some b => if s.admittedOn c < s.admittedOn b then some c else some b) none

/-- Whether a launch has a place waiting that can be admitted. -/
def State.admissible (s : State) (l : Launch) : Bool :=
  l.began && decide (l.place < recPlaces l.record) && !s.shedClass (s.cfgRead l.q).pclass && (s.clusterFor l).isSome

/-- The launch whose place goes first: by priority, then round robin by queue number. -/
def State.grantee (s : State) : Option Launch :=
  let ls := s.sched.launches.filter s.admissible
  let top := ls.foldl (fun m l => max m (s.cfgRead l.q).prio) 0
  let ls := ls.filter fun l => (s.cfgRead l.q).prio = top
  let from_ := match lookupKey top s.sched.lastGrant with | some q => q + 1 | none => 0
  let rank := fun (l : Launch) => (l.q + 1024 - from_ % 1024) % 1024
  ls.foldl (fun best l => match best with
    | none => some l
    | some b => if rank l < rank b then some l else some b) none

/-- The parking areas that are in use. -/
def State.parkingTaken (s : State) : Taken :=
  (s.teams.filter fun t => t.sched.life != .retired).map fun t => (t.sched.parking, 0x150000)

/-- Whether the areas that the scheduler chose are free: parking in HBM4, aligned to 64 KiB, apart from one another and
from every other; team-table slots free and distinct. -/
def State.areasFree (s : State) (cluster : Nat) : List Area → Taken → List Nat → Bool
  | [], _, _ => true
  | a :: r, parks, slots =>
    a.parking % 65536 == 0 && decide (a.parking + 0x150000 ≤ Config.hbmEnd) &&
      !(parks.any fun (b, n) => decide (b < a.parking + 0x150000) && decide (a.parking < b + n)) &&
      decide (a.slot < 256) && !slots.contains a.slot &&
      s.areasFree cluster r ((a.parking, 0x150000) :: parks) (a.slot :: slots)

def State.slotsTaken (s : State) (cluster : Nat) : List Nat :=
  (s.teams.filter (·.sched.cluster == cluster)).map (·.sched.slot)

/-- The vault bytes of a scratch region pass to the interface of its place. DEDUCED (log 74). -/
def State.claimVault (s : State) (vi base scr : Nat) : State :=
  (List.range (scratchPages scr)).foldl (fun s i => s.passPage vi ((base - Config.vaultBase) / 4096 + i)) s

/-- A valid entry of the scratch-map table (R328). -/
def mapEntry (e : List Byte) (handle : DWord) (role scr : Nat) : Option ScratchMap :=
  let ctl := leField e 8 1
  let m : ScratchMap := ⟨leField e 16 4, leField e 20 4, leField e 24 8, [], []⟩
  if decide (leField e 0 8 = handle.toNat) && decide (128 ≤ ctl) && decide (ctl / 4 % 32 = 0) && decide (ctl % 4 = role) &&
      allZero e 9 7 && decide (m.gva < 2 ^ 57) && decide (m.gva % 128 = 0) && decide (m.off % 128 = 0) && decide (m.len % 128 = 0) &&
      decide (128 ≤ m.len) && decide (m.len ≤ 4194304) && decide (m.off + m.len ≤ scr) then some m else none

/-- The maps of a team: valid entries in order, at most 8, none overlapping an earlier one. -/
def State.mapsFor (s : State) (vi : Nat) (handle : DWord) (role scr : Nat) : List ScratchMap :=
  let base := (s.vis.getD vi State.resetVi).smapbase
  (List.range 256).foldl (fun ms i =>
    match mapEntry (s.mem.bytes (base + 32 * i) 32) handle role scr with
    | some m =>
      if decide (8 ≤ ms.length) || ms.any (fun x => decide (x.off < m.off + m.len) && decide (m.off < x.off + x.len)) then ms else ms ++ [m]
    | none => ms) []

/-- What the launch fixes for role i of a place (R307). -/
def Launch.constOf (l : Launch) (i place : Nat) : TeamConst :=
  let r := l.record
  let x := recRole r i
  let ex := recExt r 0
  let ey := recExt r 1
  { launch := l.id, vi := l.vi, serial := l.serial, asid := l.asid, role := i, nrole := recNrole r, h := roleH x, n := roleN x,
    tables := roleTables x, tiles := roleTiles x, ex := ex, ey := ey, ez := recExt r 2,
    x := place % ex, y := place / ex % ey, z := place / (ex * ey),
    entry := l.text + BitVec.ofNat 64 (roleEntry x), argp := BitVec.ofNat 64 (leField r 56 8), handle := BitVec.ofNat 64 (leField r 0 8),
    scr := recScr r, slots := (List.range 8).map fun n => BitVec.ofNat 128 (leField r (128 + 16 * n) 16) }

/-- The entries of a place: role i with its areas and its region. DEDUCED (log 26). -/
def State.admitTeams (s : State) (l : Launch) (cluster : Nat) : Nat → List (Area × Nat) → State
  | _, [] => s
  | i, (a, scratch) :: r =>
    let cfg := s.cfgRead l.q
    let text := match s.object? l.vi (BitVec.ofNat 64 (leField l.record 0 8)) with | some o => BitVec.ofNat 64 o.text | none => l.text
    let c := { l with text := text }.constOf i l.place
    let sch : TeamSched :=
      { life := .admitted, started := false, cluster := cluster, core := 0, slot := a.slot, order := s.sched.order,
        prio := cfg.prio, pclass := cfg.pclass, waits := 0, boosted := false, level := 2, parking := a.parking,
        scratch := scratch, saveDue := none, shedPark := false, rests := none }
    let t := freshTeam s.sched.nextTeam c 0 sch
    let t := { t with maps := s.mapsFor l.vi c.handle i c.scr }
    let s := s.claimVault l.vi scratch c.scr
    ({ s with teams := s.teams ++ [t], sched.nextTeam := s.sched.nextTeam + 1, sched.order := s.sched.order + 1 } : State).admitTeams l cluster (i + 1) r

/-- The next place of a launch is admitted to a cluster, with all its siblings at once. DEDUCED (log 25). -/
def execPlaceAdmit (launch : Nat) (areas : List Area) (s : State) : Host.Outcome State Fault Refusal :=
  match s.launch? launch with
  | none => .refused (.notEnabled "PLACE_ADMIT")
  | some l =>
    match s.clusterFor l with
    | none => .refused (.notEnabled "PLACE_ADMIT")
    | some c =>
      match s.placeRegions c (recScr l.record) areas s.taken with
      | none => .refused (.notEnabled "PLACE_ADMIT")
      | some regions =>
        if areas.length = recNrole l.record ∧ (s.grantee.map (·.id)) = some launch ∧
            s.areasFree c areas s.parkingTaken (s.slotsTaken c) = true then
          let s := s.admitTeams l c 0 (areas.zip regions)
          let s := s.setLaunch { l with place := l.place + 1 }
          .next { s with sched.lastGrant := setKey (s.cfgRead l.q).prio l.q s.sched.lastGrant }
        else .refused (.notEnabled "PLACE_ADMIT")

end Sys2Proof.Machine
end

