-- ==== Sys2Proof/Machine/EngineSteps.lean ====
section
/-! DEFINITION. The steps of engine operations (R212 to R241): readiness, start, tile fetch, completion, the gang
latch, and the stream distributor. -/

namespace Sys2Proof.Machine

def qNum : EngineQueue → Nat | .q5 => 5 | .q6 => 6

/-- The operation at the head of an engine queue of a team that is on a core. -/
def State.engineHead (s : State) (id : Nat) (q : EngineQueue) : Option (Team × EngineOp) :=
  (s.team? id).bind fun t => if t.sched.life.holds then (t.getQ q).head?.map fun o => (t, o) else none

def Team.setOp (t : Team) (q : EngineQueue) (o : EngineOp) : Team :=
  t.setQ q ((t.getQ q).map fun x => if x.serial = o.serial then o else x)
def Team.dropOp (t : Team) (q : EngineQueue) (serial : Nat) : Team := t.setQ q ((t.getQ q).filter (·.serial != serial))

/-- The interlock between the queues on a table register (R212). -/
def Team.tableHolds (t : Team) (q : EngineQueue) (o : EngineOp) : Bool :=
  let other := match q with | .q5 => t.eng.q6 | .q6 => t.eng.q5
  match o.table with
  | none => false
  | some k => other.any fun x => x.table == some k && decide (x.serial < o.serial)

/-- Whether an operation runs on the engine of a team's core. -/
def State.engineTaken (s : State) (t : Team) : Bool :=
  s.teams.any fun u => u.sched.life.holds && u.coreId == t.coreId && (u.eng.q5 ++ u.eng.q6).any EngineOp.running

/-- Whether an operation may start, or start again after a page fault (R212, R214, R197, R232, R356): its descriptors have returned
(R369), and no operation occupies the engine, as one does that waits for its stores. -/
def State.opReady (s : State) (t : Team) (q : EngineQueue) (o : EngineOp) : Bool :=
  !o.late && !o.running && o.suspended.isNone && o.page.isNone && !t.tableHolds q o && !t.fenceHolds (qNum q) o.serial &&
    s.unitAwake t .matrix && !s.engineTaken t

/-! The shutter's view of an engine (R361). -/

/-- An operation is ready, and its engine requests a start from front cycle n on; an active engine goes on into it (R361). -/
def State.askStart (s : State) (t : Team) (q : EngineQueue) (o : EngineOp) (n : Nat) : State :=
  let e := s.engineOf t
  let e := if e.active then { e with filler := false } else { e with request := some (e.request.getD n) }
  (s.setTeam (t.setOp q { o with asked := true })).setEngine t e

/-- The front cycle in which a request that is made now takes part in a boundary: the coming one, or the one after it where the
shutter has acted already at the coming one's boundary (R361, R369). -/
def State.askTime (s : State) (t : Team) : Nat :=
  let n := s.clock t false + 1
  if (s.clusters[t.sched.cluster]?).any fun c => c.shutAt == n && n % 4 == 0 then n + 1 else n

/-- An operation that becomes ready requests its start from the coming front cycle on (R369). DEDUCED (log 16). -/
def execEngineReady (team : Nat) (q : EngineQueue) (s : State) : Host.Outcome State Fault Refusal :=
  match s.engineHead team q with
  | some (t, o) =>
    if s.opReady t q o && !o.asked then .next (s.askStart t q o (s.askTime t))
    else .refused (.notEnabled "ENGINE_READY")
  | none => .refused (.notEnabled "ENGINE_READY")

/-! Faults of operations. -/

/-- A page fault suspends an operation of Q5 (R232). -/
def Team.suspendOp (t : Team) (q : EngineQueue) (o : EngineOp) (va : Nat) : Team :=
  let f : PendFault := ⟨0x06, addrInfo va ||| (1 <<< 61) ||| (BitVec.ofNat 64 (qNum q) <<< 57), o.serial, false, false, false⟩
  Team.endWait { t.setOp q { o with suspended := some (BitVec.ofNat 64 va), paused := true, asked := false } with
    iss.faults := insertFault f t.iss.faults }

/-- What stops an access of an operation: a page of mapped scratch is asked for, any other page suspends it, an
error ends it (R232, R329). -/
def State.opStop (s : State) (id : Nat) (q : EngineQueue) (o : EngineOp) (va : Nat) (e : QStop) : State :=
  match s.team? id with
  | none => s
  | some t =>
    match e with
    | .wait => s.setTeam (t.setOp q o)
    | .page g =>
      if inWindow va then (s.setTeam (t.setOp q { o with page := some (BitVec.ofNat 64 g) })).queuePage t g
      else (s.workEnds t o).setTeam (t.suspendOp q o va)
    | .error cause info => (s.setTeam (t.setOp q o)).failOp id (qNum q) o.serial cause info

/-- The stale and index-range faults of KMMA, at its start (R241). -/
def Team.tableFault (t : Team) (o : EngineOp) (k : Nat) (cause : BitVec 8) (info : Nat) : Team :=
  let serials := ((t.eng.q5 ++ t.eng.q6).filter fun x => x.serial == o.serial ||
    (decide (o.serial < x.serial) && !x.started)).map (·.serial)
  (t.failOps serials (some k) ⟨cause, BitVec.ofNat 64 info, o.serial, false, false, false⟩).endWait

/-! Start. -/

/-- Arming the watch range of a build: contents gone, the range watched (R235). -/
def State.armBuild (s : State) (t : Team) (k : Nat) (ty : ElemType) (sl : Nat) (d : List Byte) : Option Team :=
  let o := opDesc d
  let w := watchRange o ty
  let tab := fun (at_ : Nat) => ({ emptyTable with st := .attached, slot := BitVec.ofNat 3 sl, desc := d, watchVa := w.1, watchAt := at_, watchLen := w.2 } : KTable)
  match s.window t o.base with
  | .wait => none
  | .ok (.scratch _ _ pa) => some { t with eng.k := setAt t.eng.k k (tab (pa + w.1 - o.base)) }
  | _ => some { t with eng.k := setAt t.eng.k k (tab 0) }

/-- The words that an MX.RESUME loads: the tiles, and the partial sums when they are live. -/
def resumeWords (h : List Byte) : Nat := 4096 * leField h 87 1 + (if leField h 86 1 = 0 then 0 else 4096)

/-- The address of word i of them (R230). -/
def resumeAddr (h : List Byte) (area i : Nat) : Nat :=
  let tiles := 4096 * leField h 87 1
  if i < tiles then area + 256 + 16384 + 4 * i else area + 256 + 4 * (i - tiles)

/-- A word of an operation's load, kept until all are there. -/
def runLoads (addr : Nat → Nat) (id : Nat) (q : EngineQueue) :
    Nat → State → EngineOp → State × EngineOp × Option (Nat × QStop)
  | 0, s, o => (s, o, none)
  | n + 1, s, o =>
    match s.qRead id o.serial (addr o.step % 2 ^ 57) 4 with
    | (s, .ok bs) => runLoads addr id q n s { o with step := o.step + 1, partials := o.partials.set o.step (BitVec.ofNat 32 (ofBytes bs)) }
    | (s, .error e) => (s, o, some (addr o.step % 2 ^ 57, e))

/-- The operation that a resumed header continues, in the batch of the MX.RESUME. -/
def continued (o : EngineOp) (i : Instr) (parts : Sparse 32) (step : Nat) : EngineOp :=
  let h := o.adesc
  { o with
    op := i, word := BitVec.ofNat 32 (leField h 0 4), mode := BitVec.ofNat 32 (leField h 4 4), gang := BitVec.ofNat 64 (leField h 8 8),
    adesc := (h.drop 16).take 32, bdesc := (h.drop 48).take 32, step := step, partials := parts,
    pv := decide (leField h 86 1 = 1), flags := BitVec.ofNat 5 (leField h 96 8), lines := [], stream := none, alone := true,
    joint := none, kept := none, started := false, asked := true }

/-- An MX.RESUME has loaded its words: tiles into C, then the operation it continues, or its end. DEDUCED (log 36). -/
def Team.resumeLoaded (t : Team) (o : EngineOp) : Team × Option EngineOp :=
  let h := o.adesc
  let n := 4096 * leField h 87 1
  let c := t.regs.c.setAll ((List.range n).map fun i => (i, o.partials.get i))
  let parts := Sparse.setAll [] ((List.range 4096).map fun i => (i, o.partials.get (n + i)))
  let t := { t with regs.c := c }
  match headerOp h with
  | some i =>
    match t.opShape i ((h.drop 48).take 32) with
    | some (_, rows) => (t, some (continued o i (if leField h 86 1 = 0 then [] else parts) (headerStep h rows)))
    | none => (t, none)
  | none => (t, none)

/-- The check of a KMMA at its start, or at its resumption (R238, R279): cause and detail of its fault. -/
def Team.kmmaCheck (t : Team) (o : EngineOp) (k : Nat) : Option (BitVec 8 × Nat) :=
  let tab := t.table k
  let w := opDesc o.bdesc
  if tab.st = .empty ∨ tab.st = .stale then some (0x08, k + 4 * tabCode tab.st + (if o.alone then 32 else 0))
  else if !o.alone && (decide (tab.rows < 32) || decide (tab.groups < w.kgn)) then
    some (0x09, k + tab.rows * 2 ^ 8 + tab.groups * 2 ^ 16 + w.kgn * 2 ^ 20)
  else none

/-- A granted operation starts, or starts again where a page fault has suspended it (R214, R232, R235, R238). -/
def State.startOp (s : State) (t : Team) (q : EngineQueue) (o : EngineOp) : State :=
  let go := fun (t : Team) => s.setTeam (t.setOp q { o with started := true, paused := false, begun := s.clock t true })
  if o.started then go t
  else match o.op with
  | .mxKmma _ _ a _ _ _ _ =>
    match t.kmmaCheck o a.toNat with
    | some (cause, info) => (s.engineEnds t).setTeam (t.tableFault o a.toNat cause info)
    | none => go t
  | .tblKbuild k sl _ =>
    match s.armBuild t k.toNat ((slotTypeA (t.slot sl)).getD .bf16) sl.toNat o.adesc with
    | some t => go t
    | none => s
  | _ => go t

/-- Whether an operation has been granted its start: its engine is active and takes it. -/
def State.mayStart (s : State) (t : Team) (q : EngineQueue) (o : EngineOp) : Bool :=
  s.opReady t q o && o.asked && (s.engineOf t).active

def execEngineOpStart (team : Nat) (q : EngineQueue) (s : State) : Host.Outcome State Fault Refusal :=
  match s.engineHead team q with
  | none => .refused (.notEnabled "ENGINE_OP_START")
  | some (t, o) => if s.mayStart t q o then .next (s.startOp t q o) else .refused (.notEnabled "ENGINE_OP_START")

/-- The engine queues of a core, its teams in admission order: what a front cycle looks at. -/
def State.coreQueues (s : State) (cluster core : Nat) : List (Nat × EngineQueue) :=
  (s.teams.filter fun t => t.sched.life.holds && t.sched.cluster == cluster && t.sched.core == core).flatMap fun t =>
    [(t.id, .q5), (t.id, .q6)]

/-- In a front cycle, the operations of a core that are ready request their start (R369). -/
def State.askReady (s : State) (cluster core : Nat) : State :=
  (s.coreQueues cluster core).foldl (fun s x =>
    match s.engineHead x.1 x.2 with
    | some (t, o) => if s.opReady t x.2 o && !o.asked then s.askStart t x.2 o (s.askTime t) else s
    | none => s) s

/-- The first operation of a core that has been granted its start begins (R361, R369). -/
def State.startGranted (s : State) (cluster core : Nat) : State :=
  match (s.coreQueues cluster core).findSome? fun x => (s.engineHead x.1 x.2).bind fun y =>
      if s.mayStart y.1 x.2 y.2 then some (y.1, x.2, y.2) else none with
  | some (t, q, o) => s.startOp t q o
  | none => s

/-! Tile fetch (R217). -/

/-- The dense product that an operation computes. -/
def Team.mmaOf (t : Team) (o : EngineOp) : Option Mma :=
  match o.op with
  | .mxMma _ sl _ _ acc _ ta tb =>
    let q := t.slot sl
    some ⟨opDesc o.adesc, opDesc o.bdesc, (slotTypeA q).getD .bf16, (slotTypeB q).getD .bf16, ta, tb, acc⟩
  | _ => none

/-- The number of step boundaries of an operation (R230). -/
def Team.totalSteps (t : Team) (o : EngineOp) : Nat :=
  match t.opShape o.op o.bdesc with
  | some (depths, rows) => depths * rows * 4
  | none => 0

/-- The bytes that an operation's own fetches need up to a step boundary; those of a stream's tile apart. -/
def Team.opNeeds (t : Team) (o : EngineOp) (upto : Nat) : List (Nat × Nat) :=
  match o.op with
  | .mxMma _ _ _ _ _ _ _ _ =>
    match t.mmaOf o with
    | some m => m.needsA o.step upto ++ (if o.stream.isSome then [] else m.needsB o.step upto)
    | none => []
  | .mxKmma _ _ _ _ _ _ _ => if o.stream.isSome then [] else kmmaNeeds (opDesc o.bdesc) o.step upto
  | .tblKbuild _ sl _ => buildNeeds (opDesc o.adesc) ((slotTypeA (t.slot sl)).getD .bf16)
  | _ => []

/-- The bytes of B that an operation needs up to a step boundary. -/
def Team.tileNeedsTo (t : Team) (o : EngineOp) (upto : Nat) : List (Nat × Nat) :=
  match o.op with
  | .mxMma _ _ _ _ _ _ _ _ => match t.mmaOf o with | some m => m.needsB o.step upto | none => []
  | .mxKmma _ _ _ _ _ _ _ => kmmaNeeds (opDesc o.bdesc) o.step upto
  | _ => []

/-- The bytes of B that an operation needs. -/
def Team.tileNeeds (t : Team) (o : EngineOp) : List (Nat × Nat) := t.tileNeedsTo o (t.totalSteps o)

/-- The 128-byte lines of some byte ranges. -/
def linesOf (need : List (Nat × Nat)) : List Nat := (need.flatMap fun (a, n) => [a / 128 * 128, (a + n - 1) / 128 * 128]).eraseDups

/-- The bytes of B that an operation of a gang shares with the other members, which its joint issue has made fetch them once (R225). -/
def Team.sharedNeeds (t : Team) (o : EngineOp) : List (Nat × Nat) :=
  if o.joint.isNone || o.stream.isSome then [] else t.tileNeeds o

/-- A line goes to the operation that fetched it, and a line of a gang's B to every member that lacks it. -/
def State.deliver (s : State) (id : Nat) (q : EngineQueue) (o : EngineOp) (line : Nat) (bs : List Byte) (shared : Bool) : State :=
  { s with teams := s.teams.map fun u =>
      u.setQ q ((u.getQ q).map fun x =>
        if (lookupKey line x.lines).isNone &&
            ((u.id == id && x.serial == o.serial) || (shared && x.joint == o.joint && (linesOf (u.sharedNeeds x)).contains line))
        then { x with lines := (line, bs) :: x.lines } else x) }

/-- Whether a store of another team of some kind to a line has not registered at its home, or is on its way to another member: what
one of them fetches for all must hold what each has stored before (R253). -/
def State.othersPending (s : State) (t : Team) (line : Nat) (who : Team → Bool) : Bool :=
  let p := s.xlate t line needR
  s.teams.any fun u => u.id != t.id && who u && (u.pendingAt 128 p ||
    (match p with
      | .ok (.remote d pa) => s.pod.reqs.any fun r => r.team == u.id && r.dev == d && r.pa / 256 == pa / 256 && !RemoteKind.isRead r.kind
      | _ => false))

/-- The tile fetch unit reads a line of the operand; one that a gang shares, once every member's earlier stores to it have
registered. -/
def execTileFetch (team : Nat) (q : EngineQueue) (va : DWord) (s : State) : Host.Outcome State Fault Refusal :=
  match s.engineHead team q with
  | none => .refused (.notEnabled "TILE_FETCH")
  | some (t, o) =>
    let need := t.opNeeds o (t.totalSteps o)
    let line := va.toNat
    let shared := (linesOf (t.sharedNeeds o)).contains line
    let waits := shared && s.othersPending t line fun u => (u.getQ q).any fun x => x.joint == o.joint
    if o.running && o.page.isNone && (linesOf need).contains line && (lookupKey line o.lines).isNone && !waits then
      match s.qReadFor team o.serial line 128 need with
      | (s, .ok bs) => .next (s.deliver team q o line bs shared)
      | (s, .error e) => .next (s.opStop team q o (firstUsed need line 128) e)
    else .refused (.notEnabled "TILE_FETCH")

/-! Streams (R220). -/

/-- The stream of a team's cluster with an identity, closed or not. -/
def State.streamAt (s : State) (t : Team) (id : Nat) : Option Stream :=
  (s.clusters[t.sched.cluster]?).bind fun c => c.streams.find? (·.id == id)

/-- The lines of a stream's tile that the distributor has fetched. -/
def State.tileLines (s : State) (t : Team) (o : EngineOp) : Lines :=
  match o.stream with
  | none => []
  | some (n, k) => ((s.streamAt t n).bind fun st => lookupKey k st.tiles).getD []

/-- The live subscriptions of a stream: window and count; a closed one has none. -/
def State.subsOf (s : State) (st : Stream) : List (Nat × Nat) :=
  if st.closed then [] else s.teams.filterMap fun u =>
    if u.const.launch == st.launch && u.const.placeNo == st.place && u.sched.life != .retired then u.sub? st.num else none

/-- Whether the distributor takes up the next tile: enough teams have subscribed, and the windows reach it. -/
def State.tileDue (s : State) (st : Stream) : Bool :=
  decide (st.next < streamCount st.desc) && decide (streamSubs st.desc ≤ st.joined) &&
    (s.subsOf st).all fun (w, c) => decide (st.next < c + w)

/-- The first line of a tile in hand that an operation under way needs and the distributor has not fetched. -/
def State.tileWant (s : State) (st : Stream) : Option (Team × EngineOp × Nat × Nat) :=
  s.teams.findSome? fun u =>
    if u.const.launch == st.launch && u.const.placeNo == st.place && u.sched.life.holds then
      u.eng.q5.head?.bind fun o => match o.stream with
        | some (n, k) =>
          if o.running && o.page.isNone && n == st.id then (lookupKey k st.tiles).bind fun ls =>
            ((linesOf (u.tileNeeds o)).find? fun l => (lookupKey l ls).isNone).map fun l => (u, o, k, l)
          else none
        | none => none
    else none

/-- The distributor takes up the next tile of a stream, or fetches a line of one in hand, once for every subscriber: the
operations that name the tile give the format, and so the lines. DEDUCED (log 33). -/
def execStreamTileFetch (cluster stream : Nat) (s : State) : Host.Outcome State Fault Refusal :=
  match (s.clusters[cluster]?).bind fun c => c.streams[stream]? with
  | none => .refused (.notEnabled "STREAM_TILE_FETCH")
  | some st =>
    let put := fun (s : State) (st : Stream) => s.mapCluster cluster fun c => { c with streams := setAt c.streams stream st }
    if s.tileDue st then .next (put s { st with next := st.next + 1, tiles := st.tiles ++ [(st.next, [])] })
    else match s.tileWant st with
      | none => .refused (.notEnabled "STREAM_TILE_FETCH")
      | some (u, o, k, line) =>
        let need := u.tileNeeds o
        if s.othersPending u line fun v => v.eng.q5.any fun x => x.stream == some (st.id, k) then
          .refused (.notEnabled "STREAM_TILE_FETCH")
        else match s.qReadFor u.id o.serial line 128 need with
        | (s, .ok bs) =>
          .next (put s { st with tiles := st.tiles.map fun x => if x.1 = k then (k, (line, bs) :: x.2) else x })
        | (s, .error e) => .next (s.opStop u.id .q5 o (firstUsed need line 128) e)

/-! Completion. -/

/-- Word i of a tile in memory (R228). -/
def EngineOp.wordAt (o : EngineOp) (i : Nat) : Nat :=
  (((o.addr.toNat : Int) + (i / 64 : Nat) * o.pitch.toInt + (4 * (i % 64) : Nat)) % ((2 ^ 57 : Nat) : Int)).toNat

/-- Storing words from `o.step` on. -/
def runStores (addr : Nat → Nat) (val : Nat → Word) (id : Nat) (q : EngineQueue) :
    Nat → State → EngineOp → State × EngineOp × Option (Nat × QStop)
  | 0, s, o => (s, o, none)
  | n + 1, s, o =>
    match s.qWrite id o.serial (addr o.step % 2 ^ 57) (toBytes 4 (val o.step).toNat) with
    | (s, .ok _) => runStores addr val id q n s { o with step := o.step + 1 }
    | (s, .error e) => (s, o, some (addr o.step % 2 ^ 57, e))

/-- What MX.SAVE writes, by word: a header with no operation, then the tiles (R230, R231). -/
def saveAddr (area i : Nat) : Nat := if i < 64 then area + 4 * i else area + 256 + 16384 + 4 * (i - 64)
def Team.saveWord (t : Team) (i : Nat) : Word :=
  if i < 64 then (if i = 21 then BitVec.ofNat 32 (t.const.tiles * 2 ^ 24) else 0) else t.regs.c.get (i - 64)

/-- The invalid flag of a dense product: some output has met an invalid case, and no NaN operand (R55, R74). -/
def EngineOp.lateFlags (o : EngineOp) : Nat := if o.pend.any (!o.nans.contains ·) then fInvalid else 0

/-- An operation is over: its flags go to TFLAGS and it leaves its queue. -/
def State.endOp (s : State) (t : Team) (q : EngineQueue) (o : EngineOp) (flags : Nat) : State :=
  (((s.endRequests t.id o.serial fun _ => true).workEnds t o).setTeam
    ((t.setFlags (o.flags.toNat ||| flags ||| o.lateFlags)).dropOp q o.serial)).closeStreams t.sched.cluster

/-- After the loads or stores of an operation: over, or stopped, or waiting for answers. -/
def State.afterMoves (s : State) (id : Nat) (q : EngineQueue) (o : EngineOp) (stop : Option (Nat × QStop))
    (finish : State → Team → State) : State :=
  match stop with
  | some (va, e) => s.opStop id q o va e
  | none =>
    let s := s.qFinish id o.serial
    match s.team? id with
    | none => s
    | some t => if s.qBusy id o.serial then s.setTeam (t.setOp q o) else finish s t

/-- The end of an operation between two step boundaries: tile, partial sums and flags (R222, R238). Between two weight blocks,
after each 32 steps, no partial sum is live (R76, R230). A tile that is written before the operation's end is kept as it stood
at the start (R232). -/
def Team.computeOp (t : Team) (o : EngineOp) (tile : Lines) (upto : Nat) : Team × EngineOp :=
  let kept := some (o.kept.getD t.regs.c)
  match o.op with
  | .mxMma c _ _ _ _ _ _ _ =>
    match t.mmaOf o with
    | some m =>
      let r := mmaRun m o.lines (if o.stream.isSome then tile else o.lines) o.step upto c.toNat t.regs.c o.pend
      ({ t with regs.c := r.1 }, { o with step := upto, flags := o.flags ||| BitVec.ofNat 5 r.2.1, kept := kept,
                                          pend := o.pend ++ r.2.2.1, nans := o.nans ++ r.2.2.2 })
    | none => (t, o)
  | .mxKmma c _ a _ acc _ hi =>
    let r := kmmaRun (t.table a.toNat).entries (opDesc o.bdesc) (if o.stream.isSome then tile else o.lines) acc o.step upto
      (4096 * c.toNat + (if hi then 2048 else 0)) t.regs.c o.partials
    ({ t with regs.c := r.1 },
      { o with step := upto, partials := r.2.1, pv := decide (upto % 32 ≠ 0), flags := o.flags ||| BitVec.ofNat 5 r.2.2, kept := kept })
  | _ => (t, o)

/-- A build is over: the table is filled, unless a write has made it stale meanwhile. -/
def Team.buildDone (t : Team) (o : EngineOp) (k sl : Nat) (entries : Sparse 32) : Team :=
  let d := opDesc o.adesc
  let tab := t.table k
  let tab := { tab with rows := d.rows, groups := d.kgn, slot := BitVec.ofNat 3 sl, desc := o.adesc,
                        entries := if tab.st = .attached then entries else [] }
  { t with eng.k := setAt t.eng.k k tab }

def Team.setTab (t : Team) (k : Nat) (f : KTable → KTable) : Team := { t with eng.k := setAt t.eng.k k (f (t.table k)) }

def kdetach (k : KTable) : KTable :=
  match k.st with
  | .attached => { k with st := .detached, watchVa := 0, watchAt := 0, watchLen := 0 }
  | .stale => emptyTable
  | _ => k

/-- Whether an operation has every line that its steps up to a boundary need. -/
def State.opFetched (s : State) (t : Team) (o : EngineOp) (upto : Nat) : Bool :=
  (linesOf (t.opNeeds o upto)).all (fun l => (lookupKey l o.lines).isSome) &&
    (o.stream.isNone || (linesOf (t.tileNeedsTo o upto)).all fun l => (lookupKey l (s.tileLines t o)).isSome)

/-- An operation completes (R213). DEDUCED (log 3). -/
def execEngineOpComplete (team : Nat) (q : EngineQueue) (s : State) : Host.Outcome State Fault Refusal :=
  match s.engineHead team q with
  | none => .refused (.notEnabled "ENGINE_OP_COMPLETE")
  | some (t, o) =>
    if o.running && o.page.isNone && s.opFetched t o (t.totalSteps o) then
      match o.op with
      | .mxZero c => .next (s.endOp { t with regs.c := t.regs.c.setAll ((List.range 4096).map fun i => (4096 * c.toNat + i, 0)) } q o 0)
      | .mxAccrd c _ _ =>
        let (s, o, e) := runStores o.wordAt (fun i => t.regs.c.get (4096 * c.toNat + i)) team q (4096 - o.step) s o
        .next (s.afterMoves team q o e fun s t => s.endOp t q o 0)
      | .mxAccwr c _ _ =>
        let (s, o, e) := runLoads o.wordAt team q (4096 - o.step) s o
        .next (s.afterMoves team q o e fun s t =>
          s.endOp { t with regs.c := t.regs.c.setAll ((List.range 4096).map fun i => (4096 * c.toNat + i, o.partials.get i)) } q o 0)
      | .mxSave _ =>
        let n := 64 + 4096 * t.const.tiles
        let (s, o, e) := runStores (saveAddr o.addr.toNat) t.saveWord team q (n - o.step) s o
        .next (s.afterMoves team q o e fun s t => s.endOp t q o 0)
      | .mxResume _ =>
        let (s, o, e) := runLoads (resumeAddr o.adesc o.addr.toNat) team q (resumeWords o.adesc - o.step) s o
        .next (s.afterMoves team q o e fun s t =>
          match t.resumeLoaded o with
          | (t, some o') => (s.workEnds t o).setTeam (t.setOp q o')
          | (t, none) => s.endOp t q o 0)
      | .tblKbuild k sl _ =>
        let r := buildTable (opDesc o.adesc) ((slotTypeA (t.slot sl)).getD .bf16) o.lines
        .next (s.endOp (t.buildDone o k.toNat sl.toNat r.1) q o r.2)
      | .tblKinv k => .next (s.endOp (t.setTab k.toNat fun _ => emptyTable) q o 0)
      | .tblKdetach k => .next (s.endOp (t.setTab k.toNat kdetach) q o 0)
      | _ =>
        let (t, o) := t.computeOp o (s.tileLines t o) (t.totalSteps o)
        .next (s.endOp t q o 0)
    else .refused (.notEnabled "ENGINE_OP_COMPLETE")

/-! The gang latch (R225, R100). -/

/-- Function, slot, flags and B register of a gang word. -/
def gangKey (w : Word) : Nat × Nat × Nat × Nat := (field w 4 4, field w 20 3, field w 0 4, field w 8 6)

/-- What a member is recorded with: its word, whether it has an operation, its descriptor of B. -/
def Team.latched (t : Team) : Option (Word × Bool × List Byte) :=
  match t.iss.withheld with | some (_, .gang w l _ db) => some (w, l, db) | _ => none

/-- Whether two members name one B: the same stream, or byte-equal descriptors, as their arrivals read them. -/
def sameB (x y : DWord) (dx dy : List Byte) : Bool :=
  match bOperand x, bOperand y with
  | .stream n, .stream m => n == m
  | .desc _, .desc _ => dx == dy
  | _, _ => false

/-- Whether two members' instructions match. -/
def gangMatch (t u : Team) (x y : Word × Bool × List Byte) : Bool :=
  let k := gangKey x.1
  let l := gangKey y.1
  k.1 == l.1 && k.2.1 == l.2.1 && k.2.2.1 == l.2.2.1 && sameB (t.readS k.2.2.2) (u.readS l.2.2.2) x.2.2 y.2.2

/-- A member issues its operation, with the descriptors that its arrival read; `lead` names the gang. -/
def State.jointIssue (s : State) (weight : Nat) (lead : Nat × Nat) (id : Nat) : State :=
  match s.team? id with
  | none => s
  | some t =>
    match t.iss.withheld with
    | some (fi, .gang w _ da db) =>
      s.gangIssues t weight fun s t =>
        let c : Ctx := ⟨s, t, fi⟩
        let e := match decode w with
          | .ok (.mxMma x sl a b acc g ta tb) => c.takeProduct s t (.mxMma x sl a b acc g ta tb) b da db (some lead)
          | .ok (.mxKmma x sl a b acc g hi) => c.takeProduct s t (.mxKmma x sl a b acc g hi) b da db (some lead)
          | _ => .next s t
        e.finish s t fi w
    | _ => s

/-- A member that arrived with no operation completes as a probe NOP. DEDUCED (log 59). -/
def Team.gangNop (t : Team) : Team :=
  match t.iss.withheld with
  | some (fi, _) => ({ t with iss.withheld := none }.setFlags flagProbe).fallThrough fi
  | none => t

/-- The rendezvous of the gang of a recorded team: the teams that its GANG lists. A cluster whose scheduler is rebuilding issues
nothing (R276). DEDUCED (log 59). -/
def execGangRendezvous (team : Nat) (s : State) : Host.Outcome State Fault Refusal :=
  match s.team? team with
  | none => .refused (.notEnabled "GANG_RENDEZVOUS")
  | some t =>
    match t.latched with
    | none => .refused (.notEnabled "GANG_RENDEZVOUS")
    | some x =>
      let weight := s.pwr.gangWeight
      if (s.clusters[t.sched.cluster]?).any (·.halted) then .refused (.notEnabled "GANG_RENDEZVOUS")
      else if gangN t.regs.gang < 2 ∨ 6 < gangN t.regs.gang then .next (s.gangTraps weight 2 [t])
      else if !s.gangOk t then .next (s.gangTraps weight 1 (s.teams.filter fun u => u.id == t.id || u.latchedWith t))
      else
        let ms := (gangSlots t.regs.gang).eraseDups.filterMap (s.siblingAt t)
        if ms.all (·.latchedWith t) then
          if ms.all fun u => (u.latched.map (·.2.1)) == some false then
            .next (ms.foldl (fun s u => s.gangIssues u (field s.pwr.aw1 16 16) fun s _ =>
              s.setTeam ({ u with sched.waits := 0, sched.boosted := false } : Team).gangNop) s)
          else if ms.all fun u => match u.latched with
              | some y => y.2.1 && sameSlots u.regs.gang t.regs.gang && gangMatch t u x y
              | none => false then
            .next (ms.foldl (fun s u => s.jointIssue weight (t.id, t.eng.next) u.id) s)
          else .next (s.gangTraps weight 0 ms)
        else .refused (.notEnabled "GANG_RENDEZVOUS")

end Sys2Proof.Machine
end

