-- ==== Sys2Proof/Machine/Park.lean ====
section
/-! DEFINITION. The parking area (R269): what a save writes and what an unpark reads. -/

namespace Sys2Proof.Machine

/-! Writing. Cells are pairs of an offset in the area and a byte; the rest of the area is zero. -/

def cellsAt (a : Nat) (bs : List Byte) : List (Nat × Byte) := ((List.range bs.length).zip bs).map fun (i, b) => (a + i, b)
def cells8 (a : Nat) (x : DWord) : List (Nat × Byte) := cellsAt a (toBytes 8 x.toNat)
def cells4 (a : Nat) (x : Word) : List (Nat × Byte) := cellsAt a (toBytes 4 x.toNat)
def cellsMask (a : Nat) (m : LaneMask) : List (Nat × Byte) := cellsAt a (toBytes 128 m.toNat)

/-- A code address that may be absent: bit 0 tells that it is there. -/
def optAddr (p : Option DWord) : DWord := match p with | some x => x ||| 1 | none => 0
def addrOpt (x : DWord) : Option DWord := if x.getLsbD 0 then some (x &&& ~~~(3 : DWord)) else none

/-- The words of a sparse store, by the offset of each key. -/
def cellsOf (s : Sparse 32) (at_ : Nat → Option Nat) : List (Nat × Byte) :=
  s.flatMap fun (k, x) => match at_ k with | some a => cells4 a x | none => []

def loopCells (a : Nat) (es : List LoopEntry) : List (Nat × Byte) :=
  ((List.range es.length).zip es).flatMap fun (i, e) =>
    cells8 (a + 32 * i) e.first ++ cells8 (a + 32 * i + 8) e.last ++ cells8 (a + 32 * i + 16) e.remaining ++
      cells8 (a + 32 * i + 24) (BitVec.ofNat 64 e.linkDepth)

def fragCode : FragState → Nat | .free => 0 | .running => 1 | .waiting => 2
def codeFrag (n : Nat) : FragState := if n = 1 then .running else if n = 2 then .waiting else .free

def fragCells (i : Nat) (f : Frag) : List (Nat × Byte) :=
  if f.st = .free then []
  else cells8 (0x500 + 32 * i) f.pc ++
    cellsAt (0x508 + 32 * i) [BitVec.ofNat 8 f.depth, BitVec.ofNat 8 f.level, BitVec.ofNat 8 (fragCode f.st)] ++
    cellsMask (0x800 + 128 * i) f.mask

def logCells (k : Nat) (e : LogEntry) : List (Nat × Byte) :=
  let a := 0x1C00 + 256 * k
  cells8 a e.pc ++ cellsMask (a + 8) e.mask ++ cells8 (a + 136) (BitVec.ofNat 64 e.data.length) ++
    cellsAt (a + 144) [if e.failed then 2 else 1] ++ cellsAt (0xB0000 + 8192 * k) e.data

/-- The transient results that are live, newest first, with their ages (R26). -/
def insertYoung (x : Transient) : List Transient → List Transient
  | [] => [x]
  | y :: r => if y.producer < x.producer then x :: y :: r else y :: insertYoung x r

def Team.liveBypass (t : Team) : List Transient :=
  (t.iss.bypass.filter (·.liveAt t.iss.issued)).foldl (fun acc x => insertYoung x acc) []

def Team.ageOf (t : Team) (x : Transient) : Nat := t.iss.issued - 1 - x.producer

/-- The header of an operation (R230): step counters apart. -/
def opHeader (a : Nat) (o : EngineOp) : List (Nat × Byte) :=
  cells4 a o.word ++ cells4 (a + 4) o.mode ++ cells8 (a + 8) o.gang ++ cellsAt (a + 16) (o.adesc.take 32) ++
    cellsAt (a + 48) (o.bdesc.take 32) ++ cells8 (a + 88) (BitVec.ofNat 64 o.batch) ++ cellsAt (a + 96) [o.flags.setWidth 8]

/-- The save area of an engine (R230). -/
def Team.engineCells (t : Team) (o : Option EngineOp) : List (Nat × Byte) :=
  let a := 0x8000
  (match o with
    | some o =>
      let rows := ((t.opShape o.op o.bdesc).map (·.2)).getD 1
      opHeader a o ++ cellsAt (a + 80) (toBytes 2 (o.step / 4 % rows) ++ toBytes 2 (o.step % 4) ++ toBytes 2 (o.step / (4 * rows))) ++
        cellsAt (a + 86) [if o.pv then 1 else 0] ++ (if o.pv then cellsOf o.partials (fun i => some (a + 256 + 4 * i)) else [])
    | none => []) ++
  cellsAt (a + 87) [BitVec.ofNat 8 t.const.tiles] ++ cellsOf t.regs.c (fun k => some (a + 256 + 16384 + 4 * k))

/-- The operations of a queue that have not started; one that goes on alone has its place in ENGINE (R278). -/
def Team.waitingOps (t : Team) (q : EngineQueue) : List EngineOp := (t.getQ q).filter fun o => !o.started && !o.alone

def queueCells (a : Nat) (os : List EngineOp) : List (Nat × Byte) :=
  ((List.range os.length).zip os).flatMap fun (i, o) => opHeader (a + 128 * i) o

def tableCells (n : Nat) (k : KTable) : List (Nat × Byte) :=
  let a := 0x700 + 64 * n
  cellsAt a [BitVec.ofNat 8 (tabCode k.st), BitVec.ofNat 8 k.rows, BitVec.ofNat 8 k.groups, k.slot.setWidth 8] ++
    cells8 (a + 8) (BitVec.ofNat 64 k.watchVa) ++ cells8 (a + 16) (BitVec.ofNat 64 k.watchLen) ++ cellsAt (a + 32) (k.desc.take 32) ++
    (if k.st = .detached then cellsOf k.entries (fun i => some (0x30000 + 131072 * n + 4 * i)) else [])

/-- RSCTL and LINKN. -/
def Team.rsctl (t : Team) : DWord :=
  BitVec.ofNat 64 (t.rep.snap.depth + t.rep.log.length * 2 ^ 8 + t.rep.consumed * 2 ^ 16 + (if t.rep.kentry then 2 ^ 24 else 0) +
    t.ctl.loop.length * 2 ^ 28 + t.ctl.rloop.length * 2 ^ 32)
def Team.linkn (t : Team) : DWord := BitVec.ofNat 64 (t.ctl.link.length + t.ctl.spilled * 2 ^ 16)

/-- The registers, stacks and control state of a team. -/
def Team.controlCells (t : Team) : List (Nat × Byte) :=
  let sn := t.rep.snap
  (t.regs.s.flatMap fun (k, x) => if k < 64 then cells8 (8 * k) x else []) ++
  (t.regs.g.flatMap fun (k, x) => cellsAt (0x200 + 16 * k) (toBytes 16 x.toNat)) ++
  cells4 0x380 t.mode ++ cells8 0x388 t.regs.gang ++
  ((List.range 8).flatMap fun p => cellsAt (0x390 + 2 * p) (toBytes 2 (t.counter p))) ++
  cells8 0x3A0 (optAddr sn.pend) ++ cells8 0x3A8 (BitVec.ofNat 64 sn.linkDepth) ++
  cells8 0x3B0 t.rsctl ++ cells8 0x3B8 t.linkn ++
  ((List.range t.ctl.link.length).zip t.ctl.link).flatMap (fun (i, x) => cells8 (0x3C0 + 8 * i) x) ++
  loopCells 0x440 t.ctl.loop ++
  ((List.range 8).zip t.ctl.fuse).flatMap (fun (i, x) => cells8 (0x4C0 + 8 * i) (x.getD 0)) ++
  ((List.range 8).zip t.ctl.frags).flatMap (fun (i, f) => fragCells i f) ++
  cellsMask 0x600 sn.mask ++
  cells8 0x680 (zext t.iss.dtrap.cause) ++ cells8 0x688 t.iss.dtrap.pc ++ cells8 0x690 t.iss.dtrap.tinfo ++
  (match t.iss.faults with | f :: _ => cells8 0x698 (zext f.cause) ++ cells8 0x6A0 f.tinfo | [] => []) ++
  cells8 0x6A8 (optAddr t.ctl.pend) ++
  cells8 0x6B0 (BitVec.ofNat 64 t.eng.opened) ++ cells8 0x6B8 (BitVec.ofNat 64 t.eng.closed) ++
  cells8 0x6C0 (BitVec.ofNat 64 ((t.waitingOps .q5).length + (t.waitingOps .q6).length * 2 ^ 8)) ++
  cellsMask 0xC00 allLanes ++ (t.regs.p.flatMap fun (k, x) => if 1 ≤ k ∧ k < 16 then cellsMask (0xC00 + 128 * k) x else []) ++
  (t.ctl.pstk.flatMap fun (d, x) => cellsMask (0x1400 + 128 * (d - 1)) x) ++
  ((List.range 16).zip t.rep.log).flatMap (fun (k, e) => logCells k e) ++
  loopCells 0x2C100 t.ctl.rloop

/-- The lane data of a team. -/
def Team.laneCells (t : Team) : List (Nat × Byte) :=
  let ys := t.liveBypass
  cellsOf t.regs.loupe (fun k => some (0x3000 + 4 * k)) ++
  ((List.range t.nLanes).flatMap fun l => cells4 (0x4000 + 4 * l) (t.srState l)) ++
  cellsAt 0x2C180 (BitVec.ofNat 8 ys.length :: ys.map fun x => BitVec.ofNat 8 (t.ageOf x)) ++
  ((List.range ys.length).zip ys).flatMap (fun (j, x) => cellsOf x.lanes fun l => some (0x2C200 + 4096 * j + 4 * l)) ++
  cellsOf t.regs.v (fun k => if k / 1024 < t.const.n ∧ k % 1024 < t.nLanes
    then some (0xD0000 + 128 * t.const.h * (k / 1024) + 4 * (k % 1024)) else none)

/-- The whole area: `o` is the Q5 operation in progress. -/
def State.parkCells (s : State) (t : Team) (o : Option EngineOp) : List (Nat × Byte) :=
  t.controlCells ++ ((List.range 32).flatMap fun n => cells8 (0x280 + 8 * n) ((s.sysreg t n).getD 0)) ++
  queueCells 0x6000 (t.waitingOps .q5) ++ queueCells 0x7000 (t.waitingOps .q6) ++
  ((List.range 4).zip t.eng.k).flatMap (fun (n, k) => tableCells n k) ++ t.engineCells o ++ t.laneCells

/-- Memory with the parking area written. -/
def Memory.park (m : Memory) (at_ : Nat) (cells : List (Nat × Byte)) : Memory :=
  Memory.writeBytes (m.filter fun c => decide (c.1 < at_) || decide (at_ + 0x150000 ≤ c.1)) (cells.map fun c => (at_ + c.1, c.2))

/-! Reading. -/

def Memory.le (m : Memory) (a n : Nat) : Nat := ofBytes (m.bytes a n)
def Memory.d8 (m : Memory) (a : Nat) : DWord := BitVec.ofNat 64 (m.le a 8)
def Memory.mask (m : Memory) (a : Nat) : LaneMask := BitVec.ofNat 1024 (m.le a 128)

/-- The words at some keys of a store. -/
def Memory.words (m : Memory) (keys : List Nat) (at_ : Nat → Nat) : Sparse 32 :=
  Sparse.setAll [] (keys.map fun k => (k, BitVec.ofNat 32 (m.le (at_ k) 4)))

def Memory.loops (m : Memory) (a n : Nat) : List LoopEntry :=
  (List.range n).map fun i => ⟨m.d8 (a + 32 * i), m.d8 (a + 32 * i + 8), m.d8 (a + 32 * i + 16), m.le (a + 32 * i + 24) 8⟩

/-- The registers of a parked team. -/
def Memory.parkedRegs (m : Memory) (p : Nat) (t : Team) : Regs :=
  { s := Sparse.setAll [] ((List.range 64).map fun k => (k, m.d8 (p + 8 * k))),
    v := m.words ((List.range t.const.n).flatMap fun n => (List.range t.nLanes).map fun l => 1024 * n + l)
      (fun k => p + 0xD0000 + 128 * t.const.h * (k / 1024) + 4 * (k % 1024)),
    p := Sparse.setAll [] ((List.range 15).map fun k => (k + 1, m.mask (p + 0xC80 + 128 * k))),
    g := Sparse.setAll [] ((List.range 8).map fun k => (k, BitVec.ofNat 128 (m.le (p + 0x200 + 16 * k) 16))),
    loupe := m.words (List.range 1024) (fun k => p + 0x3000 + 4 * k),
    c := m.words (List.range (4096 * t.const.tiles)) (fun k => p + 0x8000 + 256 + 16384 + 4 * k),
    mode := BitVec.ofNat 32 (m.le (p + 0x380) 4),
    gang := m.d8 (p + 0x388),
    srSeed := t.regs.srSeed,
    sr := m.words (List.range t.nLanes) (fun l => p + 0x4000 + 4 * l) }

def Memory.parkedSys (m : Memory) (p : Nat) : SysRegs :=
  let r := fun n => m.d8 (p + 0x280 + 8 * n)
  { tvec := r 0, tcause := r 1, tpc := r 2, tinfo := r 3, tflags := r 4, regpc := r 5, lsp := r 6, seed := r 14,
    gp := Sparse.setAll [] ((List.range 14).map fun i => (18 + i, r (18 + i))) }

/-- Split entry i; the splits that a fragment descends from stay with the team's record. -/
def Memory.parkedFrag (m : Memory) (p i : Nat) (f : Frag) : Frag :=
  let a := p + 0x500 + 32 * i
  let st := codeFrag (m.le (a + 10) 1 % 4)
  if st = .free then freeFrag
  else ⟨m.mask (p + 0x800 + 128 * i), m.d8 a, m.le (a + 8) 1 % 32, m.le (a + 9) 1 % 16, st, f.path, f.replay⟩

def Memory.parkedControl (m : Memory) (p : Nat) (t : Team) : Control :=
  let ctl := m.le (p + 0x3B0) 8
  let links := m.le (p + 0x3B8) 8
  { frags := (List.range 8).map fun i => m.parkedFrag p i (t.frag i),
    fuse := (List.range 8).map fun i => let x := m.d8 (p + 0x4C0 + 8 * i); if x = 0 then none else some x,
    pend := addrOpt (m.d8 (p + 0x6A8)),
    link := (List.range (links % 32)).map fun i => m.d8 (p + 0x3C0 + 8 * i),
    spilled := links / 2 ^ 16 % 2 ^ 32,
    loop := m.loops (p + 0x440) (ctl / 2 ^ 28 % 8),
    rloop := m.loops (p + 0x2C100) (ctl / 2 ^ 32 % 8),
    pstk := Sparse.setAll [] ((List.range 16).map fun d => (d + 1, m.mask (p + 0x1400 + 128 * d))),
    splits := t.ctl.splits }

/-- Log entry k; which operation it stands for stays with the team's record. -/
def Memory.parkedEntry (m : Memory) (p k : Nat) (e : Option LogEntry) : LogEntry :=
  let a := p + 0x1C00 + 256 * k
  ⟨m.d8 a, m.mask (a + 8), m.bytes (p + 0xB0000 + 8192 * k) (m.le (a + 136) 8), decide (m.le (a + 144) 1 % 4 = 2),
    (e.map (·.serial)).getD 0, e.bind (·.kreg)⟩

def Memory.parkedReplay (m : Memory) (p : Nat) (t : Team) : Replay :=
  let ctl := m.le (p + 0x3B0) 8
  { log := (List.range (ctl / 2 ^ 8 % 32)).map fun k => m.parkedEntry p k t.rep.log[k]?,
    consumed := ctl / 2 ^ 16 % 32,
    snap := ⟨m.mask (p + 0x600), ctl % 32, m.le (p + 0x3A8) 8, addrOpt (m.d8 (p + 0x3A0))⟩,
    kentry := decide (ctl / 2 ^ 24 % 2 = 1),
    splits := t.rep.splits }

def Memory.parkedBypass (m : Memory) (p : Nat) (t : Team) : List Transient :=
  (List.range (m.le (p + 0x2C180) 1 % 4)).map fun j =>
    ⟨t.iss.issued - 1 - m.le (p + 0x2C181 + j) 1, m.words (List.range t.nLanes) (fun l => p + 0x2C200 + 4096 * j + 4 * l)⟩

/-- The bytes of a build's operand as a team reads them where they lie. -/
def State.peek (s : State) (t : Team) (va n : Nat) : List Byte :=
  (List.range n).map fun i =>
    match s.xlate t ((va + i) % 2 ^ 57) needR with
    | .ok (.home pa) => ((s.readHome t false pa 1).2).headD 0
    | .ok (.scratch _ _ pa) => (s.readScratch t pa 1).headD 0
    | _ => 0

/-- The contents of a table before the team issues again (R240): rebuilt while it is still attached, or refilled. -/
def State.parkedTable (s : State) (t : Team) (p n : Nat) (k : KTable) : KTable :=
  match k.st with
  | .attached =>
    let d := opDesc k.desc
    let ty := (slotTypeA (t.slot k.slot)).getD .bf16
    let lines := (linesOf (buildNeeds d ty)).map fun l => (l, s.peek t l 128)
    { k with entries := (buildTable d ty lines).1 }
  | .detached => { k with entries := s.mem.words (List.range 32768) (fun i => p + 0x30000 + 131072 * n + 4 * i) }
  | _ => { k with entries := [] }

/-- The Q5 operation that was in progress, with the partial sums of the area. -/
def Memory.parkedOp (m : Memory) (p : Nat) (o : EngineOp) : EngineOp :=
  if o.pv then { o with partials := m.words (List.range 4096) (fun i => p + 0x8100 + 4 * i) } else o

/-- A parked team with what its area holds. DEDUCED (log 28). -/
def State.unparked (s : State) (t : Team) : Team :=
  let p := t.sched.parking
  let m := s.mem
  let t' := { t with
    regs := m.parkedRegs p t, sys := m.parkedSys p, ctl := m.parkedControl p t, rep := m.parkedReplay p t,
    iss.bypass := m.parkedBypass p t, iss.dtrap := ⟨0, 0, 0, false⟩,
    eng.opened := m.le (p + 0x6B0) 8, eng.closed := m.le (p + 0x6B8) 8,
    eng.q5 := t.eng.q5.map (m.parkedOp p) }
  { t' with eng.k := ((List.range t.eng.k.length).zip t.eng.k).map fun (n, k) => s.parkedTable t' p n k }

end Sys2Proof.Machine
end

