-- ==== Sys2Proof/Machine/Life.lean ====
section
/-! DEFINITION. A team's life after admission (R267 to R272, R317 to R319, R141): residency, pre-emption, parking and
forced saves, unparking, retiring, the end of a grid, migration. -/

namespace Sys2Proof.Machine

/-! Room (R317). -/

/-- The teams that hold resources of a core. -/
def State.holders (s : State) (cluster core : Nat) : List Team :=
  s.teams.filter fun t => t.sched.life.holds && t.sched.cluster == cluster && t.sched.core == core

/-- Whether a core has room for a team. -/
def State.coreRoom (s : State) (t : Team) (core : Nat) : Bool :=
  let us := s.holders t.sched.cluster core
  let sum := fun (f : Team → Nat) => us.foldl (fun n u => n + f u) (f t)
  ((s.core? t.sched.cluster core).any (·.alive)) &&
    decide (us.length < Config.slotsPerCore) && decide (sum (fun u => 128 * u.const.n * u.const.h) ≤ Config.laneFileBytes) &&
    decide (sum (·.const.tables) ≤ Config.tablesPerCore) && decide (sum (·.const.tiles) ≤ Config.tilesPerCore)

/-- The lowest core with room. -/
def State.roomyCore (s : State) (t : Team) : Option Nat := (List.range 8).find? (s.coreRoom t)

/-- The queue of a team, and its configuration as the scheduler has read it. -/
def State.queueOf (s : State) (t : Team) : Nat := ((s.launch? t.const.launch).map (·.q)).getD 0
def State.cfgOf (s : State) (t : Team) : QueueCfg := s.cfgRead (s.queueOf t)

/-- Whether a team waits for a core: admitted and never resident, or parked and not stopped (R317, R322).
DEDUCED (log 27). -/
def Team.waiting (t : Team) : Bool :=
  t.sched.life == .admitted || (t.sched.life == .parked && decide (t.iss.dtrap.cause = 0))

/-- Whether what a team waited for when it was saved has come: the turn of an object in this device's memory, the fall of its path-6
counter. Any other wait ends only on a core, so that it keeps no team from being ready; neither does a pending fault's taking.
DEDUCED (log 27). -/
def State.restOver (s : State) (t : Team) : Bool :=
  !t.iss.faults.isEmpty ||
    match t.sched.rests with
    | some (.wait path thr) => path != 6 || decide (t.counter path ≤ thr.toNat)
    | some (.barWait addr parity) =>
      (match s.barPlace t addr.toNat with
        | .ok (.remote _ _) => true
        | _ => s.barLook t addr.toNat parity != .same)
    | _ => true

/-- Whether a team that waits for a core is ready to run (R317). -/
def State.ready (s : State) (t : Team) : Bool := t.waiting && s.restOver t

/-- The pre-emptions that a cluster has under way: for each of them a ready team of its priority or higher waits. -/
def State.preempts (s : State) (cluster : Nat) : List (Nat × Nat) :=
  (((s.clusters[cluster]?).map (·.preempt)).getD []).filter fun x =>
    s.teams.any fun t => s.ready t && t.sched.cluster == cluster && s.ownsCluster t && decide (x.1 ≤ (s.cfgOf t).prio)

/-- Whether a pre-emption keeps the teams of a priority from becoming resident on a cluster (R318). -/
def State.barred (s : State) (cluster prio : Nat) : Bool := (s.preempts cluster).any fun x => decide (prio < x.1)

/-- Whether a team may become resident at all: its interface is enabled and owns the cluster, its class is not shed, no pre-emption of a
higher priority is under way (R318, R365, R374). -/
def State.mayReside (s : State) (t : Team) : Bool :=
  ((s.vis[t.const.vi]?).any (·.en)) && s.ownsCluster t && !s.shedClass (s.cfgOf t).pclass &&
    !s.barred t.sched.cluster (s.cfgOf t).prio

/-- The place of a queue in the round of its priority: the round starts after the queue whose team last became resident
at that priority. DEDUCED (log 27). -/
def State.turn (s : State) (t : Team) : Nat :=
  let from_ := match lookupKey (s.cfgOf t).prio s.sched.lastRes with | some q => q + 1 | none => 0
  (s.queueOf t + 1024 - from_ % 1024) % 1024

/-- Whether another ready team goes first: of a higher priority, of a queue earlier in the round, or admitted earlier
from the same queue; any of them before a team that is not ready (R317). -/
def State.outranked (s : State) (t : Team) : Bool :=
  s.teams.any fun u => u.id != t.id && s.ready u && u.sched.cluster == t.sched.cluster &&
    s.mayReside u && (s.roomyCore u).isSome &&
    (!s.ready t || decide ((s.cfgOf t).prio < (s.cfgOf u).prio) ||
      ((s.cfgOf u).prio == (s.cfgOf t).prio &&
        (decide (s.turn u < s.turn t) || (s.queueOf u == s.queueOf t && decide (u.sched.order < t.sched.order)))))

/-- A pre-emption is over once no team waits for it. -/
def State.endPreempt (s : State) (cluster : Nat) : State :=
  let xs := s.preempts cluster
  s.mapCluster cluster fun c => { c with preempt := xs }

/-- An admitted team starts on the lowest core with room, in the state of R42; the start is an acquire (R311).
DEDUCED (log 26). -/
def execTeamResident (team : Nat) (s : State) : Host.Outcome State Fault Refusal :=
  match (s.team? team).bind fun t => (s.roomyCore t).map fun k => (t, k) with
  | none => .refused (.notEnabled "TEAM_RESIDENT")
  | some (t, k) =>
    if t.sched.life = .admitted ∧ s.mayReside t = true ∧ s.outranked t = false then
      let cfg := s.cfgOf t
      let t := { t with sched.life := .resident, sched.started := true, sched.core := k, sched.prio := cfg.prio,
                        sched.pclass := cfg.pclass, sched.waits := 0, sched.boosted := false, sched.rests := none,
                        sys.tvec := (s.vis.getD t.const.vi State.resetVi).vitvec }
      let s := { s with sched.lastRes := setKey cfg.prio (s.queueOf t) s.sched.lastRes }
      .next (((s.acquire t).setTeam t).endPreempt t.sched.cluster)
    else .refused (.notEnabled "TEAM_RESIDENT")

/-! Pre-emption (R318, R267). -/

/-- The pre-emption of a cluster on behalf of a ready team; one of a lower priority goes on beside it, with its own start. -/
def execClusterPreempt (team : Nat) (s : State) : Host.Outcome State Fault Refusal :=
  match s.team? team with
  | none => .refused (.notEnabled "CLUSTER_PREEMPT")
  | some t =>
    let p := (s.cfgOf t).prio
    let c := t.sched.cluster
    if s.ready t = true ∧ s.mayReside t = true ∧ (s.roomyCore t).isNone = true ∧
        s.teams.any (fun u => u.sched.life == .resident && u.sched.cluster == c && decide (u.sched.prio < p)) = true ∧
        (s.preempts c).all (fun x => decide (x.1 < p)) = true then
      let xs := s.preempts c ++ [(p, s.now)]
      .next (s.mapCluster c fun k => { k with preempt := xs })
    else .refused (.notEnabled "CLUSTER_PREEMPT")

/-- Whether the drain limit of a resident team's interface has run out in a pre-emption that acts on it. -/
def State.drained (s : State) (cluster : Nat) (t : Team) : Bool :=
  t.sched.life == .resident && t.sched.cluster == cluster && t.sched.saveDue.isNone && (s.preempts cluster).any fun x =>
    decide (t.sched.prio < x.1) && decide (x.2 + (s.vis.getD t.const.vi State.resetVi).drain.toNat * Config.ticksPerUs ≤ s.now)

/-- A forced save of a team falls due. -/
def Team.dueSave (t : Team) : Team := { t with sched.saveDue := some (t.sched.saveDue.getD t.iss.issued) }

def execDrainExpire (cluster : Nat) (s : State) : Host.Outcome State Fault Refusal :=
  if s.teams.any (s.drained cluster) = true then
    .next { s with teams := s.teams.map fun t => if s.drained cluster t then t.dueSave else t }
  else .refused (.notEnabled "DRAIN_EXPIRE")

/-! Saves (R267, R268). -/

def EngineOp.isProduct (o : EngineOp) : Bool :=
  match o.op with | .mxMma _ _ _ _ _ _ _ _ | .mxKmma _ _ _ _ _ _ _ => true | _ => false

/-- Whether the Q5 operation in progress can stop at a step boundary. -/
def State.stepReady (s : State) (t : Team) (step : Nat) : Bool :=
  match t.eng.q5.head? with
  | none => true
  | some o =>
    if !o.running then true
    else o.isProduct && decide (o.step ≤ step) && decide (step < t.totalSteps o) && s.opFetched t o step

/-- Whether everything that a save waits for has happened: results, accesses, copies, the Q6 operation in progress, an instruction
under way. A member of a gang at the latch waits for nothing. -/
def State.saveReady (s : State) (t : Team) (step : Nat) : Bool :=
  t.iss.flights.all (fun f => f.path == 6) && t.eng.copies.isEmpty &&
    (t.eng.q6.head?).all (fun o => !o.started) && s.stepReady t step &&
    t.iss.busy.all (fun b => decide (b.readyAt ≤ s.clock t b.lane)) &&
    !(s.pod.reqs.any fun r => r.team == t.id && (match r.use with
      | .instruction _ | .gate _ _ | .poll | .gone => false
      | _ => (r.ans.isNone && !r.dead && !r.forming) || (r.forming && s.portsHeld))) && t.iss.claim.isNone &&
    t.iss.begun.all fun b => gangPart b.2

/-- The Q5 operation in progress, brought to a step boundary; one that an earlier save or an MX.RESUME has brought to one and that
has not started again is still in progress. -/
def State.stopOp (s : State) (t : Team) (step : Nat) : Team × Option EngineOp :=
  match t.eng.q5.head? with
  | none => (t, none)
  | some o =>
    if !o.started && !o.alone then (t, none)
    else if o.isProduct && o.running then
      let r := t.computeOp o (s.tileLines t o) step
      (r.1.setOp .q5 r.2, some r.2)
    else (t, some o)

/-- An operation as it waits for the unpark: the engine of the new core fetches its operands again. -/
def EngineOp.asSaved (o : EngineOp) : EngineOp :=
  { o with started := false, asked := false, paused := false, lines := [], page := none, alone := o.alone || o.started,
           late := false, joint := none, stream := if o.started then none else o.stream }

/-- Tables at a save: only the detached ones are spilled, and no register keeps entries (R240). -/
def KTable.asSaved (k : KTable) : KTable := { k with entries := [] }

/-- A start that the engine was asked for on behalf of a team is asked for no more. -/
def State.withdraw (s : State) (t : Team) : State :=
  if (s.onCore t.sched.cluster t.sched.core).any fun u => u.id != t.id && (u.eng.q5 ++ u.eng.q6).any fun o => o.asked && !o.running
  then s
  else s.setEngine t { s.engineOf t with request := none }

/-- A latched gang is cancelled with a member that is saved (R226, R268): those that its list or theirs joins with it. -/
def State.cancelGang (s : State) (t : Team) : State :=
  match t.latched with
  | none => s
  | some _ => { s with teams := s.teams.map fun (u : Team) =>
      if u.latched.isSome && (u.latchedWith t || t.latchedWith u) then { u with iss.withheld := none } else u }

/-- What a team has asked other members for and waits for no more: its packets go out, its reads end without effect. -/
def State.leaveRequests (s : State) (t : Team) : State :=
  (s.flushWrites fun r => r.team == t.id).abandon fun r => r.team == t.id && (match r.use with | .gate _ _ | .flight => false | _ => true)

/-- The status record of a team that stopped (R313). -/
def State.reportStop (s : State) (t : Team) : State :=
  let tag := ((s.launch? t.const.launch).map fun l => recTag l.record).getD 0
  let d := t.iss.dtrap
  if d.cause = 0 then s
  else if d.ecc then s.report (s.queueOf t) (statusRecord 4 t.const.serial tag t.const.number 0x0A)
  else s.report (s.queueOf t) (statusRecord 3 t.const.serial tag t.const.number
    (field t.sys.tcause 0 8 + 256 * d.cause.toNat))

/-- A save: windows close, the engine stops, the area is written, and the team leaves its core. -/
def State.save (s : State) (t : Team) (step : Nat) : State :=
  let s := s.cancelGang t
  let t := ({ t with sched.rests := t.iss.withheld.map (·.2), iss.withheld := none, iss.begun := none } : Team).closeAll
  let s := (t.eng.q5 ++ t.eng.q6).foldl (fun s o => s.workEnds t o) s
  let (t, o) := s.stopOp t step
  let s := { s with mem := Memory.park s.mem t.sched.parking (s.parkCells t o),
                    ms.poison := s.ms.poison.filter fun w => decide (w < t.sched.parking) || decide (t.sched.parking + 0x150000 ≤ w) }
  let s := ((s.leaveRequests t).withdraw t).setLoopBuf t fun _ => []
  let t := { t with
    sched.life := .parked, sched.saveDue := none, sched.shedPark := false,
    iss.stalled := none, iss.ahead := [], iss.busy := [], iss.charge := none,
    eng.q5 := t.eng.q5.map EngineOp.asSaved, eng.q6 := t.eng.q6.map EngineOp.asSaved,
    eng.k := t.eng.k.map KTable.asSaved }
  (s.setTeam t).reportStop t

/-- Why a team may be parked: it is withheld from issue, or it has stopped (R267). -/
def Team.parkable (t : Team) : Bool :=
  t.sched.life == .stopped ||
    (t.sched.life == .resident &&
      (match t.iss.withheld with
        | some (_, .yield _) | some (_, .wait _ _) | some (_, .barWait _ _) | some (_, .mxWait _)
        | some (_, .gang _ _ _ _) | some (_, .shed) => true
        | some _ => false
        | none => t.iss.stalled == some .streamBusy))

def execTeamPark (team step : Nat) (s : State) : Host.Outcome State Fault Refusal :=
  match s.team? team with
  | none => .refused (.notEnabled "TEAM_PARK")
  | some t =>
    if t.parkable && s.saveReady t step then .next (s.save t step) else .refused (.notEnabled "TEAM_PARK")

/-- Whether a team for which a save is due has come to rest: no transient value is live, or three instructions have
issued since, or it does not issue (R268). -/
def State.atRest (s : State) (t : Team) : Bool :=
  match t.sched.saveDue with
  | none => false
  | some n => !t.transientLive || decide (n + 3 ≤ t.iss.issued) || t.iss.withheld.isSome || t.iss.stalled.isSome ||
      !((List.range 8).any fun i => s.mayIssue t i) || !((s.core? t.sched.cluster t.sched.core).any (·.alive))

/-- A forced save (R268). DEDUCED (log 3). -/
def execForcedSave (team step : Nat) (s : State) : Host.Outcome State Fault Refusal :=
  match s.team? team with
  | none => .refused (.notEnabled "FORCED_SAVE")
  | some t =>
    if t.sched.life == .resident && s.atRest t && s.saveReady t step then .next (s.save t step)
    else .refused (.notEnabled "FORCED_SAVE")

/-! Unparking (R270). -/

/-- A parked team is restored on a core of its cluster that has room, in the order of residency; the core's L1 then gives it
nothing older than what it has seen (R244, R317). DEDUCED (log 28). -/
def execTeamUnpark (team core : Nat) (s : State) : Host.Outcome State Fault Refusal :=
  match s.team? team with
  | none => .refused (.notEnabled "TEAM_UNPARK")
  | some t =>
    if t.sched.life == .parked && s.mayReside t && !s.outranked t && s.coreRoom t core then
      let cfg := s.cfgOf t
      let u := s.unparked t
      let u := { u with sched.life := .resident, sched.core := core, sched.prio := cfg.prio, sched.pclass := cfg.pclass,
                        sched.waits := 0, sched.boosted := false, sched.rests := none }
      let s := { s with sched.lastRes := setKey cfg.prio (s.queueOf t) s.sched.lastRes }
      let s := ((s.acquire u).setTeam u).endPreempt t.sched.cluster
      .next (if u.eng.q5.isEmpty && u.eng.q6.isEmpty then s else (s.useUnit u .matrix 0).1)
    else .refused (.notEnabled "TEAM_UNPARK")

/-! The ends of a team and of a grid (R141, R319). -/

/-- Nothing of a team is outstanding. -/
def Team.quiet (t : Team) : Bool :=
  t.iss.flights.isEmpty && t.eng.q5.isEmpty && t.eng.q6.isEmpty && t.eng.copies.isEmpty

/-- What a retired team leaves: its entry and its scratch region, until its place is done. -/
def Team.retire (t : Team) : Team :=
  { t with
    sched.life := .retired, sched.saveDue := none, maps := [], iss.withheld := none, iss.faults := [], iss.flights := [], iss.windows := [],
    iss.begun := none, sched.rests := none,
    eng.q5 := [], eng.q6 := [], eng.copies := [], eng.subs := [], eng.k := [] }

def execTeamRetire (team : Nat) (s : State) : Host.Outcome State Fault Refusal :=
  match s.team? team with
  | none => .refused (.notEnabled "TEAM_RETIRE")
  | some t =>
    if t.sched.life == .ended && t.quiet then .next ((s.setTeam t.retire).closeStreams t.sched.cluster)
    else .refused (.notEnabled "TEAM_RETIRE")

/-- The stores of a team that have not registered do so (R244). -/
def State.registerAll (s : State) (t : Team) : State :=
  t.iss.flights.foldl (fun s f => s.register (some t.coreId) (f.path != 3) f.bytes) s

/-- The runtime discards a stopped or parked team, which then counts as retired: the record of its stop goes out if its save has
not brought it, and its stores are performed (R313). DEDUCED (log 25). -/
def execTeamDiscard (team : Nat) (s : State) : Host.Outcome State Fault Refusal :=
  match s.team? team with
  | none => .refused (.notEnabled "TEAM_DISCARD")
  | some t =>
    if t.sched.life = .parked ∨ t.sched.life = .stopped then
      let s := if t.sched.life = .stopped then s.reportStop t else s
      let s := (t.eng.q5 ++ t.eng.q6).foldl (fun s o => s.workEnds t o) s
      let s := ((s.registerAll t).leaveRequests t).abandon fun r => r.team == t.id && r.use == .flight
      .next ((((s.withdraw t).setTeam t.retire).closeStreams t.sched.cluster).endPreempt t.sched.cluster)
    else .refused (.notEnabled "TEAM_DISCARD")

/-- The arrival of a grid at its completion barrier: performed, faulted, or waiting for another member. -/
def State.gridArrive (s : State) (l : Launch) : State × Option Bool :=
  let va := leField l.record 80 8
  if inWindow va then (s, some false)
  else match s.global 0 l.asid va needRW with
    | .ok (.home pa) =>
      match barApply .arrive (s.mem.bytes pa 16) with
      | .ok bs => (s.register none false (cellsAt pa bs), some true)
      | .error _ => (s, some false)
    | .ok (.remote d pa) =>
      match s.gateReq l.id 2 with
      | none => (if s.portsHeld then s else s.send 0 (.gate l.id 2) d pa va (.barrier .arrive), none)
      | some r =>
        match r.ans with
        | some (.data _) | some .done => (s.dropGate l.id 2, some true)
        | some _ => (s.dropGate l.id 2, some false)
        | none => if r.dead then (s.dropGate l.id 2, some false) else (s, none)
    | _ => (s, some false)

def State.gridOver (s : State) (l : Launch) : Bool :=
  l.complete || (l.began && decide (recPlaces l.record ≤ l.place) &&
    s.teams.all fun t => t.const.launch != l.id || t.sched.life == .retired)

/-- A grid is over: its entries are freed, and one arrival is made on CBAR (R319). -/
def execGridComplete (launch : Nat) (s : State) : Host.Outcome State Fault Refusal :=
  match s.launch? launch with
  | none => .refused (.notEnabled "GRID_COMPLETE")
  | some l =>
    if s.gridOver l then
      let s := { s with teams := s.teams.filter fun t => t.const.launch != l.id }
      let s := s.setLaunch { l with complete := true }
      let gone := fun (s : State) => { s with sched.launches := s.sched.launches.filter fun x => x.id != l.id }
      if recFlag l.record 0 then
        match s.gridArrive l with
        | (s, some true) => .next (gone s)
        | (s, some false) => .next ((gone s).report l.q (statusRecord 1 l.serial (recTag l.record) 9 l.index.toNat))
        | (s, none) => .next s
      else .next (gone s)
    else .refused (.notEnabled "GRID_COMPLETE")

/-! Migration (R271, R272). -/

/-- The siblings of a place. -/
def State.siblings (s : State) (launch place : Nat) : List Team :=
  s.teams.filter fun t => t.const.launch == launch && t.const.placeNo == place

/-- Whether a sibling lets its place be moved. -/
def Team.movable (t : Team) : Bool :=
  decide (t.counter 4 + t.counter 5 + t.counter 6 = 0) && t.eng.q5.isEmpty && t.eng.q6.isEmpty && t.eng.subs.isEmpty

/-- Whether a sibling is off its core, as a move needs. -/
def Team.offCore (t : Team) : Bool := t.sched.life == .parked || t.sched.life == .admitted || t.sched.life == .retired

/-- Memory with n bytes copied. -/
def Memory.copy (m : Memory) (src dst n : Nat) : Memory :=
  let cells := (m.filter fun c => decide (src ≤ c.1) && decide (c.1 < src + n)).map fun c => (c.1 - src + dst, c.2)
  Memory.writeBytes (m.filter fun c => !(decide (dst ≤ c.1) && decide (c.1 < dst + n))) cells

/-- GANG with the slot numbers of a place's old entries rewritten (R33). -/
def moveGang (slots : List (Nat × Nat)) (g : DWord) : DWord :=
  (List.range (gangN g)).foldl (fun g i => match lookupKey (field g (8 + 8 * i) 8) slots with
    | some n => setField g (8 + 8 * i) 8 n
    | none => g) g

/-- A watch range moves with the sibling's region that holds it (R236): each move is a region's old start, size and new start. -/
def moveWatch (moves : List (Nat × Nat × Nat)) (k : KTable) : KTable :=
  match if k.watchLen = 0 then none else moves.find? fun x => decide (x.1 ≤ k.watchAt) && decide (k.watchAt < x.1 + x.2.1) with
  | some x => { k with watchAt := k.watchAt - x.1 + x.2.2 }
  | none => k

/-- One sibling on its new cluster: its region, watch ranges, slot and GANG. -/
def State.moveTeam (s : State) (slots : List (Nat × Nat)) (moves : List (Nat × Nat × Nat)) (cluster : Nat) (t : Team)
    (slot scratch : Nat) : State :=
  let s := s.claimVault t.const.vi scratch t.const.scr
  let g := moveGang slots t.regs.gang
  let t' := { t with sched.cluster := cluster, sched.slot := slot, sched.scratch := scratch, regs.gang := g, eng.k := t.eng.k.map (moveWatch moves) }
  let mem := s.mem.copy t.sched.scratch scratch t.const.scr
  let mem := if t.sched.life == .parked then
      Memory.writeBytes mem ((cells8 0x388 g).map fun c => (t.sched.parking + c.1, c.2))
    else mem
  ({ s with mem := mem,
            ms.poison := s.ms.poison ++ (s.ms.poison.filter fun w => decide (t.sched.scratch ≤ w) && decide (w < t.sched.scratch + t.const.scr)).map
              fun w => w - t.sched.scratch + scratch } : State).setTeam t'

/-- A place and its scratch move to another cluster of the same die. Its running siblings are to be force-saved first: the move
is made once all of them are off their cores. DEDUCED (log 73). -/
def execPlaceMigrate (launch place cluster : Nat) (areas : List Area) (s : State) : Host.Outcome State Fault Refusal :=
  let ts := s.siblings launch place
  match ts with
  | [] => .refused (.notEnabled "PLACE_MIGRATE")
  | t :: _ =>
    let old := t.sched.cluster
    let slots := areas.map (·.slot)
    let ok := decide (cluster < 32) && cluster != old && cluster / 16 == old / 16 && ts.all Team.movable &&
      ((s.vis[t.const.vi]?).any fun i => i.clm.getLsbD cluster) && areas.length == ts.length &&
      slots.all (fun x => decide (x < 256) && !(s.slotsTaken cluster).contains x) && slots.eraseDups.length == slots.length &&
      !((s.clusters[old]?).any fun c => c.streams.any fun x => x.launch == launch && x.place == place && !x.closed)
    match s.placeRegions cluster t.const.scr areas s.taken with
    | none => .refused (.notEnabled "PLACE_MIGRATE")
    | some regions =>
      if ok && ts.any (fun u => u.sched.life == .resident && u.sched.saveDue.isNone) then
        .next { s with teams := s.teams.map fun u =>
          if u.const.launch == launch && u.const.placeNo == place && u.sched.life == .resident then u.dueSave else u }
      else if ok && ts.all Team.offCore then
        .next ((ts.zip (slots.zip regions)).foldl (fun s x =>
          s.moveTeam ((ts.map (·.sched.slot)).zip slots)
            ((ts.zip regions).map fun x => (x.1.sched.scratch, x.1.const.scr, x.2)) cluster x.1 x.2.1 x.2.2) s)
      else .refused (.notEnabled "PLACE_MIGRATE")

end Sys2Proof.Machine
end

