-- ==== Sys2Proof/Machine/Errors.lean ====
section
/-! DEFINITION. Error detection (R273 to R276): checker mismatches and retired cores, uncorrectable errors, and the
rebuild of a scheduler. -/

namespace Sys2Proof.Machine

/-! Checkers and core retirement (R273, R274). -/

/-- Wall time within which three pipeline errors retire a core: 1 ms. -/
def errorSpan : Nat := 1000 * Config.ticksPerUs

/-- The times of a core's errors within the span, with one more. -/
def Core.noteError (k : Core) (now : Nat) : Core := { k with errors := now :: k.errors.filter fun x => decide (now ≤ x + errorSpan) }

def Core.retiring (k : Core) : Bool := decide (3 ≤ k.errors.length)

/-- A mismatch is reported by a core; whether the core retires. -/
def State.noteError (s : State) (t : Team) : State × Bool :=
  match s.core? t.sched.cluster t.sched.core with
  | none => (s, false)
  | some k =>
    let k := k.noteError s.now
    (s.setCore t.sched.cluster t.sched.core k, k.retiring)

/-- The fragment that takes a fault of a team: the handler's, or the first that runs. -/
def Team.faultFrag (t : Team) : Nat :=
  t.iss.trapFrag.getD (((List.range 8).find? fun i => (t.frag i).st == .running).getD 0)

/-- The queues with a team admitted on a cluster. -/
def State.queuesOn (s : State) (cluster : Nat) : List Nat :=
  ((s.teams.filter fun t => t.sched.cluster == cluster && t.sched.life != .retired).map s.queueOf).eraseDups

/-- What the retired core's hardware held is lost: its L1 and its TLB. -/
def State.dropCore (s : State) (core : Nat) : State :=
  { s with ms.l1 := s.ms.l1.filter fun w => w.core != core, ms.tlb := s.ms.tlb.filter fun e => e.level != .core core }

/-- A core retires: the spare takes its number, or the cluster goes on without it; every team of the cluster is to be
saved, and the runtimes are told. Its engine stays active while an operation that the saves wait for goes on (R268, R360).
DEDUCED (log 41). -/
def State.retireCore (s : State) (cluster core : Nat) : State :=
  match s.clusters[cluster]? with
  | none => s
  | some c =>
    let works := (s.onCore cluster core).any fun t => (t.eng.q5 ++ t.eng.q6).any EngineOp.running
    let idle := State.resetCore.engine
    let fresh := { State.resetCore with units := List.replicate 5 (.awake (c.lane2 / 2)),
                                        engine := if works then (c.cores[core]?.map (·.engine)).getD idle else idle }
    let next := if c.spare then fresh else { fresh with alive := false }
    let s := (s.mapCluster cluster fun c => { c with spare := false, cores := setAt c.cores core next }).dropCore (8 * cluster + core)
    let s := { s with teams := s.teams.map fun (t : Team) =>
      if t.sched.life = Life.resident ∧ t.sched.cluster = cluster then t.dueSave else t }
    let r := statusRecord 5 0 0 (256 * cluster + core) (if c.spare then 0 else 1)
    (s.queuesOn cluster).foldl (fun s q => s.report q r) s

/-- TINFO of a pipeline error: the unit, and whether it retires the core (R262). -/
def errorInfo (u : BitVec 4) (retires : Bool) : DWord := zext u ||| (if retires then 16 else 0)

/-- A pending fault is taken at once, before the others (R274); it stays pending while an instruction of the team is under way. -/
def Team.takeNow (t : Team) (f : PendFault) : Team :=
  if t.tm || t.iss.begun.any (fun b => !gangPart b.2) then t else Team.takeTrap { t with iss.faults := t.iss.faults.erase f } t.faultFrag f.cause f.tinfo .region

/-- What the instruction that a team issues has asked other members for is left: a restart asks again (R257). -/
def State.leaveInstruction (s : State) (t : Team) : State :=
  s.abandon fun r => r.team == t.id && (match r.use with | .instruction _ => true | _ => false)

/-- An error of a team, then what a retired core brings: the team takes that error's fault first. -/
def State.afterError (s : State) (t : Team) (retires : Bool) (f : PendFault) : State :=
  if retires then
    let u := t.takeNow f
    ((if u = t then s else s.leaveInstruction t).setTeam u).retireCore t.sched.cluster t.sched.core
  else s.setTeam t

/-- A mismatch in the instruction that a team is issuing withholds its result: nothing of it is written, and the error
is pending before the team's next issue; in trap mode it is a second trap (R261). -/
def State.instrError (s : State) (t : Team) (u : BitVec 4) : State :=
  let (s, retires) := (s.leaveInstruction t).noteError t
  let t := { t with iss.begun := none, iss.stalled := none, iss.charge := none }
  let info := errorInfo u retires
  let f : PendFault := ⟨0x0A, info, 0, true, false, false⟩
  s.afterError (if t.tm then t.takeTrap t.faultFrag 0x0A info .region
    else { t with iss.faults := insertFault f t.iss.faults }.endWait) retires f

/-- The operation that a queue performs, by its serial. -/
def Team.runningOp (t : Team) (q : BitVec 3) : Option Nat :=
  match q.toNat with
  | 5 => t.eng.q5.head?.bind fun o => if o.running then some o.serial else none
  | 6 => t.eng.q6.head?.bind fun o => if o.running then some o.serial else none
  | n => (t.headCopy n).bind fun o => if o.written then none else some o.serial

/-- A mismatch in an operation of a queue ends it in error (R208, R232). -/
def State.queueError (s : State) (t : Team) (q : BitVec 3) (serial : Nat) (u : BitVec 4) : State :=
  let (s, retires) := s.noteError t
  let s := s.failOp t.id q.toNat serial 0x0A (errorInfo u retires)
  match s.team? t.id with
  | some t => s.afterError t retires (queueFault q.toNat serial 0x0A (errorInfo u retires))
  | none => s

/-- A mismatch that a checker finds (R273). DEDUCED (log 41). -/
def execCheckerMismatch (site : CheckerSite) (s : State) : Host.Outcome State Fault Refusal :=
  match site with
  | .instruction team u =>
    match s.team? team with
    | none => .refused (.notEnabled "CHECKER_MISMATCH")
    | some t =>
      if s.mayIssue t t.faultFrag && decide (u.toNat < 4) then .next (s.instrError t u)
      else .refused (.notEnabled "CHECKER_MISMATCH")
  | .queue team q u =>
    match (s.team? team).bind fun t => (t.runningOp q).map fun x => (t, x) with
    | none => .refused (.notEnabled "CHECKER_MISMATCH")
    | some (t, serial) =>
      if t.sched.life.holds && decide (4 ≤ u.toNat) && decide (u.toNat < 8) then .next (s.queueError t q serial u)
      else .refused (.notEnabled "CHECKER_MISMATCH")

/-! Uncorrectable errors (R275). -/

/-- A team stops, as after a double trap. -/
def Team.eccStop (t : Team) : Team := { t with sched.life := .stopped, iss.begun := none, iss.dtrap := ⟨0x0A, (t.frag t.faultFrag).pc, 8, true⟩ }

/-- A team of a cluster whose team table has failed: a resident one stops; of the others the parking area tells.
DEDUCED (log 42). -/
def State.eccTeam (s : State) (t : Team) : State :=
  match t.sched.life with
  | .resident => s.setTeam t.eccStop
  | .admitted =>
    let t := { t with sched.started := true, sys.tvec := (s.vis.getD t.const.vi State.resetVi).vitvec }
    s.save { t with iss.dtrap := t.eccStop.iss.dtrap } 0
  | .parked =>
    let t := { t with iss.dtrap := t.eccStop.iss.dtrap }
    let cells := (cells8 0x680 (zext t.iss.dtrap.cause) ++ cells8 0x688 t.iss.dtrap.pc ++ cells8 0x690 t.iss.dtrap.tinfo).map
      fun c => (t.sched.parking + c.1, c.2)
    (({ s with mem := Memory.writeBytes s.mem cells } : State).setTeam t).reportStop t
  | _ => s

/-- No cache and no loop buffer of a core keeps a word, which its home gives again. -/
def State.dropClean (s : State) (core pa : Nat) : State :=
  let clear := fun (k : Core) => { k with loopBuf := k.loopBuf.filter fun w => w.pa != pa / 4 * 4 }
  { s with ms.l1 := s.ms.l1.filter fun w => !(w.core == core && w.pa == pa / 4 * 4),
           ms.icache := s.ms.icache.filter fun c => !(c.cluster == core / 8 && c.pa == pa / 4 * 4),
           clusters := (s.mapCluster (core / 8) fun c =>
             { c with cores := (((c.cores[core % 8]?).map clear).elim c.cores fun k => setAt c.cores (core % 8) k) }).clusters }

def execEccError (place : EccPlace) (s : State) : Host.Outcome State Fault Refusal :=
  match place with
  | .corrected => .next s
  | .cleanCopy core pa => .next (s.dropClean core pa)
  | .home pa =>
    if populated pa && !inHost pa then
      .next { s with ms.poison := if s.ms.poison.contains (pa / 4 * 4) then s.ms.poison else (pa / 4 * 4) :: s.ms.poison }
    else .refused (.notEnabled "ECC_ERROR")
  | .table team k =>
    match s.team? team with
    | none => .refused (.notEnabled "ECC_ERROR")
    | some t =>
      if t.sched.life.holds && decide (k < t.const.tables) then
        .next (s.setTeam { t with eng.k := setAt t.eng.k k { t.table k with st := .stale } })
      else .refused (.notEnabled "ECC_ERROR")
  | .teamState team =>
    match s.team? team with
    | none => .refused (.notEnabled "ECC_ERROR")
    | some t => if t.sched.life == .resident then .next (s.setTeam t.eccStop) else .refused (.notEnabled "ECC_ERROR")
  | .teamTable cluster =>
    .next ((s.teams.filter fun t => t.sched.cluster == cluster).foldl (fun s t => s.eccTeam t) s)

/-! The scheduler (R276). -/

/-- An illegal state is detected: the cluster issues nothing; a detection during a rebuild restarts it. -/
def execSchedulerIllegalState (cluster : Nat) (s : State) : Host.Outcome State Fault Refusal :=
  if cluster < 32 then .next (s.mapCluster cluster fun c => { c with halted := true })
  else .refused (.notEnabled "SCHEDULER_ILLEGAL_STATE")

/-- The scheduler state is rebuilt from the team tables, and the cluster issues again. -/
def execSchedulerRebuildDone (cluster : Nat) (s : State) : Host.Outcome State Fault Refusal :=
  if (s.clusters[cluster]?).any (·.halted) = true then .next (s.mapCluster cluster fun c => { c with halted := false })
  else .refused (.notEnabled "SCHEDULER_REBUILD_DONE")

end Sys2Proof.Machine
end

