-- ==== Sys2Proof/Machine/Governor.lean ====
section
/-! DEFINITION. The shelf port and the droop governor (R363 to R367). -/

namespace Sys2Proof.Machine

/-! Frames (R363). -/

/-- One bit into the CRC-8 of polynomial 0x07. -/
def crcBit (c : BitVec 8) (b : Bool) : BitVec 8 := if c.getLsbD 7 != b then (c <<< 1) ^^^ 0x07 else c <<< 1

/-- The CRC over bits [63:8] of a frame, bit 63 first. -/
def frameCrc (x : DWord) : BitVec 8 := (List.range 56).foldl (fun c i => crcBit c (x.getLsbD (63 - i))) 0

def frameGood (x : DWord) : Bool := decide (field x 56 8 = 0xA5) && frameCrc x == x.extractLsb' 0 8

/-! The curves (R364). -/

/-- The points of a curve: X by its reading, Y. -/
def curvePoints (signed : Bool) (c : List DWord) : List (Int × Int) :=
  c.map fun w => (if signed then (w.extractLsb' 0 16).toInt else ((field w 0 16 : Nat) : Int), ((field w 32 10 : Nat) : Int))

/-- The value between the last point at or below x and its successor. -/
def curveBetween (x : Int) : List (Int × Int) → Option Int
  | p :: q :: r =>
    match curveBetween x (q :: r) with
    | some y => some y
    | none => if p.1 ≤ x ∧ x < q.1 then some (p.2 + (x - p.1) * (q.2 - p.2) / (q.1 - p.1)) else none
  | _ => none

/-- A curve's value at x. -/
def curveAt (ps : List (Int × Int)) (x : Int) : Int :=
  let first := ps.headD (0, 1000)
  let last := ps.getLastD (0, 1000)
  if x ≤ first.1 then first.2 else if last.1 ≤ x then last.2 else (curveBetween x ps).getD last.2

/-- P on a valid frame. -/
def Power.capOf (p : Power) (x : DWord) : Nat :=
  let pf := curveAt (curvePoints true p.dcf) ((field x 32 16 : Nat) - (field p.govctl 0 16 : Nat))
  let pv := curveAt (curvePoints false p.dcv) (field x 16 16 : Nat)
  let m := (min pf pv).toNat
  if x.getLsbD 9 then min m (field p.govctl 54 10) else m

/-! Shedding (R365, R366). -/

/-- The threshold of power class n. -/
def Power.threshold (p : Power) (n : Nat) : Nat :=
  if n = 3 then field p.govctl 24 10 else if n = 2 then field p.govth 10 10 else field p.govth 0 10

/-- What an evaluation does to one class: shed below its threshold; a shed class counts the time at or above its restore
level. -/
def Power.evalClass (p : Power) (now n : Nat) : Power :=
  let i := n - 1
  if p.shed.getD i false then
    let level := p.threshold n + field p.govctl 34 10
    { p with okSince := setAt p.okSince i (if level ≤ p.p then some ((p.okSince.getD i none).getD now) else none) }
  else if p.p < p.threshold n then
    { p with shed := setAt p.shed i true, shedAt := setAt p.shedAt i now, okSince := setAt p.okSince i none }
  else p

/-- An evaluation of P: resident teams of a class that is shed are to be parked at their next barrier boundary. -/
def State.evaluate (s : State) : State :=
  let p := [1, 2, 3].foldl (fun p n => p.evalClass s.now n) s.pwr
  let s := { s with pwr := p }
  { s with teams := s.teams.map fun (t : Team) =>
      if t.sched.life = Life.resident ∧ s.shedClass t.sched.pclass = true then { t with sched.shedPark := true } else t }

/-- An accepted frame: its number, and when VALID its readings. -/
def State.acceptFrame (s : State) (x : DWord) : State :=
  let seq : BitVec 8 := x.extractLsb' 48 8
  let gap : Nat := match s.pwr.lastSeq with | some l => (seq - l - 1).toNat | none => 0
  let s := { s with pwr.gaps := s.pwr.gaps + BitVec.ofNat 16 gap, pwr.lastSeq := some seq }
  if x.getLsbD 8 then
    ({ s with pwr.p := s.pwr.capOf x, pwr.lastValid := some s.now, pwr.lost := false } : State).evaluate
  else s

/-- Whether no valid frame has come for 500 microseconds. -/
def State.framesLost (s : State) : Bool := !s.pwr.lost && s.pwr.lastValid.any fun n => decide (n + 500 * Config.ticksPerUs ≤ s.now)

/-- The loss of frames: P becomes LOSSP, and the restore counts start again (R366, R367). -/
def State.loseFrames (s : State) : State :=
  let s := ({ s with pwr.p := field s.pwr.govctl 44 10, pwr.lost := true } : State).evaluate
  { s with pwr.okSince := s.pwr.okSince.map fun _ => none }

/-- A frame arrives; without host power it is ignored. A loss that is over with it has happened before it. -/
def execShelfFrame (frame : DWord) (s : State) : Host.Outcome State Fault Refusal :=
  if !s.boot.powered || s.boot.reset then .next s
  else if frameGood frame then .next ((if s.framesLost then s.loseFrames else s).acceptFrame frame)
  else .next { s with pwr.badf := s.pwr.badf + 1 }

/-- No valid frame for 500 microseconds. -/
def execFrameLoss (s : State) : Host.Outcome State Fault Refusal :=
  if s.framesLost then .next s.loseFrames else .refused (.notEnabled "FRAME_LOSS")

/-- The refill begins to use the cap in force. -/
def execCapUpdate (s : State) : Host.Outcome State Fault Refusal :=
  if s.pwr.used = s.pwr.p then .refused (.notEnabled "CAP_UPDATE") else .next { s with pwr.used := s.pwr.p }

/-- A team of a class that was shed 1.5 ms ago is force-saved: at once where it can be, else when its work has drained. -/
def execShedForceSave (team step : Nat) (s : State) : Host.Outcome State Fault Refusal :=
  match s.team? team with
  | none => .refused (.notEnabled "SHED_FORCE_SAVE")
  | some t =>
    if t.sched.life = .resident ∧ s.shedClass t.sched.pclass = true ∧
        s.pwr.shedAt.getD (t.sched.pclass - 1) 0 + 1500 * Config.ticksPerUs ≤ s.now then
      if s.atRest t.dueSave && s.saveReady t step then .next (s.save t step)
      else if t.sched.saveDue.isNone then .next (s.setTeam t.dueSave)
      else .refused (.notEnabled "SHED_FORCE_SAVE")
    else .refused (.notEnabled "SHED_FORCE_SAVE")

/-- A class whose 20 ms have run, before the frames were lost, is restored: a resident team of it is withheld no more. -/
def execClassRestore (cls : BitVec 2) (s : State) : Host.Outcome State Fault Refusal :=
  let i := cls.toNat - 1
  match (if cls = 0 then none else s.pwr.okSince.getD i none) with
  | none => .refused (.notEnabled "CLASS_RESTORE")
  | some t0 =>
    if s.pwr.shed.getD i false = true ∧ t0 + 20000 * Config.ticksPerUs ≤ s.now ∧
        s.pwr.lastValid.any (fun n => decide (t0 + 20000 * Config.ticksPerUs < n + 500 * Config.ticksPerUs)) = true then
      let free := fun (t : Team) =>
        if t.sched.pclass = cls.toNat then
          { t with sched.shedPark := false,
                   iss.withheld := match t.iss.withheld with | some (_, .shed) => none | x => x } else t
      .next { s with pwr.shed := setAt s.pwr.shed i false, pwr.okSince := setAt s.pwr.okSince i none, teams := s.teams.map free }
    else .refused (.notEnabled "CLASS_RESTORE")

end Sys2Proof.Machine
end

