-- ==== Sys2Proof/Machine/Paging.lean ====
section
/-! DEFINITION. Walks, the filling of mapped scratch, the page-request service and the invalidation of translations
(R329, R337 to R343). -/

namespace Sys2Proof.Machine

/-! Walks. -/

/-- The non-leaf entries that a walk reads: a walker may keep them (R341). -/
def State.walkPath (s : State) (va : Nat) : List (Nat × Nat × Option Nat × Nat) → Nat → List (Nat × DWord)
  | [], _ => []
  | (sh, bits, _, align) :: r, t =>
    let a := t + 8 * (va / 2 ^ sh % 2 ^ bits)
    let p := s.readEntry a
    if !p.getLsbD 0 || entryReserved p || p.getLsbD 1 || sh == 16 then []
    else
      let next := field p 8 44 * 256
      if next % align = 0 then (a, p) :: s.walkPath va r next else []

/-- The entries that a walk leaves with its walker. -/
def State.walkKeeps (s : State) (asid : BitVec 12) (va : Nat) : List (Nat × DWord) :=
  match s.context asid with
  | none => []
  | some (_, root) =>
    let c := s.boot.ctxbase + 16 * asid.toNat
    (c, s.readEntry c) :: s.walkPath va walkLevels root

/-- The TLB entries that a walk leaves: one combined translation of a resident leaf, at each level (R340). -/
def tlbOf (core vi : Nat) (asid : BitVec 12) (va : Nat) (l : Leaf) : List TlbEntry :=
  [.core core, .cluster (core / 8), .die (core / 128)].map fun x =>
    ⟨x, asid, va / l.size * l.size, l.size, l.pa, l.r, l.w, l.x, l.dev, vi⟩

/-- The entries that stay, newest first, within the capacities of the TLBs that a core uses (R340). -/
def tlbRoom (core : Nat) (es : List TlbEntry) : List TlbEntry :=
  keepFirst (·.level == .core core) Config.tlbOfCore <| keepFirst (·.level == .cluster (core / 8)) Config.tlbOfCluster <|
    keepFirst (·.level == .die (core / 128)) Config.tlbOfDie es

/-- The interface that owns an ASID. -/
def State.ownerOf (s : State) (asid : BitVec 12) : Nat := ((s.context asid).map (·.1)).getD 0

/-- A walk on behalf of a core. DEDUCED (log 20). -/
def execPageWalk (core : Nat) (asid : BitVec 12) (va : DWord) (leaf : Option (BitVec 5)) (s : State) :
    Host.Outcome State Fault Refusal :=
  let a := va.toNat % 2 ^ 57
  if inWindow a ∨ (s.tlb? core asid a).isSome ∨ 256 ≤ core then .refused (.notEnabled "PAGE_WALK")
  else
    let kept := (s.walkKeeps asid a).foldl (fun w e => setKey e.1 e.2 w) s.ms.walk
    let tlb := match s.walk asid a leaf with
      | some l => if l.res then tlbRoom core (tlbOf core (s.ownerOf asid) asid a l ++ s.ms.tlb) else s.ms.tlb
      | none => s.ms.tlb
    .next { s with ms.walk := kept, ms.tlb := tlb }

/-! Mapped scratch. -/

/-- The fill of a mapped line that an access has asked another member for has its answer: the line's unfilled words take it, if the
word named is one of them (R329). An answer asked for before an acquire fills nothing; the next access asks again.
DEDUCED (log 19). -/
def execScratchMapFill (team offset : Nat) (s : State) : Host.Outcome State Fault Refusal :=
  match (s.team? team).bind fun t => (t.mapOf offset).bind fun m =>
      (s.fillReq t (m.gva + (m.line offset - m.off))).map fun r => (m, r) with
  | none => .refused (.notEnabled "SCRATCH_MAP_FILL")
  | some (m, r) =>
    let brings := match r.ans with | some (.data _) | some .poisoned => !r.stale | _ => false
    if brings && !m.filled.contains (offset / 4 * 4) then .next (({ s with pod.reqs := s.pod.reqs.filter (·.id != r.id) } : State).answerFill r)
    else .refused (.notEnabled "SCRATCH_MAP_FILL")

/-! Page requests. -/

/-- What a page's answer does to the path-6 operations of a team, and to the operations that wait for it when it is there
(R144, R208). -/
def Team.pageAnswered (page : Nat) (resident : Bool) (t : Team) : Team :=
  let here := fun (va : DWord) => decide (va.toNat / 65536 = page)
  let t := Team.settleFlights { t with
    iss.flights := t.iss.flights.map fun (f : Flight) => match f.kind with
      | .page va => if here va then { f with done := true } else f
      | _ => f }
  let hit := fun (p : Option DWord) => p.any here
  if resident then
    { t with
      eng.copies := t.eng.copies.map fun (o : CopyOp) => if hit o.page then { o with page := none } else o,
      eng.q5 := t.eng.q5.map fun (o : EngineOp) => if hit o.page then { o with page := none } else o,
      eng.q6 := t.eng.q6.map fun (o : EngineOp) => if hit o.page then { o with page := none } else o }
  else t

/-- The operations of a team that wait for a page: queue, serial, address. -/
def Team.pageWaits (t : Team) (page : Nat) : List (Nat × Nat × Nat) :=
  let of_ := fun (q serial : Nat) (p : Option DWord) => (p.filter fun va => decide (va.toNat / 65536 = page)).map fun va => (q, serial, va.toNat)
  (t.eng.copies.filterMap fun o => of_ o.q o.serial o.page) ++ (t.eng.q5.filterMap fun o => of_ 5 o.serial o.page) ++
    t.eng.q6.filterMap fun o => of_ 6 o.serial o.page

/-- The path-6 counter of a parked team, as its area holds it (R268, R269). -/
def Team.parkedPages (t : Team) : List (Nat × Byte) :=
  if t.sched.life = .parked then cellsAt (t.sched.parking + 0x39C) (toBytes 2 (t.counter 6)) else []

/-- A page request has its answer; a refusal ends the operations that wait for the page in error. -/
def State.pageDone (s : State) (r : PageReq) (resident : Bool) : State :=
  let mine := fun (t : Team) => decide (t.const.asid = r.asid)
  let teams := s.teams.map fun t => if mine t then t.pageAnswered r.page resident else t
  let s := { s with teams := teams, mem := s.mem.writeBytes ((teams.filter mine).flatMap Team.parkedPages) }
  if resident then s
  else (s.teams.filter mine).foldl (fun s t => (t.pageWaits r.page).foldl (fun s x =>
    s.failOp t.id x.1 x.2.1 0x06 (addrInfo x.2.2)) s) s

/-- Whether the registers of the virtual functions take writes: not before STAGE 5 (R381), and not without power (R4). -/
def Boot.guestsOpen (b : Boot) : Bool := b.powered && !b.reset && decide (5 ≤ b.stage.toNat) && decide (b.stage.toNat ≤ 6)

/-- The runtime's write of PRQDONE: on result 0 the page is walked again; 2 and 3 answer nothing (R343). -/
def execPrqdoneWrite (vi : Nat) (seq : Word) (res : BitVec 2) (s : State) : Host.Outcome State Fault Refusal :=
  match s.vis[vi]? with
  | none => .refused (.notEnabled "PRQDONE_WRITE")
  | some i =>
    if !s.boot.guestsOpen then .next s else
    let s := s.setVi vi { i with prqdone := zext seq ||| (zext res <<< 32) }
    let mine := s.prq.filter fun r => r.vi == vi && r.sent && r.seq == seq && decide (res.toNat < 2)
    let s := { s with prq := s.prq.filter fun r => !mine.contains r }
    .next (mine.foldl (fun s r =>
      s.pageDone r (res == 0 && s.walkPage r.asid (65536 * r.page) needNone == .resident)) s).flushPages

/-! Invalidation (R342). -/

/-- Whether an ASID lies in an interface's range. -/
def VirtIf.hasAsid (i : VirtIf) (asid : BitVec 12) : Bool := decide (i.first ≤ asid.toNat) && decide (asid.toNat < i.first + i.count)

/-- TLBI2 with BUSY set. -/
def tlbiGo (scope : Nat) (asid : BitVec 12) : Word := BitVec.ofNat 32 (2 ^ 31 + scope * 65536 + asid.toNat)

/-- A write of GO: ignored while BUSY, with an ASID outside the interface's range, or before the registers take writes. The
interface's first ASID stands where none is named. -/
def State.tlbiStart (s : State) (vi : Nat) (range : Option (DWord × DWord)) (scope : Nat) (asid : Option (BitVec 12)) : Option State :=
  (s.vis[vi]?).map fun i =>
    let asid := asid.getD (BitVec.ofNat 12 i.first)
    if i.tlbi2.getLsbD 31 || !i.hasAsid asid || !s.boot.guestsOpen then s
    else s.setVi vi { i with tlbi0 := (range.map (·.1)).getD i.tlbi0, tlbi1 := (range.map (·.2)).getD i.tlbi1,
                             tlbi2 := tlbiGo scope asid }

def execTlbiRange (vi : Nat) (asid : BitVec 12) (va len : DWord) (s : State) : Host.Outcome State Fault Refusal :=
  match s.tlbiStart vi (some (addr57 va, len)) 0 (some asid) with
  | some s => .next s
  | none => .refused (.notEnabled "TLBI_RANGE")

def execTlbiAsid (vi : Nat) (asid : BitVec 12) (s : State) : Host.Outcome State Fault Refusal :=
  match s.tlbiStart vi none 1 (some asid) with
  | some s => .next s
  | none => .refused (.notEnabled "TLBI_ASID")

def execTlbiInterface (vi : Nat) (s : State) : Host.Outcome State Fault Refusal :=
  match s.tlbiStart vi none 2 none with
  | some s => .next s
  | none => .refused (.notEnabled "TLBI_INTERFACE")

/-- Whether an invalidation covers an ASID. -/
def VirtIf.tlbiCovers (i : VirtIf) (asid : BitVec 12) : Bool :=
  if field i.tlbi2 16 2 = 2 then i.hasAsid asid else decide (asid.toNat = field i.tlbi2 0 12)

/-- Whether it drops a TLB entry. -/
def VirtIf.tlbiHits (i : VirtIf) (e : TlbEntry) : Bool :=
  i.tlbiCovers e.asid &&
    (field i.tlbi2 16 2 != 0 ||
      (decide (e.vbase < i.tlbi0.toNat + i.tlbi1.toNat) && decide (i.tlbi0.toNat < e.vbase + e.size)))

/-- Whether every access that a team has translated has been performed. DEDUCED (log 21). -/
def State.accessesDone (s : State) (t : Team) : Bool :=
  t.storesDone && !(s.pod.reqs.any fun r => r.team == t.id && r.ans.isNone && !r.dead)

/-- Whether a request to another member that no team waits for may have been translated under an ASID that an invalidation covers:
one of a launch's barrier, or one whose team is gone. -/
def State.looseRequest (s : State) (i : VirtIf) (r : RemoteOut) : Bool :=
  r.ans.isNone && !r.dead && (match r.use with
    | .gate l _ => s.sched.launches.any fun x => x.id == l && i.tlbiCovers x.asid
    | .gone => (s.team? r.team).isNone
    | _ => false)

/-- Dropping the entries that an invalidation names; a walker keeps nothing, and what the allotment table has come to say is in force
where no TLB translates any more (R378). DEDUCED (log 21). -/
def State.tlbiDrop (s : State) (i : VirtIf) : State :=
  ({ s with ms.tlb := s.ms.tlb.filter (fun e => !i.tlbiHits e), ms.walk := [] } : State).settleBlocks

/-- An invalidation completes once the accesses that dropped entries translated are done. -/
def execTlbiComplete (vi : Nat) (s : State) : Host.Outcome State Fault Refusal :=
  match s.vis[vi]? with
  | none => .refused (.notEnabled "TLBI_COMPLETE")
  | some i =>
    if i.tlbi2.getLsbD 31 && s.teams.all (fun t => !i.tlbiCovers t.const.asid || s.accessesDone t) &&
        !(s.pod.reqs.any (s.looseRequest i)) then
      .next ((s.tlbiDrop i).setVi vi { i with tlbi2 := setField i.tlbi2 31 1 0 })
    else .refused (.notEnabled "TLBI_COMPLETE")

end Sys2Proof.Machine
end

