-- ==== Sys2Proof/Machine/Remote.lean ====
section
/-! DEFINITION. The pod (R344 to R352): requests that arrive and are checked, answers, timeouts, membership, lanes. -/

namespace Sys2Proof.Machine

/-! The target (R347, R348). -/

/-- The offsets from the request's address of the bytes that it covers, first and number; writes cover each byte by
itself. -/
def RemoteReq.span (r : RemoteReq) : List Nat :=
  match r.kind with
  | .read n => (List.range n).map (r.pa + ·)
  | .write bs => bs.map fun b => r.pa / 256 * 256 + b.1
  | .atomic _ wide _ _ => (List.range (if wide then 8 else 4)).map (r.pa + ·)
  | .barrier _ => (List.range 16).map (r.pa + ·)

/-- The rights that a request needs: R, W, A. -/
def RemoteKind.rights : RemoteKind → Bool × Bool × Bool
  | .read _ => (true, false, false)
  | .write _ => (false, true, false)
  | .atomic _ _ _ _ | .barrier _ => (true, true, true)

/-- Whether an entry of the source window table admits a request. -/
def windowAdmits (e : Nat) (r : RemoteReq) : Bool :=
  let bit := fun (i : Nat) => decide (e / 2 ^ i % 2 = 1)
  let fieldOf := fun (i n : Nat) => e / 2 ^ i % 2 ^ n
  let n := RemoteKind.rights r.kind
  decide (fieldOf 116 12 = 0) && decide (fieldOf 64 16 = 0) && decide (fieldOf 56 7 = 0) && !bit 52 && decide (fieldOf 0 16 = 0) &&
    bit 63 && (!n.1 || bit 53) && (!n.2.1 || bit 54) && (!n.2.2 || bit 55) &&
    (RemoteReq.span r).all fun a => decide (fieldOf 16 36 ≤ a / 65536) && decide (a / 65536 ≤ fieldOf 80 36)

/-- Whether some entry of the source admits a request; host memory and unpopulated PAs never are. -/
def State.admits (s : State) (r : RemoteReq) : Bool :=
  (RemoteReq.span r).all (fun a => populated a && !inHost a) &&
    (List.range 4).any fun w => windowAdmits (ofBytes (s.mem.bytes (s.pod.swtbase + 64 * r.src.toNat + 16 * w) 16)) r

/-- Whether a request reads a poisoned word at its home (R275). -/
def State.meetsPoison (s : State) (r : RemoteReq) : Bool :=
  (match r.kind with | .read _ => true | .write _ => false | .atomic op _ _ _ => op != .st | .barrier _ => true) &&
    (RemoteReq.span r).any fun a => s.ms.poison.contains (a / 4 * 4)

/-- Performing an admitted request at its home; the answer follows the registration, and tells that a read has met a poisoned
word. DEDUCED (log 42). -/
def State.serve (s : State) (r : RemoteReq) : State × RemoteAnswer :=
  if s.meetsPoison r then (s, .poisoned) else
  match r.kind with
  | .read n => (s, .data (s.mem.bytes r.pa n))
  | .write bs => (s.register none false (bs.map fun b => (r.pa / 256 * 256 + b.1, b.2)), .done)
  | .atomic op wide x y =>
    let n := if wide then 8 else 4
    let old := s.mem.bytes r.pa n
    match atomBytes op n x.toNat y.toNat old with
    | some new => (s.register none false (cellsAt r.pa new), .data old)
    | none => (s, .data old)
  | .barrier op =>
    let old := s.mem.bytes r.pa 16
    match op, barApply op old with
    | .read, _ => (s, .data old)
    | _, .ok new => (s.register none false (cellsAt r.pa new), .data old)
    | _, .error d => (s, .overflow d)

/-- A request arrives: from a device that is no member it is dropped; a refused one is answered with an error. -/
def execRemoteRequest (req : RemoteReq) (s : State) : Host.Outcome State Fault Refusal :=
  if !s.member req.src then .next s
  else
    let (s, a) := if s.admits req then s.serve req else (s, .error)
    .next { s with pod.answers := s.pod.answers ++ [(req.src, req.id, a)] }

/-! Containment records (R350). -/

def State.crecRoom (s : State) : Bool :=
  let logn := field s.pod.crec 0 5
  decide (1 ≤ logn) && decide ((s.pod.crwr - s.pod.crrd).toNat < 2 ^ logn)

/-- A record of a device: coalesced with an earlier one until the driver advances CRRD. DEDUCED (log 43). -/
def State.contain (s : State) (kind : Nat) (dev : BitVec 10) : State :=
  if (s.pod.reported.any fun r => r.1 == dev) || !s.crecRoom then s
  else
    let time := ((s.clusters[0]?).map (·.cyclef)).getD 0
    let r := layBytes 32 [(0, toBytes 2 kind), (2, toBytes 2 dev.toNat), (8, toBytes 8 time)]
    let i := s.pod.crwr.toNat
    let s := s.deviceWrite (field s.pod.crec 5 52 * 32 + 32 * (i % 2 ^ field s.pod.crec 0 5)) r
    ({ s with pod.crwr := s.pod.crwr + 1, pod.reported := (dev, i) :: s.pod.reported } : State).signal 0 2

/-! The initiator (R347, R348, R350, R351). -/

def State.dropReq (s : State) (id : Nat) : State := { s with pod.reqs := s.pod.reqs.filter (·.id != id) }

def State.setReq (s : State) (r : RemoteOut) : State :=
  { s with pod.reqs := s.pod.reqs.map fun x => if x.id = r.id then r else x }

/-- A request of a load or store in flight has ended. What its answers bring becomes one pending fault once the last of them is
there (R184, R258). -/
def Team.requestEnds (t : Team) (id : Nat) (fault : Option (BitVec 8 × DWord)) : Team :=
  let fs := t.iss.flights.map fun f =>
    let g := f.lose id fault
    if f.remote.contains id && f.kind == .store then { g with done := g.remote.isEmpty && g.bytes.isEmpty } else g
  let ended := fs.filter fun f => f.remote.isEmpty && f.fault.isSome
  let t := Team.settleFlights { t with iss.flights := fs.map fun f => if f.remote.isEmpty then { f with fault := none } else f }
  let raise := fun (fs : List PendFault) (f : Flight) => match f.fault with
    | some (_, cause, info) => if cause = 0 then fs else insertFault ⟨cause, info, f.next, false, f.kind == .store, true⟩ fs
    | none => fs
  Team.endWait { t with iss.faults := ended.foldl raise t.iss.faults }

def RemoteKind.isWrite : RemoteKind → Bool | .write _ => true | _ => false

/-- Whether a request goes out with a vendor-defined encoding (R344). -/
def RemoteKind.vendor : RemoteKind → Bool
  | .atomic .addf _ _ _ | .atomic .addbf _ _ _ | .barrier _ => true
  | _ => false

/-- The queue that holds an operation. -/
def Team.queueOf? (t : Team) (serial : Nat) : Option Nat := (List.range 7).find? fun q => (t.queued q).contains serial

/-- A packet of a queued operation's write has ended (R208); of one that is over it tells nothing. DEDUCED (log 37). -/
def State.queuePacketEnds (s : State) (r : RemoteOut) (serial : Nat) (fault : Option (BitVec 8 × DWord)) : State :=
  let s := s.dropReq r.id
  match s.team? r.team, fault with
  | some t, some (cause, bits) =>
    match t.queueOf? serial with
    | some q => s.failOp t.id q serial cause (addrInfo r.va.toNat ||| bits)
    | none => s
  | _, _ => s

/-- Whether nothing waits for the answer to a request any more. -/
def State.orphan (s : State) (r : RemoteOut) : Bool :=
  match r.use with
  | .queue n => n != 0 && (s.team? r.team).all fun t => (t.queueOf? n).isNone
  | .load | .gone => s.teams.all fun t => (t.partsOf r.id).isEmpty
  | _ => false

/-- A packet of a write has ended. DEDUCED (log 44). -/
def State.writeEnds (s : State) (r : RemoteOut) (fault : Option (BitVec 8 × DWord)) : State :=
  match r.use with
  | .queue q => s.queuePacketEnds r q fault
  | _ =>
    match (s.dropReq r.id).team? r.team with
    | some t => (s.dropReq r.id).setTeam (t.requestEnds r.id (fault.map fun x => (x.1, addrInfo r.va.toNat ||| x.2)))
    | none => s.dropReq r.id

/-- An L1 keeps unowned copies of the whole words that an answer brings (R254). -/
def State.keepRemote (s : State) (core : Nat) (dev : BitVec 10) (pa : Nat) (bs : List Byte) : State :=
  let ws := ((List.range bs.length).map (pa + ·)).filter fun a => decide (a % 4 = 0) && decide (a + 4 ≤ pa + bs.length)
  let new := ws.map fun a => (⟨core, some dev, a, BitVec.ofNat 32 (ofBytes ((bs.drop (a - pa)).take 4)), false⟩ : L1Word)
  { s with ms.l1 := l1Put core (some dev) new s.ms.l1 }

/-- A request that loads wait for has ended: their windows take the bytes, what they miss is noted, and what was refused becomes
a pending fault (R48, R50, R184, R347). -/
def State.loadEnds (s : State) (r : RemoteOut) (x : LoadEnd) : State :=
  let s := s.dropReq r.id
  { s with teams := s.teams.map fun (t : Team) =>
      match t.partsOf r.id with
      | [] => t
      | p :: ps =>
        let u := (p :: ps).foldl (fun u y => y.2.arrive y.1 x u) t
        Team.requestEnds { u with iss.windows := u.iss.windows.map (·.answer r.id x) } r.id
          (match x with | .fault c => some (c, loadFault c p.2.va.toNat) | _ => none) }

/-- How an answer ends the request of a load. -/
def loadEnd (dev : BitVec 10) : RemoteAnswer → LoadEnd
  | .data bs => .data bs
  | .error => .fault 0x07
  | .poisoned => .fault 0x0A
  | _ => .dead dev

/-- Whether loads of some team wait for a request. -/
def State.loadsWait (s : State) (r : RemoteOut) : Bool := s.teams.any fun t => !(t.partsOf r.id).isEmpty

/-- The answer to a read enters the L1 of its core (R254). One that was asked for before an acquire, a write or a later read enters
nothing. -/
def State.settleRead (s : State) (r : RemoteOut) : State :=
  if r.stale then s
  else match r.use, r.ans, s.team? r.team with
  | .load, some (.data bs), some t | .instruction _, some (.data bs), some t =>
    if RemoteKind.isRead r.kind then s.keepRemote t.coreId r.dev r.pa bs else s
  | _, _, _ => s

/-- Whether a request is one that a store in flight waits for: a packet of it, or a lane of V.ATOM.ST. -/
def RemoteOut.isWrite (r : RemoteOut) : Bool := RemoteKind.isWrite r.kind || r.use == .flight

/-- A poll has ended with an error or at a dead member: the wait is over, and the instruction meets it as it issues again (R351). -/
def State.pollEnds (s : State) (r : RemoteOut) : State :=
  match s.team? r.team with
  | none => s.dropReq r.id
  | some t =>
    match t.iss.withheld with
    | some (fi, .barWait _ _) => (s.setReq { r with use := .instruction (1024 + fi) }).setTeam { t with iss.withheld := none }
    | _ => s.dropReq r.id

/-- A request ends as one sent to a dead target. -/
def State.endDead (s : State) (r : RemoteOut) : State :=
  if s.orphan r then s.dropReq r.id
  else if r.isWrite then s.writeEnds r (some (0x0B, if r.forming then 0 else 1 <<< 62))
  else if r.use = .poll then s.pollEnds { r with dead := true }
  else if s.loadsWait r then s.loadEnds r (.dead r.dev)
  else s.setReq { r with dead := true }

/-- A request that waits for its answer. -/
def State.waitingReq (s : State) (id : Nat) : Option RemoteOut :=
  s.pod.reqs.find? fun r => r.id == id && r.ans.isNone && !r.dead && !r.forming

/-- Whether a request has timed out: 250 microseconds have passed since it was sent. -/
def State.timedOut (s : State) (r : RemoteOut) : Bool := decide (r.at_ + 250 * Config.ticksPerUs ≤ s.now)

/-- Packets of operations that are over and that a port has held back go out once it does so no more (R345). -/
def State.sendLeft (s : State) : State := s.flushWrites fun r => r.use == .gone

/-- An answer arrives. A late one, or one from a device that is no member, is discarded. A port that retrains brings
none (R277). -/
def execRemoteResponse (id : Nat) (ans : RemoteAnswer) (s : State) : Host.Outcome State Fault Refusal :=
  match s.waitingReq id with
  | none => .next s
  | some r =>
    if s.pod.retrain.getD r.port false then .refused (.notEnabled "REMOTE_RESPONSE")
    else if !s.member r.dev || s.timedOut r then .next s
    else
      let s :=
        if s.orphan r then s.dropReq r.id
        else if r.isWrite then s.writeEnds r (if ans = .error then some (0x07, 0) else none)
        else if r.use = .poll && (ans == .error || ans == .poisoned) then s.pollEnds { r with ans := some ans }
        else
          let r := { r with ans := some ans }
          let s := s.settleRead r
          if s.loadsWait r then
            (if r.use = .queue 0 ∧ r.stale = false then s.answerFill r else s).loadEnds r (loadEnd r.dev ans)
          else s.setReq r
      .next (if RemoteKind.vendor r.kind && ans == .error then s.contain 3 r.dev else s).sendLeft

/-- 250 microseconds after it was sent, a request without an answer has timed out. -/
def execRemoteTimeout (id : Nat) (s : State) : Host.Outcome State Fault Refusal :=
  match s.waitingReq id with
  | none => .refused (.notEnabled "REMOTE_TIMEOUT")
  | some r =>
    if s.timedOut r then .next ((s.endDead r).contain 1 r.dev).sendLeft else .refused (.notEnabled "REMOTE_TIMEOUT")

/-! Membership (R346, R351). -/

/-- A write of mask n: new members count at once, a cleared bit once the clear is applied. -/
def State.writeMember (s : State) (n : Nat) (mask : DWord) : State :=
  { s with pod.member := setAt s.pod.member n mask, pod.applied := setAt s.pod.applied n (s.pod.applied.getD n 0 ||| mask) }

def execMemberWrite (n : BitVec 4) (mask : DWord) (s : State) : Host.Outcome State Fault Refusal :=
  if !s.boot.powered || s.boot.reset then .next s else .next (s.writeMember n.toNat mask)

def maskBit (ms : List DWord) (dev : BitVec 10) : Bool := (ms.getD (dev.toNat / 64) 0).getLsbD (dev.toNat % 64)

/-- A cleared bit takes effect: what is outstanding ends as sent to a dead target, and every L1 drops the device's words. -/
def execMemberClearApply (dev : BitVec 10) (s : State) : Host.Outcome State Fault Refusal :=
  if !maskBit s.pod.member dev && maskBit s.pod.applied dev then
    let w := dev.toNat / 64
    let s := { s with pod.applied := setAt s.pod.applied w (s.pod.applied.getD w 0 &&& ~~~(BitVec.ofNat 64 (2 ^ (dev.toNat % 64)))),
                      ms.l1 := s.ms.l1.filter fun x => x.dev != some dev }
    .next ((s.pod.reqs.filter fun r => r.dev == dev && r.ans.isNone && !r.dead).foldl (fun s r => s.endDead r) s).sendLeft
  else .refused (.notEnabled "MEMBER_CLEAR_APPLY")

/-! Lanes (R277, R344). -/

/-- A lane of a port fails: the spare takes its place, then the port goes on as x2, then it leaves service. -/
def execPortLaneFail (port : Nat) (s : State) : Host.Outcome State Fault Refusal :=
  match s.pod.lanes[port]? with
  | none | some 0 => .refused (.notEnabled "PORT_LANE_FAIL")
  | some n =>
    let again := fun (s : State) => { s with pod.retrain := setAt s.pod.retrain port true }
    if s.pod.spares.getD port true = false then .next (again { s with pod.spares := setAt s.pod.spares port true })
    else if n = 4 then .next (again { s with pod.lanes := setAt s.pod.lanes port 2 })
    else
      .next (({ s with pod.lanes := setAt s.pod.lanes port 0, pod.retrain := setAt s.pod.retrain port false } : State).contain 2 s.devNo)

def execPortRetrainDone (port : Nat) (s : State) : Host.Outcome State Fault Refusal :=
  if s.pod.retrain.getD port false then .next { s with pod.retrain := setAt s.pod.retrain port false }
  else .refused (.notEnabled "PORT_RETRAIN_DONE")

end Sys2Proof.Machine
end

