-- ==== Sys2Proof/Machine/Convert.lean ====
section
/-! DEFINITION. Conversions between element types (R163 to R166). -/

namespace Sys2Proof.Machine

/-- The rounding of a conversion: its override, else MODE.RM, or in slot mode ORND (R70, R163). SATF comes from
the slot (R62). -/
def Team.convRnd (t : Team) (rnd : RoundOverride) (target : ConvTarget) : Rnd :=
  let base := match target with
    | .type _ => t.rm
    | .slot n => match field (t.slot n) 40 2 with | 0 => .rne | 1 => .rtz | 2 => .rdn | _ => .rup
  let rm := match rnd with | .mode => base | .rne => .rne | .rtz => .rtz | .sr => .sr
  let satf := match target with | .type _ => false | .slot n => (t.slot n).getLsbD 42
  ⟨rm, 0, t.ftz, satf⟩

/-- Whether a slot holds nothing reserved beside its types (R69, R70). -/
def slotPlain (q : QWord) : Bool :=
  decide (field q 43 85 = 0) && decide (field q 32 8 = 127) && decide (field q 24 8 = 5) && decide (field q 16 8 = 6)

/-- The target of a conversion that is a legal use: types 0 to 10, through a slot types 2 to 10 and any type code
as BF (R70, R163). -/
def Team.convTarget (t : Team) (target : ConvTarget) : Option ElemType :=
  match target with
  | .type c => if c.code.toNat ≤ 10 then some c else none
  | .slot n =>
    let q := t.slot n
    match slotTypeA q, slotTypeB q with
    | some a, some _ => if slotPlain q && decide (2 ≤ a.code.toNat) && decide (a.code.toNat ≤ 10) then some a else none
    | _, _ => none

/-- The source type of a conversion: 0 to 10 (R147). -/
def Team.convSource (t : Team) : Option ElemType := if t.et.code.toNat ≤ 10 then some t.et else none

/-- Whether a conversion rounds, so that SR consumes a step: not from integer to integer (R64). -/
def rounds (src dst : ElemType) : Bool := !(src.isInt && dst.isInt)

/-- The results of every guarded lane written over k registers of elements of width w (R164). -/
def Ctx.writeRange (c : Ctx) (d w k : Nat) (r : List (Nat × List Nat) × Sparse 32 × Nat) : Effect :=
  let per := 32 / w
  let t := (List.range k).foldl (fun t i =>
    t.writeV (d + i) (r.1.map fun (x : Nat × List Nat) => (x.1, pack w ((x.2.drop (per * i)).take per)))) { c.t with regs.sr := r.2.1 }
  .next c.s (t.setFlags r.2.2)

/-- V.CVT (R164). -/
def execVCvt (d a : BitVec 7) (rnd : RoundOverride) (target : ConvTarget) (s : State) : Host.Outcome State Fault Refusal :=
  s.issue (.vCvt d a rnd target) (.lane .special 4 6) fun c =>
    let t := c.t
    match t.convSource, t.convTarget target with
    | some src, some dst =>
      let o := t.convRnd rnd target
      let o := if rounds src dst then o else { o with rm := .rne }
      c.writeRange d.toNat dst.width (t.cvtCount target)
        (runLanes t o src.per (fun l o e => convert src dst o (elem src.width (t.readV a.toNat l) e)) c.lanes)
    | _, _ => .reservedUse

/-- V.PACK (R165): elements of several registers into one. -/
def execVPack (d a : BitVec 7) (rnd : RoundOverride) (target : ConvTarget) (s : State) : Host.Outcome State Fault Refusal :=
  s.issue (.vPack d a rnd target) (.lane .special 4 6) fun c =>
    let t := c.t
    match t.convSource, t.convTarget target with
    | some src, some dst =>
      if 32 ≤ src.per * dst.width then .reservedUse
      else
        let o := t.convRnd rnd target
        let o := if rounds src dst then o else { o with rm := .rne }
        c.writeRange d.toNat dst.width 1
          (runLanes t o (32 / dst.width) (fun l o e =>
            convert src dst o (elem src.width (t.readV (a.toNat + e / src.per) l) (e % src.per))) c.lanes)
    | _, _ => .reservedUse

/-- What V.UNPK widens a type to (R166). -/
def unpkTarget : ElemType → Option ElemType
  | .int16 => some .int32 | .uint16 => some .uint32 | .bf16 | .fp16 => some .fp32
  | .int8 => some .int16 | .uint8 => some .uint16 | .e4m3 | .e5m2 => some .fp16
  | _ => none

/-- V.UNPK (R166): the elements of one half, widened exactly. DESIGN CHOICE (log 67). -/
def execVUnpk (d a : BitVec 7) (half : Half) (s : State) : Host.Outcome State Fault Refusal :=
  s.issue (.vUnpk d a half) (.lane .special 4 6) fun c =>
    let t := c.t
    match unpkTarget t.et with
    | none => .reservedUse
    | some dst =>
      let n := 16 / t.et.width
      let base := match half with | .lo => 0 | .hi => n
      c.writeRange d.toNat dst.width 1
        (runLanes t t.exact n (fun l o e => convert t.et dst o (elem t.et.width (t.readV a.toNat l) (base + e))) c.lanes)

end Sys2Proof.Machine
end

