-- ==== Sys2Proof/Machine/CrossLane.lean ====
section
/-! DEFINITION. Cross-lane, predicate and loupe instructions (R167 to R172, R180, R181), and the tree of sums
(R72, R73). -/

namespace Sys2Proof.Machine

/-! Permutations within a group (R167, R168). -/

/-- Each guarded lane takes V[A] of column j of its group; zero where j is no column. -/
def Ctx.permute (c : Ctx) (d a : BitVec 7) (column : Nat → Nat) : Effect :=
  c.words d fun l =>
    let j := column l
    if j < 32 then c.t.readV a.toNat (l / 32 * 32 + j) else 0

def perm : Time := .lane .movement 2 2

def execVPermXor (d a b : BitVec 7) (s : State) : Host.Outcome State Fault Refusal :=
  s.issue (.vPermXor d a b) perm fun c => c.permute d a fun l => (l % 32) ^^^ (c.S b).toNat
def execVPermRot (d a b : BitVec 7) (s : State) : Host.Outcome State Fault Refusal :=
  s.issue (.vPermRot d a b) perm fun c => c.permute d a fun l => if (c.S b).toNat < 32 then (l % 32 + (c.S b).toNat) % 32 else 32
def execVPermBc (d a b : BitVec 7) (s : State) : Host.Outcome State Fault Refusal :=
  s.issue (.vPermBc d a b) perm fun c => c.permute d a fun _ => (c.S b).toNat
def execVPermIdx (d a b : BitVec 7) (s : State) : Host.Outcome State Fault Refusal :=
  s.issue (.vPermIdx d a b) perm fun c => c.permute d a fun l => (c.t.readV b.toNat l).toNat % 32

/-! Broadcast, lane numbers, lowest lane, ballot (R169). -/

def execVBcast (d a : BitVec 7) (s : State) : Host.Outcome State Fault Refusal :=
  s.issue (.vBcast d a) laneAlu fun c => c.words d fun _ => (c.S a).setWidth 32

def execVLaneid (d : BitVec 7) (sel : LaneSel) (s : State) : Host.Outcome State Fault Refusal :=
  s.issue (.vLaneid d sel) laneAlu fun c => c.words d fun l =>
    match sel with
    | .linear => BitVec.ofNat 32 l
    | .column => BitVec.ofNat 32 (l % 32)
    | .group => BitVec.ofNat 32 (l / 32)
    | .virtualLinear => BitVec.ofNat 32 (c.lanes.filter (· < l)).length

def toScalar : Time := .lane .lanes 1 12

def execVVtos (d a : BitVec 7) (s : State) : Host.Outcome State Fault Refusal :=
  s.issue (.vVtos d a) toScalar fun c => c.setS d (match c.lanes with | l :: _ => zext (c.t.readV a.toNat l) | [] => 0)

def execVBallot (d a b : BitVec 7) (s : State) : Host.Outcome State Fault Refusal :=
  s.issue (.vBallot d a b) toScalar fun c =>
    let g := (c.S b).toNat
    c.setS d (if g < c.t.const.h then BitVec.ofNat 64 (field (c.guard &&& c.t.readP a.toNat) (32 * g) 32) else 0)

/-! The tree unit (R72, R73). -/

/-- One operation of the tree: its combination of two nodes, with flags, its identity, and how it takes in a leaf. -/
structure TreeOp where
  op : Nat → Nat → Nat × Nat
  id : Nat
  leaf : Nat → Nat := fun x => x

/-- A floating leaf: flushed by FTZ, a NaN canonical (R55, R58). -/
def floatLeaf (f : Fmt) (ftz : Bool) (x : Nat) : Nat := (f.round rne (f.read ftz x)).1

/-- The tree operation for an op and a type (R72, R170): floating or integer by the type; rounding is RNE under
SR. -/
def treeOp (op : RedOp) (t : ElemType) (rm : RoundMode) (ftz sat : Bool) : TreeOp :=
  let w := t.width
  let o : Rnd := ⟨if rm = .sr then .rne else rm, 0, ftz, false⟩
  match op with
  | .and => { op := fun x y => (x &&& y, 0), id := 2 ^ w - 1 }
  | .or => { op := fun x y => (x ||| y, 0), id := 0 }
  | .xor => { op := fun x y => (x ^^^ y, 0), id := 0 }
  | .add => match t.fmt with
    | some f => ⟨fun x y => f.roundI o (sumProducts o.rm [] [f.read ftz x, f.read ftz y]), 2 ^ (w - 1), floatLeaf f ftz⟩
    | none => { op := fun x y => (t.fit sat (t.int x + t.int y), 0), id := 0 }
  | .min => match t.fmt with
    | some f => ⟨fun x y => (f.minMax false ftz x y, 0), f.infBits, floatLeaf f ftz⟩
    | none => { op := fun x y => (if t.int y < t.int x then y else x, 0), id := wrapTo w t.intMax }
  | .max => match t.fmt with
    | some f => ⟨fun x y => (f.minMax true ftz x y, 0), f.signBit true + f.infBits, floatLeaf f ftz⟩
    | none => { op := fun x y => (if t.int x < t.int y then y else x, 0), id := wrapTo w t.intMin }

/-- One level of the tree from the one below: its nodes and the flags of its roundings. -/
def treeLevel (o : TreeOp) : List Nat → List Nat × Nat
  | x :: y :: r =>
    let n := o.op x y
    let rest := treeLevel o r
    (n.1 :: rest.1, n.2 ||| rest.2)
  | xs => (xs, 0)

/-- The levels of the tree above and with the leaves, lowest first, and the flags of their nodes. -/
def treeLevels (o : TreeOp) : Nat → List Nat → List (List Nat) × Nat
  | 0, xs => ([xs], 0)
  | h + 1, xs =>
    let up := treeLevel o xs
    let rest := treeLevels o h up.1
    (xs :: rest.1, up.2 ||| rest.2)

/-- The leaves: element e of lane l at p·l + e; positions without Guard hold the identity. -/
def Ctx.leaves (c : Ctx) (a : BitVec 7) (o : TreeOp) : List Nat :=
  (List.range 1024).flatMap fun l => (List.range c.t.et.per).map fun e =>
    if c.guard.getLsbD l && decide (l < c.t.nLanes) then o.leaf (c.t.el a.toNat l e) else o.id

/-- Levels above the leaves: 10, 11 or 12 (R72). -/
def treeHeight (t : ElemType) : Nat := 10 + Nat.log2 t.per

/-- V.RED (R170). -/
def execVRed (d a : BitVec 7) (op : RedOp) (s : State) : Host.Outcome State Fault Refusal :=
  s.issue (.vRed d a op) toScalar fun c =>
    let t := c.t
    if (ElemType.memoryOnly t.et) then .reservedUse
    else
      let o := treeOp op t.et t.rm t.ftz t.sat
      let r := treeLevels o (treeHeight t.et) (c.leaves a o)
      let top := (r.1.getLastD []).headD o.id
      let x : DWord := if t.et.signed then BitVec.ofInt 64 (t.et.int top) else BitVec.ofNat 64 top
      .next c.s ((t.writeS d.toNat x).setFlags r.2)

/-- The inclusive scan up to leaf n - 1: the nodes of the powers of two that make up n, from the largest (R73). -/
def scanFrom (o : TreeOp) (levels : List (List Nat)) : Nat → Nat → Nat → Option Nat → Nat × Nat
  | 0, _, _, acc => (acc.getD o.id, 0)
  | h + 1, n, off, acc =>
    if n / 2 ^ h % 2 = 1 then
      let node := (levels.getD h []).getD (off / 2 ^ h) o.id
      let v := match acc with | none => (node, 0) | some p => o.op p node
      let rest := scanFrom o levels h n (off + 2 ^ h) (some v.1)
      (rest.1, v.2 ||| rest.2)
    else scanFrom o levels h n off acc

/-- V.SCAN (R170). -/
def execVScan (d a : BitVec 7) (op : RedOp) (s : State) : Host.Outcome State Fault Refusal :=
  s.issue (.vScan d a op) (.lane .lanes 2 12) fun c =>
    let t := c.t
    if (ElemType.memoryOnly t.et) then .reservedUse
    else
      let o := treeOp op t.et t.rm t.ftz t.sat
      let h := treeHeight t.et
      let r := treeLevels o h (c.leaves a o)
      let p := t.et.per
      let outs := c.lanes.map fun l => (l, (List.range p).map fun e => scanFrom o r.1 (h + 1) (p * l + e + 1) 0 none)
      let fl := outs.foldl (fun acc x => x.2.foldl (fun acc y => acc ||| y.2) acc) r.2
      .next c.s ((t.writeV d.toNat (outs.map fun x => (x.1, pack t.et.width (x.2.map (·.1))))).setFlags fl)

/-! Predicates (R171, R172). -/

/-- P[D] in the guarded lanes; Guard is evaluated before any write. -/
def Ctx.setP (c : Ctx) (d : BitVec 7) (x : LaneMask) : Effect := .next c.s (c.t.writePIn d.toNat c.guard x)

def Ctx.P (c : Ctx) (n : BitVec 7) : LaneMask := c.t.readP n.toNat

def execPredAnd (d a b : BitVec 7) (s : State) : Host.Outcome State Fault Refusal :=
  s.issue (.predAnd d a b) laneAlu fun c => c.setP d (c.P a &&& c.P b)
def execPredOr (d a b : BitVec 7) (s : State) : Host.Outcome State Fault Refusal :=
  s.issue (.predOr d a b) laneAlu fun c => c.setP d (c.P a ||| c.P b)
def execPredXor (d a b : BitVec 7) (s : State) : Host.Outcome State Fault Refusal :=
  s.issue (.predXor d a b) laneAlu fun c => c.setP d (c.P a ^^^ c.P b)
def execPredAndn (d a b : BitVec 7) (s : State) : Host.Outcome State Fault Refusal :=
  s.issue (.predAndn d a b) laneAlu fun c => c.setP d (c.P a &&& ~~~(c.P b))
def execPredNot (d a : BitVec 7) (s : State) : Host.Outcome State Fault Refusal :=
  s.issue (.predNot d a) laneAlu fun c => c.setP d (~~~(c.P a))
def execPredMov (d a : BitVec 7) (s : State) : Host.Outcome State Fault Refusal :=
  s.issue (.predMov d a) laneAlu fun c => c.setP d (c.P a)
def execPredSet (d : BitVec 7) (s : State) : Host.Outcome State Fault Refusal :=
  s.issue (.predSet d) laneAlu fun c => c.setP d allLanes
def execPredClr (d : BitVec 7) (s : State) : Host.Outcome State Fault Refusal :=
  s.issue (.predClr d) laneAlu fun c => c.setP d 0
def execPredFroms (d a : BitVec 7) (s : State) : Host.Outcome State Fault Refusal :=
  s.issue (.predFroms d a) laneAlu fun c => c.setP d (maskOf 1024 fun l => (c.S a).getLsbD (l % 64))
def execPredAny (d a : BitVec 7) (s : State) : Host.Outcome State Fault Refusal :=
  s.issue (.predAny d a) toScalar fun c => c.setS d (bit (c.guard &&& c.P a != 0))
def execPredAll (d a : BitVec 7) (s : State) : Host.Outcome State Fault Refusal :=
  s.issue (.predAll d a) toScalar fun c => c.setS d (bit (c.guard &&& ~~~(c.P a) == 0))
def execPredCount (d a : BitVec 7) (s : State) : Host.Outcome State Fault Refusal :=
  s.issue (.predCount d a) toScalar fun c => c.setS d (BitVec.ofNat 64 (popCount (c.guard &&& c.P a)))

/-! The loupe (R180, R181): word x of row y at key 32·y + x. -/

def execLWr (a b : BitVec 7) (s : State) : Host.Outcome State Fault Refusal :=
  s.issue (.lWr a b) (.lane .movement 1 2) fun c =>
    .next c.s { c.t with regs.loupe := c.t.regs.loupe.setAll (c.lanes.map fun l =>
      (32 * ((l / 32 + (c.S b).toNat) % 32) + l % 32, c.t.readV a.toNat l)) }
def execLRdt (d : BitVec 7) (s : State) : Host.Outcome State Fault Refusal :=
  s.issue (.lRdt d) perm fun c => c.words d fun l => c.t.regs.loupe.get (32 * (l % 32) + l / 32)
def execLRd (d : BitVec 7) (s : State) : Host.Outcome State Fault Refusal :=
  s.issue (.lRd d) (.lane .movement 1 2) fun c => c.words d fun l => c.t.regs.loupe.get l
def execLClr (s : State) : Host.Outcome State Fault Refusal :=
  s.issue .lClr (.front 1) fun c => .next c.s { c.t with regs.loupe := [] }

end Sys2Proof.Machine
end

