-- ==== Sys2Proof/Machine/Plane.lean ====
section
/-! DEFINITION. Plane instructions (R173 to R179) and plane loads and stores (R192). -/

namespace Sys2Proof.Machine

/-! Movement (R88). -/

/-- The groups that hold an active lane of a plane. -/
def Ctx.activeGroups (c : Ctx) (p : Plane) : List Nat :=
  (((List.range (p.vh * p.vw)).filter c.guard.getLsbD).map (· / 32)).eraseDups

/-- The lane cycles of writing a plane whose element (o, r, c) comes from the given sources of plane q. -/
def Ctx.moveCost (c : Ctx) (p q : Plane) (srcs : Nat → Nat → Nat → List Source) : Nat :=
  let g := (c.activeGroups p).length
  let crossings := (List.range p.sheets).map fun s =>
    p.elements.flatMap fun (o, r, k) =>
      let l := p.lane r k
      if p.sheet o r k = s && c.guard.getLsbD l then
        (srcs o r k).filterMap fun x => match x with
          | .elem _ r' k' => let l' := q.lane r' k'
                             if l' = l then none else some ((max (l / 32) (l' / 32)) - min (l / 32) (l' / 32))
          | .edge _ => none
      else []
  crossings.foldl (fun acc hs => acc + if hs = [] then g else 2 * g + 2 * hs.foldl max 0) 0

/-- Writing a plane: each element from its sources in plane q, phantoms by R82, in the guarded virtual lanes. Every
source is read before any write. -/
def Ctx.movePlane (c : Ctx) (p q : Plane) (srcs : Nat → Nat → Nat → List Source)
    (comb : List Nat → Nat × Nat) : Effect :=
  let vals := (p.slots.filter fun (_, r, k) => c.guard.getLsbD (p.lane r k)).map fun (o, r, k) =>
    let x := if p.isPhantom r k then (c.t.phantom p, 0) else comb ((srcs o r k).map (c.t.sourceValue q))
    (p.slotWrite (p.lane r k) (p.sheet o r k) x.1, x.2)
  let t := vals.foldl (fun t x => (t.closeWrite t.iss.issued x.1).setFlags x.2) c.t
  let cost := if c.activeGroups p = [] then 0 else c.moveCost p q srcs
  let (s, wake) := c.s.useUnit c.t .movement cost
  .next s (s.markBusy t [⟨.v, p.base, p.regs, true, false⟩] true (wake + cost + 2))

/-- The descriptors of a plane instruction, checked (R78, R174). -/
def Ctx.withPlanes (c : Ctx) (gd gs : BitVec 3) (agree : Plane → Plane → Bool) (k : Plane → Plane → Effect) : Effect :=
  let p := planeOf (c.t.readG gd.toNat)
  let q := planeOf (c.t.readG gs.toNat)
  if p.ok c.t.const.h c.t.const.n && q.ok c.t.const.h c.t.const.n && agree p q then k p q else .reservedUse

/-- Same type and grid. -/
def Plane.sameGrid (p q : Plane) : Bool :=
  p.code == q.code && p.vh == q.vh && p.vw == q.vw && p.ky == q.ky && p.kx == q.kx

/-- What SHIFT, ROT and SPREAD ask (R174). -/
def Plane.same (p q : Plane) : Bool :=
  p.sameGrid q && p.rank == q.rank && p.rows == q.rows && p.cols == q.cols && p.x3 == q.x3 && p.x4 == q.x4

def Axis.isCols : Axis → Bool | .e | .w => true | _ => false

/-- The source position of R85 at distance d. -/
def shifted (ax : Axis) (d r c : Nat) : Int × Int :=
  match ax with
  | .e => (r, (c : Int) - d) | .w => (r, c + d) | .s => ((r : Int) - d, c) | .n => (r + d, c)

/-- The position that SPREAD reads (R175). -/
def spreadFrom (p : Plane) (ax : Axis) (d r c : Nat) : Int × Int :=
  match ax with
  | .e => (r, d) | .w => (r, (p.cols : Int) - 1 - d) | .s => (d, c) | .n => ((p.rows : Int) - 1 - d, c)

def first (xs : List Nat) : Nat × Nat := (xs.headD 0, 0)

/-- The distance of a movement: S[B] + I8, exact. -/
def Ctx.dist (c : Ctx) (b : BitVec 6) (imm : BitVec 8) : Nat := (c.S b).toNat + imm.toNat

def execPShift (gd gs : BitVec 3) (axis : Axis) (b : BitVec 6) (imm : BitVec 8) (s : State) : Host.Outcome State Fault Refusal :=
  s.issue (.pShift gd gs axis b imm) (.front 1) fun c => c.withPlanes gd gs Plane.same fun p q =>
    c.movePlane p q (fun o r k => let x := shifted axis (c.dist b imm) r k; [c.t.src q q.edge o x.1 x.2]) first

def execPRot (gd gs : BitVec 3) (axis : Axis) (b : BitVec 6) (imm : BitVec 8) (s : State) : Host.Outcome State Fault Refusal :=
  s.issue (.pRot gd gs axis b imm) (.front 1) fun c => c.withPlanes gd gs Plane.same fun p q =>
    c.movePlane p q (fun o r k => let x := shifted axis (c.dist b imm) r k; [c.t.src q 1 o x.1 x.2]) first

def execPSpread (gd gs : BitVec 3) (axis : Axis) (b : BitVec 6) (imm : BitVec 8) (s : State) : Host.Outcome State Fault Refusal :=
  s.issue (.pSpread gd gs axis b imm) (.front 1) fun c => c.withPlanes gd gs Plane.same fun p q =>
    c.movePlane p q (fun o r k => let x := spreadFrom q axis (c.dist b imm) r k; [c.t.src q q.edge o x.1 x.2]) first

/-! Folding (R176, R177). -/

/-- The extent along the folded axis. -/
def Plane.folded (p : Plane) (ax : Axis) : Nat := if Axis.isCols ax then p.cols else p.rows
def Plane.unfolded (p : Plane) (ax : Axis) : Nat := if Axis.isCols ax then p.rows else p.cols

def foldAgree (ax : Axis) (p q : Plane) : Bool :=
  p.sameGrid q && p.rank == q.rank && p.x3 == q.x3 && p.x4 == q.x4 && p.unfolded ax == q.unfolded ax &&
    p.folded ax == ceilDiv (q.folded ax) 2

def stackAgree (ax : Axis) (p q : Plane) : Bool :=
  p.sameGrid q && p.x4 == q.x4 && p.unfolded ax == q.unfolded ax && p.folded ax == ceilDiv (q.folded ax) 2 &&
    p.rank == max q.rank 3 && p.x3 == 2 * q.x3

/-- Near and far indices of destination index i. -/
def nearFar (ax : Axis) (x i : Nat) : Nat × Int :=
  let h := ceilDiv x 2
  match ax with
  | .e | .s => (i, (i + h : Nat))
  | .w | .n => (i + x - h, (i + x : Nat) - (2 * h : Nat))

/-- A position with the index along the folded axis replaced. -/
def along (ax : Axis) (i : Int) (r c : Nat) : Int × Int := if Axis.isCols ax then (r, i) else (i, c)

/-- A fold (R176): an element whose far partner is outside the plane is taken alone. DESIGN CHOICE (log 78). -/
def Ctx.fold (c : Ctx) (gd gs : BitVec 3) (ax : Axis) (comb : Plane → Nat → Nat → Nat × Nat) : Effect :=
  c.withPlanes gd gs (fun p q => foldAgree ax p q && decide (p.code ≤ 8)) fun p q =>
    c.movePlane p q (fun o r k =>
        let (near, far) := nearFar ax (q.folded ax) (if Axis.isCols ax then k else r)
        let at_ := fun (i : Int) => let x := along ax i r k; Source.elem o x.1.toNat x.2.toNat
        if 0 ≤ far ∧ far < q.folded ax then [at_ near, at_ far] else [at_ near])
      fun xs => match xs with | [a, b] => comb p a b | _ => first xs

/-- The sum of two elements of a plane (R176): SR rounds to nearest even. -/
def Ctx.planeAdd (c : Ctx) (p : Plane) (a b : Nat) : Nat × Nat :=
  match p.et.fmt with
  | some f =>
    let rm := if c.t.rm = .sr then .rne else c.t.rm
    f.roundI ⟨rm, 0, c.t.ftz, false⟩ (sumProducts rm [] [f.read c.t.ftz a, f.read c.t.ftz b])
  | none => (p.et.fit c.t.sat (p.et.int a + p.et.int b), 0)

def Ctx.planeMinMax (c : Ctx) (max_ : Bool) (p : Plane) (a b : Nat) : Nat × Nat :=
  match p.et.fmt with
  | some f => (f.minMax max_ c.t.ftz a b, 0)
  | none => (if (if max_ then decide (p.et.int a < p.et.int b) else decide (p.et.int b < p.et.int a)) then b else a, 0)

def execPFoldAdd (gd gs : BitVec 3) (axis : Axis) (s : State) : Host.Outcome State Fault Refusal :=
  s.issue (.pFoldAdd gd gs axis) (.front 1) fun c => c.fold gd gs axis c.planeAdd
def execPFoldMax (gd gs : BitVec 3) (axis : Axis) (s : State) : Host.Outcome State Fault Refusal :=
  s.issue (.pFoldMax gd gs axis) (.front 1) fun c => c.fold gd gs axis (c.planeMinMax true)
def execPFoldMin (gd gs : BitVec 3) (axis : Axis) (s : State) : Host.Outcome State Fault Refusal :=
  s.issue (.pFoldMin gd gs axis) (.front 1) fun c => c.fold gd gs axis (c.planeMinMax false)

/-- P.FOLD.STACK: destination outer index (i4, 2·i3 + j), j = 0 near, j = 1 far. -/
def execPFoldStack (gd gs : BitVec 3) (axis : Axis) (s : State) : Host.Outcome State Fault Refusal :=
  s.issue (.pFoldStack gd gs axis) (.front 1) fun c => c.withPlanes gd gs (stackAgree axis) fun p q =>
    c.movePlane p q (fun o r k =>
      let i3 := o % p.x3
      let o' := o / p.x3 * q.x3 + i3 / 2
      let (near, far) := nearFar axis (q.folded axis) (if Axis.isCols axis then k else r)
      let x := along axis (if i3 % 2 = 0 then (near : Int) else far) r k
      [c.t.src q q.edge o' x.1 x.2]) first

def refoldAgree (p q : Plane) : Bool :=
  p.code == q.code && p.rank == q.rank && p.rows == q.rows && p.cols == q.cols && p.x3 == q.x3 && p.x4 == q.x4

def execPRefold (gd gs : BitVec 3) (s : State) : Host.Outcome State Fault Refusal :=
  s.issue (.pRefold gd gs) (.front 1) fun c => c.withPlanes gd gs refoldAgree fun p q =>
    c.movePlane p q (fun o r k => [.elem o r k]) first

def execPGset (gd : BitVec 3) (b : BitVec 6) (s : State) : Host.Outcome State Fault Refusal :=
  s.issue (.pGset gd b) (.front 1) fun c => .next c.s (c.t.writeG gd.toNat (c.t.readS (b.toNat + 1) ++ c.S b))

def execPGget (gs : BitVec 3) (b : BitVec 6) (s : State) : Host.Outcome State Fault Refusal :=
  s.issue (.pGget gs b) (.front 1) fun c =>
    let q := c.t.readG gs.toNat
    .next c.s ((c.t.writeS b.toNat (q.extractLsb' 0 64)).writeS (b.toNat + 1) (q.extractLsb' 64 64))

/-! P.LD and P.ST (R192). -/

/-- The guarded elements of a plane with their accesses. -/
def Ctx.planeAccs (c : Ctx) (p : Plane) (lay : Layout) (a : DWord) (q : DWord) : List (Acc × Nat × Nat × Nat) :=
  (p.elements.filter fun (_, r, k) => c.guard.getLsbD (p.lane r k)).map fun (o, r, k) =>
    (⟨4096 + 1024 * p.sheet o r k + p.lane r k, layoutAddr (Layout.num lay) a.toNat q.toInt p.bytes p.rows p.cols o r k, p.bytes⟩,
      o, r, k)

/-- The first address that is not aligned: an element's, else the base or pitch of an XOR layout.
DESIGN CHOICE (log 69). -/
def planeMisaligned (lay : Layout) (a q : DWord) (accs : List Acc) : Option Nat :=
  match misaligned accs with
  | some va => some va
  | none => if layoutAligned (Layout.num lay) a.toNat q.toInt then none else some ((accs.head?.map (·.va)).getD a.toNat)

/-- The lane datapath's time: G lane cycles per sheet. -/
def Ctx.planeWork (c : Ctx) (s : State) (p : Plane) : State :=
  (s.useUnit c.t .lanes ((c.activeGroups p).length * p.sheets)).1

/-- What a plane load fills: its elements, each at its place of the data in order, and its phantoms. -/
def Ctx.planeFill (c : Ctx) (p : Plane) (la : BitVec 4) (accs : List Acc) : Filling :=
  ⟨la, fun a => p.slotDest (a.key % 1024) (a.key / 1024 - 4), fun a => 1 <<< (a.key % 1024),
    (p.slots.filter fun (_, r, k) => p.isPhantom r k && c.guard.getLsbD (p.lane r k)).map fun (o, r, k) =>
      p.slotWrite (p.lane r k) (p.sheet o r k) (c.t.phantom p),
    fun a => p.bytes * (accs.takeWhile (·.key != a.key)).length⟩

def Ctx.planeLoad (c : Ctx) (p : Plane) (lay : Layout) (a q : DWord) (la : BitVec 4) (strong : Bool) : Effect :=
  let accs := (c.planeAccs p lay a q).map (·.1)
  let k := c.planeFill p la accs
  if strong && decide (8192 < accs.length * p.bytes) then .reservedUse
  else match planeMisaligned lay a q accs with
  | some va => c.precise 0x05 (addrInfo va)
  | none =>
    c.effectIf strong (fun t e => .next c.s (t.fillWindow k none (replayed accs k.at_ e.data))) fun t =>
      c.afterStrong t strong <|
        let paths := loadPaths (accs.map (·.va))
        if c.s.pathsFull t paths then .stall c.s t .counterFull
        else (c.s.loadIssue t strong accs).run t fun s xs =>
          .next (c.planeWork s p) (({ c with t := t } : Ctx).loads s k strong paths (xs.flatMap fun x => x.2.bytes p.bytes) xs)

def Ctx.planeStore (c : Ctx) (p : Plane) (lay : Layout) (a q : DWord) (strong : Bool) : Effect :=
  let accs := c.planeAccs p lay a q
  match planeMisaligned lay a q (accs.map (·.1)) with
  | some va => c.precise 0x05 (addrInfo va)
  | none =>
    c.effectIf strong (fun t _ => .next c.s t) fun t =>
      c.afterStrong t strong <|
        if c.s.pathsFull t (storePaths (accs.map (·.1.va))) then .stall c.s t .counterFull
        else (c.s.store t strong 1 (accs.map fun (x, o, r, k) => (x, toBytes p.bytes (c.t.planeElem p o r k)))).run t fun s x =>
          match x.2 with
          | some d => remoteFault s (x.1.recordIf (strong && c.s.someLive t needW (accs.map (·.1))) c.fi []) d
          | none => .next (c.planeWork s p) (x.1.recordIf strong c.fi [])

def Ctx.withPlane (c : Ctx) (g : BitVec 3) (k : Plane → Effect) : Effect :=
  let p := planeOf (c.t.readG g.toNat)
  if p.ok c.t.const.h c.t.const.n then k p else .reservedUse

def execPLd (g : BitVec 3) (a b : BitVec 6) (lay : Layout) (la : BitVec 4) (w : Strength) (s : State) :
    Host.Outcome State Fault Refusal :=
  s.issue (.pLd g a b lay la w) (.front 1) fun c => c.withPlane g fun p => c.planeLoad p lay (c.S a) (c.S b) la w.isStrong

def execPSt (g : BitVec 3) (a b : BitVec 6) (lay : Layout) (w : Strength) (s : State) :
    Host.Outcome State Fault Refusal :=
  s.issue (.pSt g a b lay w) (.front 1) fun c => c.withPlane g fun p => c.planeStore p lay (c.S a) (c.S b) w.isStrong

end Sys2Proof.Machine
end

