-- ==== Sys2Proof/Machine/Select.lean ====
section
/-! DEFINITION. Choosing an issue in each front cycle (R320, R321), the aperture and the shutter (R358 to R362), the
clock level and the units (R354 to R356), and the events of one team's issue. -/

namespace Sys2Proof.Machine

/-! The events of a team's issue. -/

/-- The first window whose count has run out closes, once its bytes are there (R50, R51). -/
def execWindowClose (team : Nat) (s : State) : Host.Outcome State Fault Refusal :=
  match s.team? team with
  | none => .refused (.notEnabled "WINDOW_CLOSE")
  | some t =>
    match t.iss.windows with
    | [] => .refused (.notEnabled "WINDOW_CLOSE")
    | w :: r =>
      if w.closeAt ≤ t.iss.issued ∧ w.waits = [] then .next (s.setTeam { t.closeWindow w with iss.windows := r })
      else .refused (.notEnabled "WINDOW_CLOSE")

/-- Transient results that no later instruction can read are gone (R26). -/
def execTransientExpire (team : Nat) (s : State) : Host.Outcome State Fault Refusal :=
  match s.team? team with
  | none => .refused (.notEnabled "TRANSIENT_EXPIRE")
  | some t =>
    if t.iss.bypass.all (·.liveAt t.iss.issued) then .refused (.notEnabled "TRANSIENT_EXPIRE")
    else .next (s.setTeam { t with iss.bypass := t.iss.bypass.filter (·.liveAt t.iss.issued) })

/-- A result is ready and holds no instruction back (R52). -/
def execResultReady (team n : Nat) (s : State) : Host.Outcome State Fault Refusal :=
  match (s.team? team).bind fun t => (t.iss.busy[n]?).map fun b => (t, b) with
  | none => .refused (.notEnabled "RESULT_READY")
  | some (t, b) =>
    if b.readyAt ≤ s.clock t b.lane then .next (s.setTeam { t with iss.busy := t.iss.busy.eraseIdx n })
    else .refused (.notEnabled "RESULT_READY")

/-- The kind of a pending fault: one for a suspended engine operation is resumable (R232, R259). -/
def PendFault.kind (f : PendFault) (pc : DWord) : TrapKind := if f.tinfo.getLsbD 61 then .resumable pc else .region

/-- The first pending fault is taken by a fragment that is about to issue (R259, R263), never between the parts of an instruction
under way. -/
def execTrapEntry (team frag : Nat) (s : State) : Host.Outcome State Fault Refusal :=
  match s.team? team with
  | none => .refused (.notEnabled "TRAP_ENTRY")
  | some t =>
    match t.iss.faults with
    | [] => .refused (.notEnabled "TRAP_ENTRY")
    | f :: r =>
      if s.mayIssue t frag && !t.tm && t.iss.begun.isNone then
        let s := if s.slots.head? = some (team, frag) then { s with slots := s.slots.drop 1 } else s
        .next (s.setTeam (Team.takeTrap { t with iss.faults := r } frag f.cause f.tinfo (f.kind (t.frag frag).pc)))
      else .refused (.notEnabled "TRAP_ENTRY")

/-- A team that has waited 4,096 front cycles is boosted (R321). DEDUCED (log 16). -/
def execTeamBoost (team : Nat) (s : State) : Host.Outcome State Fault Refusal :=
  match s.team? team with
  | none => .refused (.notEnabled "TEAM_BOOST")
  | some t =>
    if 4096 ≤ t.sched.waits ∧ t.sched.boosted = false then .next (s.setTeam { t with sched.boosted := true })
    else .refused (.notEnabled "TEAM_BOOST")

/-! Units (R356). -/

/-- A unit powers itself down after 64 lane cycles without work; a filler engine is not idle. -/
def execUnitPowerDown (cluster core : Nat) (u : CoreUnit) (s : State) : Host.Outcome State Fault Refusal :=
  match s.clusters[cluster]?, s.core? cluster core with
  | some c, some k =>
    match k.units[(unitIndex u)]? with
    | none | some .down => .refused (.notEnabled "UNIT_POWER_DOWN")
    | some x =>
      if x.at (c.lane2 / 2) (s.unitQueued cluster core u) = .down then
        .next (s.setCore cluster core { k with units := setAt k.units (unitIndex u) .down })
      else .refused (.notEnabled "UNIT_POWER_DOWN")
  | _, _ => .refused (.notEnabled "UNIT_POWER_DOWN")

/-- A unit that work was sent to is awake. -/
def execUnitWake (cluster core : Nat) (u : CoreUnit) (s : State) : Host.Outcome State Fault Refusal :=
  match s.clusters[cluster]?, s.core? cluster core with
  | some c, some k =>
    match k.units[(unitIndex u)]? with
    | some (.waking a e) =>
      if a ≤ c.lane2 / 2 then .next (s.setCore cluster core { k with units := setAt k.units (unitIndex u) (.awake e) })
      else .refused (.notEnabled "UNIT_WAKE")
    | _ => .refused (.notEnabled "UNIT_WAKE")
  | _, _ => .refused (.notEnabled "UNIT_WAKE")

/-! The clock level (R354, R355). -/

/-- The rank of a level. -/
def levelRank (l : BitVec 2) : Nat := match l.toNat with | 0 => 0 | 1 => 1 | 2 => 3 | _ => 2

/-- A request clipped by the cap level of its interface. -/
def clipLevel (cap l : BitVec 2) : BitVec 2 := if levelRank cap < levelRank l then cap else l

/-- The level that a cluster's resident teams ask for, until they retire or park; level 0 without one (R141, R322). -/
def State.levelWanted (s : State) (cluster : Nat) : BitVec 2 :=
  s.teams.foldl (fun best t =>
    if t.sched.life.holds = true ∧ t.sched.cluster = cluster then
      let l := clipLevel ((s.vis.getD t.const.vi State.resetVi).caplvl) t.sched.level
      if levelRank best < levelRank l then l else best
    else best) 0

/-- A change of clock level (R355). DESIGN CHOICE (log 9). -/
def execClockLevelChange (cluster : Nat) (s : State) : Host.Outcome State Fault Refusal :=
  match s.clusters[cluster]? with
  | none => .refused (.notEnabled "CLOCK_LEVEL_CHANGE")
  | some c =>
    if c.level = s.levelWanted cluster then .refused (.notEnabled "CLOCK_LEVEL_CHANGE")
    else .next { s with clusters := setAt s.clusters cluster { c with level := s.levelWanted cluster } }

/-- Lane half-cycles of a front cycle. -/
def lanePerFront (l : BitVec 2) : Nat := match l.toNat with | 2 => 2 | 3 => 4 | _ => 1

/-! The aperture (R358, R359). -/

def Power.floor (p : Power) : Int := (field p.apcfg 24 20 : Nat)
def Power.refmax (p : Power) : Nat := field p.apcfg 12 12
def Power.cap (p : Power) : Int := (field p.apcap 0 20 : Nat)

/-- The refill of a front cycle. -/
def State.refill (s : State) (l : BitVec 2) : Nat :=
  let r := match l.toNat with | 1 | 2 => 1 | _ => 2
  min 4095 (s.pwr.refmax * s.pwr.used * r / 1000)

/-- The issue class of a word, by its major (R320). -/
def issueClass (w : Word) : Nat :=
  let m := field w 26 6
  if m ≤ 0x0B ∨ (0x10 ≤ m ∧ m ≤ 0x18) then 0
  else if m = 0x1C then 2
  else if m = 0x1D ∨ m = 0x29 ∨ m = 0x2A then 3
  else if m = 0x19 ∨ m = 0x1A ∨ m = 0x1B ∨ m = 0x1E ∨ m = 0x1F ∨ m = 0x20 then 1
  else if m = 0x2C ∨ m = 0x2D ∨ m = 0x2E then 5
  else if m ≤ 0x2B then 4
  else 0

/-- The weight of an issue class. -/
def Power.weight (p : Power) (k : Nat) : Nat := if k < 4 then field p.aw0 (16 * k) 16 else field p.aw1 (16 * (k - 4)) 16

/-- The weight of an instruction that is not reserved. -/
def Power.instrWeight (p : Power) (w : Word) : Instr → Nat
  | .mxMma _ _ _ _ _ _ _ _ | .mxKmma _ _ _ _ _ _ _ => p.weight 6
  | .tblKbuild _ _ _ => p.weight 7
  | _ => p.weight (issueClass w)

/-! Candidates (R320). -/

/-- An eligible fragment. -/
structure Cand where
  team    : Nat
  fi      : Nat
  order   : Nat
  prio    : Nat
  cls     : Nat
  weight  : Nat
  least   : Nat
  pclass  : Nat
  boosted : Bool
  deriving DecidableEq, Repr

/-- How a core sees a split entry: it does not issue, its unit cannot accept its instruction, it goes on with no issue (with an
instruction under way, or to a latch), or it is eligible. -/
inductive Look where
  | no
  | stalls (why : Stall)
  | goes
  | cand (c : Cand)
  deriving DecidableEq, Repr

/-- A fragment that issues at a cost, as an eligible one. -/
def State.candOf (s : State) (t : Team) (fi cls weight : Nat) : Look :=
  .cand ⟨t.id, fi, t.sched.order, t.sched.prio, cls, weight, s.pwr.weight cls, t.sched.pclass,
    t.sched.boosted || decide (4096 ≤ t.sched.waits)⟩

/-- What a trial tells of an entry. -/
def State.lookTried (s : State) (t : Team) (fi cls : Nat) : Trial → Look
  | .stalls why => .stalls why
  | .arrives => .goes
  | .issues n => s.candOf t fi cls n

/-- A split entry as its core sees it (R320), its due windows closed. A fragment whose word cannot be fetched counts as
class 0, and one that takes a pending fault as its instruction. -/
def State.look (s : State) (t : Team) (fi : Nat) : Look :=
  if !s.mayIssue t fi then .no
  else
    let t := t.closeDue
    match t.iss.begun with
    | some (_, w) => match s.trial t fi 0 0 w with | .stalls why => .stalls why | _ => .goes
    | none =>
      match s.fetch t (t.frag fi).pc with
      | .fault _ _ => s.candOf t fi 0 (s.pwr.weight 0)
      | .word _ w =>
        let cls := issueClass w
        let least := s.pwr.weight cls
        match decode w with
        | .error _ => s.lookTried t fi cls (s.trial t fi least least w)
        | .ok i =>
          let os := Instr.operands t i
          if !t.operandsOk os then s.lookTried t fi cls (s.trial t fi least least w)
          else if s.interlocked t i os || s.laneTaken t (t.frag fi) w then .no
          else if !t.tm && !t.iss.faults.isEmpty then s.candOf t fi cls (s.pwr.instrWeight w i)
          else s.lookTried t fi cls (s.trial t fi (s.pwr.instrWeight w i) least w)

/-- The eligible fragment of an entry, with its class and weight. -/
def State.eligible? (s : State) (t : Team) (fi : Nat) : Option Cand :=
  match s.look t fi with | .cand c => some c | _ => none

/-- Why a team does not issue: a unit cannot accept its instruction, and no other fragment of it is eligible. -/
def State.stallOf (s : State) (t : Team) : Option Stall :=
  if (List.range 8).any fun i => (s.eligible? t i).isSome then none
  else (List.range 8).findSome? fun i => match s.look t i with | .stalls why => some why | _ => none

/-- The fragments of a team that wait for the replay log are marked as such (R48), in another state of the team. -/
def State.replayMarks (s : State) (t u : Team) : List Frag :=
  ((List.range u.ctl.frags.length).zip u.ctl.frags).map fun (i, f) => if s.look t i = .stalls .replay then { f with replay := true } else f

def State.eligibleOn (s : State) (cluster core : Nat) : List Cand :=
  (s.onCore cluster core).flatMap fun t => (List.range 8).filterMap fun i => s.eligible? t i

/-- The fragments of a core that go on with no issue; of a halted cluster those with an instruction under way alone (R276). -/
def State.goers (s : State) (cluster core : Nat) (halted : Bool) : List (Nat × Nat) :=
  (s.onCore cluster core).flatMap fun t => ((List.range 8).filter fun i =>
    s.look t i == .goes && (t.begunBy i || !halted)).map fun i => (t.id, i)

/-- Whether another team of a team's core has an eligible fragment, covered or not. -/
def State.othersEligible (s : State) (t : Team) : Bool :=
  (s.onCore t.sched.cluster t.sched.core).any fun u => u.id != t.id && (List.range 8).any fun i => (s.eligible? u i).isSome

/-- A YIELD is over after 16 front cycles, or when no other team of the core has an eligible fragment (R137).
DESIGN CHOICE (log 79). -/
def yieldOver (s : State) (t : Team) : Bool :=
  match t.iss.withheld with
  | some (_, .yield n) => decide (n + 16 ≤ s.clock t false) || !s.othersEligible t
  | _ => false

def execYieldExpire (team : Nat) (s : State) : Host.Outcome State Fault Refusal :=
  match s.team? team with
  | none => .refused (.notEnabled "YIELD_EXPIRE")
  | some t =>
    if yieldOver s t then .next (s.setTeam { t with iss.withheld := none })
    else .refused (.notEnabled "YIELD_EXPIRE")

/-- Whether the aperture covers an issue (R359). DEDUCED (log 15). -/
def State.covered (s : State) (a : Int) (c : Cand) : Bool :=
  if c.pclass = 0 then decide (-s.pwr.floor ≤ a - (c.weight : Nat)) else decide ((c.weight : Nat) ≤ a)

/-- The oldest: admitted first; within a team the lower entry. -/
def oldest : List Cand → Option Cand
  | [] => none
  | x :: r => match oldest r with
    | some y => if y.order < x.order ∨ (y.order = x.order ∧ y.fi < x.fi) then some y else some x
    | none => some x

/-- The choice of a core (R321): `k` its last issued class, `n` its run count. -/
def chooseFrag (k n : Nat) (cov : Cand → Bool) (e : List Cand) : Option Cand :=
  match oldest (e.filter (·.boosted)) with
  | some f => if cov f then some f else none
  | none =>
    let c := e.filter cov
    let top := c.foldl (fun m x => max m x.prio) 0
    let x := c.filter fun f => f.prio = top
    let y := x.filter fun f => if n < 16 then f.cls = k else f.cls ≠ k
    oldest (if y.isEmpty then x else y)

/-- What a front cycle does to a team's wait count: it rises while some fragment is eligible and the team issues
nothing. -/
def waitAfter (e : List Cand) (chosen : Option Cand) (t : Team) : Team :=
  if chosen.any (·.team == t.id) then { t with sched.waits := 0, sched.boosted := false }
  else if e.any (·.team == t.id) then t.waited t.sched.waits t.sched.boosted
  else t

/-- The step of an issue slot, of what a slot may hold. -/
def State.runSlot (i : Instr) (s : State) : Host.Outcome State Fault Refusal :=
  match i with
  | .windowClose id => execWindowClose id s
  | .trapEntry id fi => execTrapEntry id fi s
  | .reservedEncoding w => execReservedEncoding w s
  | i => s.attempt i

/-- The state once its issue slots are used up, within a number of steps. -/
def State.runSlots : Nat → State → State
  | 0, s => s
  | n + 1, s =>
    match s.slots with
    | [] => s
    | (id, fi) :: _ =>
      match s.planIssue id fi with
      | .go s => s.runSlots n
      | .run i s => match s.runSlot i with | .next s => s.runSlots n | _ => s

/-- A state in which some slots have issued: a slot closes at most 16 windows before its instruction. -/
def State.after (s : State) (slots : List (Nat × Nat)) : State := State.runSlots (20 * slots.length) { s with slots := slots }

/-- What a selection leaves in a core and its teams: their wait counts, why they stall, and the charge. `seen` is the state that the
core has looked at. -/
def State.chargeCore (s seen : State) (cluster core : Nat) (e : List Cand) (chosen : Option Cand) : State :=
  match s.clusters[cluster]?, s.core? cluster core with
  | some c, some k =>
    let mark := fun (t : Team) =>
      let v := (seen.team? t.id).getD t
      let u : Team := match chosen with
        | some f => if f.team = t.id then
            { t with iss.charge := some ⟨f.weight, f.least, k.lastClass, k.run, t.sched.waits, t.sched.boosted⟩ } else t
        | none => t
      waitAfter e chosen { u with iss.stalled := seen.stallOf v, ctl.frags := seen.replayMarks v t }
    let s := { s with teams := s.teams.map fun (t : Team) =>
      if t.sched.life == .resident && t.sched.cluster == cluster && t.sched.core == core then mark t else t }
    match chosen with
    | none => s
    | some f =>
      let k := if f.cls = k.lastClass then { k with run := k.run + 1 } else { k with lastClass := f.cls, run := 1 }
      { s with clusters := setAt s.clusters cluster { c with aperture := c.aperture - (f.weight : Nat), cores := setAt c.cores core k } }
  | _, _ => s

/-- A core's selection in a front cycle. The second state is what the issues of the lower cores have left, and the core's own leave
(R359). -/
def State.selectCore (x : State × State) (cluster core : Nat) (halted : Bool) : State × State :=
  let free := x.2.goers cluster core halted
  let seen := x.2.after free
  match seen.clusters[cluster]?, seen.core? cluster core with
  | some c, some k =>
    let e := if halted then [] else seen.eligibleOn cluster core
    let chosen := if k.alive then chooseFrag k.lastClass k.run (seen.covered c.aperture) e else none
    let mine := chosen.toList.map fun f => (f.team, f.fi)
    let s := x.1.chargeCore seen cluster core e chosen
    ({ s with slots := x.1.slots ++ free ++ mine }, (seen.chargeCore seen cluster core e chosen).after mine)
  | _, _ => x

/-! The shutter (R360 to R362). -/

/-- The ramp limit of a step. -/
def Power.rampLimit (p : Power) (k : Nat) : Nat := field p.shut0 (4 * min k 7) 4
def Power.maxStops (p : Power) : Nat := field p.shut1 0 4
def Power.fillerCharge (p : Power) : Int := (field p.shut1 16 12 : Nat)

/-- Whether the engine of a core has work: an operation that performs work, or one that is ready (R361, R369). -/
def State.engineWorks (s : State) (cluster core : Nat) : Bool :=
  (s.onCore cluster core).any fun t => (t.eng.q5 ++ t.eng.q6).any fun o =>
    o.works (s.clock t true) || (o.asked && !o.running)

/-- Whether the engine of a core stores a tile and performs its last work between two lane cycles (R369). -/
def State.storeEnds (s : State) (cluster core since now : Nat) : Bool :=
  (s.onCore cluster core).any fun t => (t.eng.q5 ++ t.eng.q6).any fun o => o.works since && !o.works now

/-- Insertion of a core by a time, ties to the lower core. -/
def insertAt (x : Nat × Nat) : List (Nat × Nat) → List (Nat × Nat)
  | [] => [x]
  | y :: r => if x.1 < y.1 ∨ (x.1 = y.1 ∧ x.2 < y.2) then x :: y :: r else y :: insertAt x r

/-- Cores ordered by a time. -/
def byTime (xs : List (Nat × Nat)) : List Nat := (xs.foldl (fun acc x => insertAt x acc) []).map (·.2)

/-- In a core whose engine's filler ends at a boundary, the matrix engine has worked until now (R356). -/
def Core.fillerEnds (k : Core) (now : Nat) : Core :=
  if k.engine.filler then
    { k with units := setAt k.units (unitIndex .matrix) (match k.units[unitIndex .matrix]? with
        | some (.awake since) => .awake (max since now)
        | x => x.getD .down) }
  else k

/-- The refill at the start of a front cycle. -/
def State.refillCluster (s : State) (cluster : Nat) : State :=
  match s.clusters[cluster]? with
  | none => s
  | some c => { s with clusters := setAt s.clusters cluster { c with aperture := min (c.aperture + (s.refill c.level : Nat)) s.pwr.cap } }

/-- The shutter at the boundary of front cycle n: stops, then starts, then the charge for filler. DEDUCED (log 16). -/
def State.shutter (s : State) (cluster n : Nat) : State :=
  match s.clusters[cluster]? with
  | none => s
  | some c =>
    let ids := (List.range c.cores.length).zip c.cores
    let active := (ids.filter fun x => x.2.engine.active).length
    let k := if active = 0 then 0 else c.ramp.elim 0 (· + 1)
    let stopping := byTime ((ids.filter fun x => x.2.engine.active && !s.engineWorks cluster x.1).map fun x => (x.2.engine.ended, x.1))
    let stops := stopping.take s.pwr.maxStops
    let filler := stopping.drop s.pwr.maxStops
    let asks := byTime (ids.filterMap fun x => x.2.engine.request.map fun r => (r, x.1))
    let grants := asks.take (s.pwr.rampLimit k - (active - stops.length))
    let upd := fun (x : Nat × Core) =>
      let k := x.2.fillerEnds (c.lane2 / 2)
      let e := k.engine
      let e := if stops.contains x.1 then { e with active := false, filler := false }
        else { e with filler := filler.contains x.1 }
      { k with engine := if grants.contains x.1 then { e with active := true, filler := false, request := none } else e }
    let c := { c with cores := ids.map upd, ramp := some k, shutAt := n,
                      aperture := c.aperture - (filler.length : Nat) * s.pwr.fillerCharge }
    { s with clusters := setAt s.clusters cluster c }

/-- What the engines of a cluster do in front cycle n: operations that are ready request their start, the shutter acts if
a step ends and it has not acted yet, and granted operations begin (R361, R369). -/
def State.engineCycle (s : State) (cluster n : Nat) (boundary : Bool) : State :=
  let cores := List.range ((s.clusters[cluster]?).elim 0 (·.cores.length))
  let s := cores.foldl (fun s k => s.askReady cluster k) s
  let s := if boundary then s.shutter cluster n else s
  cores.foldl (fun s k => s.startGranted cluster k) s

/-- The step boundary of the coming front cycle, which follows that cycle's refill (R369). -/
def execShutterStep (cluster : Nat) (s : State) : Host.Outcome State Fault Refusal :=
  match s.clusters[cluster]? with
  | none => .refused (.notEnabled "SHUTTER_STEP")
  | some c =>
    let n := c.cyclef + 1
    if n % 4 = 0 ∧ c.shutAt ≠ n then .next ((s.refillCluster cluster).engineCycle cluster n true)
    else .refused (.notEnabled "SHUTTER_STEP")

/-! A front cycle. -/

/-- The clocks of a cluster advance by one front cycle. -/
def Cluster.tick (c : Cluster) : Cluster :=
  { c with cyclef := c.cyclef + 1, lane2 := c.lane2 + lanePerFront c.level }

/-- The front cycle in which an engine that stores a tile has performed its last work (R369). -/
def State.endStores (s : State) (cluster : Nat) (c : Cluster) : State :=
  let now := c.tick.lane2 / 2
  let ends := (List.range c.cores.length).filter fun k => s.storeEnds cluster k (c.lane2 / 2) now
  let upd := fun (x : Nat × Core) => if ends.contains x.1 then { x.2 with engine.ended := c.cyclef + 1 } else x.2
  s.mapCluster cluster fun c => { c with cores := ((List.range c.cores.length).zip c.cores).map upd }

/-- YIELDs that have run out are over. DEDUCED (log 16). -/
def State.endYields (s : State) (cluster : Nat) : State :=
  { s with teams := s.teams.map fun (t : Team) =>
      if t.sched.cluster = cluster ∧ yieldOver s t = true then { t with iss.withheld := none } else t }

/-- A front cycle of a cluster: refill, engines and shutter, then the cores choose in ascending order. A cluster whose scheduler is
rebuilding issues nothing and completes what has issued (R276), and without power nothing runs (R4). -/
def execIssueSelect (cluster : Nat) (s : State) : Host.Outcome State Fault Refusal :=
  match s.clusters[cluster]? with
  | none => .refused (.notEnabled "ISSUE_SELECT")
  | some c =>
    if !s.boot.powered || s.boot.reset then .next s
    else
    let n := c.cyclef + 1
    let s := if n % 4 = 0 ∧ c.shutAt = n then s.engineCycle cluster n false
      else (s.refillCluster cluster).engineCycle cluster n (n % 4 = 0)
    match s.clusters[cluster]? with
    | none => .next s
    | some c =>
      let s := (({ s with clusters := setAt s.clusters cluster c.tick } : State).endStores cluster c).endYields cluster
      .next ((List.range c.cores.length).foldl (fun x k => State.selectCore x cluster k c.halted) (s, s)).1

end Sys2Proof.Machine
end

