-- ==== Sys2Proof/Machine/Registers.lean ====
section
/-! DEFINITION. Writes of the driver and of the runtimes to registers (R342, R346, R357, R375 to R378), and the reset of
an interface (R377). -/

namespace Sys2Proof.Machine

/-! The power block (R357): a write that breaks a stated range is ignored. -/

/-- The largest weight. -/
def Power.maxWeight (p : Power) : Nat := (List.range 8).foldl (fun m k => max m (p.weight k)) 0

/-- Whether the X values of a curve do not decrease. -/
def risingX : List (Int × Int) → Bool
  | p :: q :: r => decide (p.1 ≤ q.1) && risingX (q :: r)
  | _ => true

def keepBits (w : DWord) (bits : List (Nat × Nat)) : DWord := bits.foldl (fun x b => setField x b.1 b.2 (field w b.1 b.2)) 0

/-- One point of a curve, kept when the curve stays in order. -/
def writePoint (signed : Bool) (c : List DWord) (i : Nat) (w : DWord) : List DWord :=
  let c' := setAt c i (keepBits w [(0, 16), (32, 10)])
  if decide (field w 32 10 ≤ 1000) && risingX (curvePoints signed c') then c' else c

/-- A write to a power register: what the field keeps, or nothing where R357 ignores it. DEDUCED (log 45). -/
def Power.write (p : Power) (off : Nat) (w : DWord) : Power :=
  if off = 0x000 then { p with apcfg := keepBits w [(12, 12), (24, 20)] }
  else if off = 0x008 then
    let cap := field w 0 20
    if 4096 ≤ cap ∧ p.maxWeight ≤ cap then { p with apcap := BitVec.ofNat 64 cap } else p
  else if off = 0x010 then { p with aw0 := w }
  else if off = 0x018 then { p with aw1 := w }
  else if off = 0x020 then
    if (List.range 8).all fun i => decide (field w (4 * i) 4 ≤ 8) then { p with shut0 := keepBits w [(0, 32)] } else p
  else if off = 0x028 then
    if 1 ≤ field w 0 4 ∧ field w 0 4 ≤ 8 then { p with shut1 := keepBits w [(0, 4), (16, 12)] } else p
  else if off = 0x030 then { p with govctl := keepBits w [(0, 16), (24, 40)] }
  else if off = 0x038 then { p with govth := keepBits w [(0, 20)] }
  else if 0x100 ≤ off ∧ off < 0x180 ∧ off % 8 = 0 then { p with dcf := writePoint true p.dcf ((off - 0x100) / 8) w }
  else if 0x180 ≤ off ∧ off < 0x200 ∧ off % 8 = 0 then { p with dcv := writePoint false p.dcv ((off - 0x180) / 8) w }
  else p

/-- GOVST as it reads. -/
def Power.govst (p : Power) : DWord :=
  BitVec.ofNat 64 (p.p + (if p.shed.getD 0 false then 2 ^ 12 else 0) + (if p.shed.getD 1 false then 2 ^ 13 else 0) +
    (if p.shed.getD 2 false then 2 ^ 14 else 0) + p.badf.toNat * 2 ^ 16 + p.gaps.toNat * 2 ^ 32)

/-! The pod block (R346). -/

/-- While EN = 0 no device is a member: the write packets still forming are never sent. -/
def State.endForming (s : State) : State := (s.pod.reqs.filter (·.forming)).foldl State.endDead s

def State.writePod (s : State) (off : Nat) (w : DWord) : State :=
  if off = 0x000 then
    let s := { s with pod.podctl := keepBits w [(0, 10), (31, 1)] }
    if w.getLsbD 31 then s else s.endForming
  else if off = 0x008 then { s with pod.swtbase := field w 16 41 * 65536 }
  else if off = 0x010 then
    if 1 ≤ field w 0 5 ∧ field w 0 5 ≤ 16 then { s with pod.crec := keepBits w [(0, 57)] } else s
  else if off = 0x020 then
    { s with pod.crrd := w, pod.reported := if w = s.pod.crrd then s.pod.reported else [] }
  else if 0x100 ≤ off ∧ off < 0x180 ∧ off % 8 = 0 then s.writeMember ((off - 0x100) / 8) w
  else s

/-! Resetting an interface (R377). -/

/-- The bytes of a team's unregistered stores that are performed, each 4-byte word as a whole. DEDUCED (log 12). -/
def Team.resetStores (t : Team) : List (Nat × Byte) :=
  t.iss.flights.flatMap fun f => f.bytes.filter fun b => Config.resetPerforms (b.1 / 4 * 4)

/-- The teams that a test names are discarded, with everything of theirs that is outstanding. -/
def State.discard (s : State) (p : Team → Bool) : State :=
  let gone := s.teams.filter p
  let ids := gone.map (·.id)
  let s := gone.foldl (fun s t => s.register (some t.coreId) false t.resetStores) s
  let s := s.abandon fun r => ids.contains r.team && (match r.use with | .gate _ _ => false | _ => true)
  let s := { s with slots := s.slots.filter fun x => !ids.contains x.1 }
  let s := gone.foldl (fun s t => ((t.eng.q5 ++ t.eng.q6).foldl (fun s o => s.workEnds t o) s).withdraw t) s
  let s := { s with teams := s.teams.filter fun t => !p t }
  let held := fun (c : Cluster) => { c with streams := c.streams.filter fun x => s.teams.any fun t => t.const.launch == x.launch }
  (List.range 32).foldl (fun s c => (s.closeStreams c).endPreempt c) { s with clusters := s.clusters.map held }

/-- The launches that a test names are gone. -/
def State.dropLaunches (s : State) (p : Launch → Bool) : State :=
  let ids := (s.sched.launches.filter p).map (·.id)
  { s with sched.launches := s.sched.launches.filter fun l => !p l }.abandon fun r =>
    match r.use with | .gate l _ => ids.contains l | _ => false

/-- The reset of an interface; its launches are then numbered from 0 again (R307). DEDUCED (log 47). -/
def State.resetInterface (s : State) (vi : Nat) : State :=
  let s := (s.dropLaunches (·.vi == vi)).discard (·.const.vi == vi)
  let i := s.vis.getD vi State.resetVi
  ({ s with prq := s.prq.filter (·.vi != vi), vis := setAt s.vis vi { i with serial := 0 },
            ms.tlb := s.ms.tlb.filter (fun e => !i.hasAsid e.asid), ms.walk := [] } : State).settleBlocks

def execVfFlr (vi : Nat) (s : State) : Host.Outcome State Fault Refusal :=
  if vi < 64 then .next (s.resetInterface vi) else .refused (.notEnabled "VF_FLR")

/-! Control pages (R375). -/

/-- Whether the ASID ranges of two enabled interfaces overlap. -/
def overlaps (a b : VirtIf) : Bool :=
  a.en && b.en && decide (a.first < b.first + b.count) && decide (b.first < a.first + a.count)

/-- An interface's registers with new contents, kept when no enabled range overlaps another. -/
def State.tryVi (s : State) (vi : Nat) (i : VirtIf) : State :=
  if ((List.range s.vis.length).zip s.vis).any fun x => x.1 != vi && overlaps i x.2 then s else s.setVi vi i

/-- VICTL: enables the interface, or resets it where EN is written 0. -/
def State.writeVictl (s : State) (vi : Nat) (w : DWord) : State :=
  match s.vis[vi]? with
  | none => s
  | some i =>
    let i' := { i with en := w.getLsbD 31, s2en := w.getLsbD 0 }
    if !w.getLsbD 31 then (s.setVi vi i').resetInterface vi else s.tryVi vi i'

def State.writeViperf (s : State) (vi : Nat) (w : DWord) : State :=
  match s.vis[vi]? with
  | none => s
  | some i => s.setVi vi { i with caplvl := w.extractLsb' 0 2 }

def execVictlWrite (vi : Nat) (val : DWord) (s : State) : Host.Outcome State Fault Refusal :=
  if vi < 64 then (if !s.boot.powered || s.boot.reset then .next s else .next (s.writeVictl vi val)) else .refused (.notEnabled "VICTL_WRITE")

def execViperfWrite (vi : Nat) (val : DWord) (s : State) : Host.Outcome State Fault Refusal :=
  if vi < 64 then (if !s.boot.powered || s.boot.reset then .next s else .next (s.writeViperf vi val)) else .refused (.notEnabled "VIPERF_WRITE")

def State.writeControl (s : State) (vi off : Nat) (w : DWord) : State :=
  match s.vis[vi]? with
  | none => s
  | some i =>
    if off = 0x000 then s.writeVictl vi w
    else if off = 0x008 then
      let first := field w 0 12
      let count := field w 16 13
      if 1 ≤ count ∧ first + count ≤ 4096 then s.tryVi vi { i with first := first, count := count } else s
    else if off = 0x010 then s.setVi vi { i with clm := w.extractLsb' 0 32 }
    else if off = 0x018 then s.writeViperf vi w
    else if off = 0x020 then s.setVi vi { i with winbase := field w 12 40 * 4096 }
    else if off = 0x028 then s.setVi vi { i with smapbase := field w 13 39 * 8192 }
    else s

/-! Guest pages (R376, R342, R343). -/

/-- The runtime's write of PRQDONE (R343): on result 0 the page is walked again, on 1 the request is refused. -/
def State.writePrqdone (s : State) (vi : Nat) (seq : Word) (res : BitVec 2) : State :=
  match execPrqdoneWrite vi seq res s with
  | .next s' => s'
  | _ => s

def State.writeTlbi2 (s : State) (vi : Nat) (w : DWord) : State :=
  if !w.getLsbD 31 then s
  else if field w 16 2 = 3 then s
  else (s.tlbiStart vi none (field w 16 2) (some (w.extractLsb' 0 12))).getD s

/-- Until STAGE is 5 the virtual functions' registers ignore writes (R381). DEDUCED (log 46). -/
def State.writeGuest (s : State) (vi off : Nat) (w : DWord) : State :=
  match s.vis[vi]? with
  | none => s
  | some i =>
    if !s.boot.guestsOpen then s
    else if off = 0x000 then (if i.tlbi2.getLsbD 31 then s else s.setVi vi { i with tlbi0 := w &&& 0x1FFFFFFFFFFFFFF })
    else if off = 0x008 then (if i.tlbi2.getLsbD 31 then s else s.setVi vi { i with tlbi1 := w })
    else if off = 0x010 then s.writeTlbi2 vi w
    else if off = 0x018 then s.setVi vi { i with drain := w.extractLsb' 0 16 }
    else if off = 0x020 then s.setVi vi { i with vitvec := keepBits w [(6, 51)] }
    else if off = 0x028 then
      if 1 ≤ field w 0 5 ∧ field w 0 5 ≤ 16 then
        (s.setVi vi { i with prqbase := field w 5 52 * 32, prqlogn := field w 0 5 }).flushPages
      else s
    else if off = 0x038 then (s.setVi vi { i with prqrd := w }).flushPages
    else if off = 0x040 then s.writePrqdone vi (w.extractLsb' 0 32) (w.extractLsb' 32 2)
    else s

/-! The mailbox (R379, R380). -/

/-- The mailbox commands, by code. -/
def mbCommand (code : Nat) : Option Nat :=
  if code = 0x0001 ∨ code = 0x0010 ∨ code = 0x0011 ∨ code = 0x0012 ∨ code = 0x0020 then some code else none

/-- Whether a command is accepted at the stage and in the state. -/
def Boot.accepts (b : Boot) (code : Nat) : Bool :=
  if code = 0x0001 then b.stage == 0 || b.stage == 0xFF
  else if code = 0x0011 ∨ code = 0x0012 then b.stage == 5 && b.id
  else b.stage == 5

/-- A command completes: MBSTAT, MBSEQ, GO, then the signal. -/
def State.mbDone (s : State) (st rlen : Nat) : State :=
  ({ s with boot.mbstat := BitVec.ofNat 64 (st + rlen * 2 ^ 32), boot.mbseq := s.boot.mbseq + 1,
            boot.mbcmd := setField s.boot.mbcmd 63 1 0 } : State).signal 0 3

/-- A write of MBCMD: GO starts a command, which completes at once when its code is unknown or it is refused.
DEDUCED (log 50). -/
def State.writeMbcmd (s : State) (w : DWord) : State :=
  if s.boot.mbcmd.getLsbD 63 then s
  else
    let s := { s with boot.mbcmd := keepBits w [(0, 16), (63, 1)] }
    if !w.getLsbD 63 then s
    else
      let s := { s with boot.mbarg := s.boot.mbin }
      match mbCommand (field w 0 16) with
      | none => s.mbDone 1 0
      | some c => if s.boot.accepts c then s else s.mbDone 3 0

def State.writeMbin (s : State) (off : Nat) (w : DWord) : State :=
  { s with boot.mbin := (cellsAt off (toBytes 8 w.toNat)).foldl (fun m c => m.set c.1 c.2) s.boot.mbin }

/-! The physical function (R378). -/

def State.writePf (s : State) (off : Nat) (w : DWord) : State :=
  if off = 0x010 then { s with boot.qcbbase := field w 18 34 * 262144 }
  else if off = 0x020 then s.passBlocks { s with boot.vallot := field w 13 39 * 8192 } (field w 13 39 * 8192) 6144
  else if 0x80000 ≤ off ∧ off < 0x90000 then s.writePod (off - 0x80000) w
  else if 0x90000 ≤ off ∧ off < 0xA0000 then { s with pwr := s.pwr.write (off - 0x90000) w }
  else if off = 0xA0000 then s.writeMbcmd w
  else if 0xA0100 ≤ off ∧ off + 8 ≤ 0xA0200 then s.writeMbin (off - 0xA0100) w
  else if 0x100000 ≤ off ∧ off < 0x140000 then s.writeControl ((off - 0x100000) / 4096) (off % 4096) w
  else s

/-- The device PA of an offset of the staging window (R381). -/
def stagingPa (off : Nat) : Nat := if off < 0xC00000 then vaultPa 0 off else vaultPa 1 (off - 0xC00000)

/-- Whether the staging window is open: before the image has been taken. -/
def Boot.staging (b : Boot) : Bool := decide (b.stage.toNat < 5) || b.stage == 0xFF

def State.writeStaging (s : State) (off : Nat) (w : DWord) : State :=
  if s.boot.staging && decide (off + 8 ≤ 0x1000000) then
    s.register none false ((cellsAt off (toBytes 8 w.toNat)).map fun c => (stagingPa c.1, c.2))
  else s

/-! What the host reads (R376, R381). -/

/-- A guest page register as it reads: zero until STAGE is 5. -/
def State.readGuest (s : State) (vi off : Nat) : DWord :=
  match s.vis[vi]? with
  | none => 0
  | some i =>
    if !s.boot.guestsOpen then 0
    else if off = 0x000 then i.tlbi0
    else if off = 0x008 then i.tlbi1
    else if off = 0x010 then zext i.tlbi2
    else if off = 0x018 then zext i.drain
    else if off = 0x020 then i.vitvec
    else if off = 0x028 then BitVec.ofNat 64 (i.prqlogn + i.prqbase)
    else if off = 0x030 then i.prqwr
    else if off = 0x038 then i.prqrd
    else if off = 0x040 then i.prqdone
    else 0

/-- Eight bytes of the staging window as they read: zero once the window has closed. -/
def State.readStaging (s : State) (off : Nat) : DWord :=
  if s.boot.staging && decide (off + 8 ≤ 0x1000000) then
    BitVec.ofNat 64 (ofBytes ((List.range 8).map fun i => s.mem.byte (stagingPa (off + i))))
  else 0

/-- A write to a register; it changes nothing where the register is read-only or its field's range is broken. -/
def State.writeRegister (s : State) (r : RegPlace) (w : DWord) : State :=
  match r with
  | .pf off => s.writePf off w
  | .guest vi off => s.writeGuest vi off w
  | .staging off => s.writeStaging off w

def execRegisterWrite (reg : RegPlace) (val : DWord) (s : State) : Host.Outcome State Fault Refusal :=
  if !s.boot.powered || s.boot.reset then .next s else .next (s.writeRegister reg val)

end Sys2Proof.Machine
end

