-- ==== Sys2Proof/Machine/Boot.lean ====
section
/-! DEFINITION. Power, boot, identity, configuration and the mailbox's commands (R4, R379 to R388). -/

namespace Sys2Proof.Machine

/-! Power (R4, R381, R388). -/

/-- Host memory as the loss of the device leaves it: a line that the device held modified, and has not written back, is open
(R388). DEDUCED (log 48). -/
def State.hostMemory (s : State) : Memory :=
  Memory.writeBytes (s.mem.filter fun c => inHost c.1)
    (s.ms.hostDirty.flatMap fun l => (List.range 64).map fun i => (64 * l + i, Config.hostLost s.now (64 * l + i)))

/-- The device as a power-up or a reset leaves it. What happens next, the wall time, what the host has been told and the
host's own memory are not the device's. DEDUCED (log 48). -/
def State.afresh (s : State) (powered reset : Bool) : State :=
  { State.reset with agenda := s.agenda, idle := s.idle, now := s.now, replies := s.replies, mem := s.hostMemory,
                     boot := { State.resetBoot with powered := powered, reset := reset, msix := s.boot.msix } }

def execPowerOn (s : State) : Host.Outcome State Fault Refusal :=
  if s.boot.powered && !s.boot.reset then .refused (.notEnabled "POWER_ON") else .next (s.afresh true false)

def execHostResetAssert (s : State) : Host.Outcome State Fault Refusal :=
  if s.boot.powered then .next (s.afresh true true) else .refused (.notEnabled "HOST_RESET_ASSERT")

def execPowerRemove (s : State) : Host.Outcome State Fault Refusal := .next (s.afresh false s.boot.reset)

/-! Bytes. -/

/-- The ASCII bytes of a string (R387). -/
def ascii (x : String) : List Byte := x.toList.map fun c => BitVec.ofNat 8 c.toNat

/-- A list of exactly n bytes. -/
def fitTo (n : Nat) (bs : List Byte) : List Byte := (List.range n).map fun i => bs.getD i 0

def shake (n : Nat) (bs : List Byte) : List Byte := fitTo n (Config.shake256 bs n)

/-- Bytes of the staging window. -/
def State.staged (s : State) (off n : Nat) : List Byte := (List.range n).map fun i => s.mem.byte (stagingPa (off + i))

/-- The operands of the running command. -/
def State.mbBytes (s : State) (off n : Nat) : List Byte := (List.range n).map fun i => s.boot.mbarg.get (off + i)
def State.mbLe (s : State) (off n : Nat) : Nat := ofBytes (s.mbBytes off n)

/-! The image (R382). -/

def imageSigLen : Nat := 29792

/-- Whether an image's header and length agree with its body. -/
def imageForm (h : List Byte) (n : Nat) : Bool :=
  decide (leField h 0 4 = 0x5A584946) && allZero h 4 4 && decide (leField h 8 8 + 128 + imageSigLen = n) && allZero h 24 8

/-- The ROM's checks, by the ERR of the first that fails. DEDUCED (log 50). -/
def imageErr (img : List Byte) : Option Nat :=
  let n := img.length
  let key := (img.drop 64).take 64
  if shake 32 key != fitTo 32 Config.romKeyHash then some 1
  else if !imageForm img n || !Config.slhVerify key (img.take (n - imageSigLen)) (img.drop (n - imageSigLen)) then some 2
  else none

/-! Identity (R383). -/

/-- The identity that helper data give: SK.seed, SK.prf, PK.seed, PK.root and the identity; none when they are
inconsistent. -/
def identityOf (h : List Byte) : Option (List Byte × List Byte × List Byte × List Byte × List Byte) :=
  let k := fitTo 32 (Config.pufKey (h.drop 40))
  if leField h 0 4 = 0x44485A58 ∧ leField h 4 4 = 1 ∧ (h.drop 8).take 32 = shake 32 (k ++ ascii "IXZ-CHK") then
    let x := shake 96 (k ++ ascii "IXZ-ID")
    let sk := x.take 32
    let prf := (x.drop 32).take 32
    let pk := x.drop 64
    let root := fitTo 32 (Config.slhRoot sk prf pk)
    some (sk, prf, pk, root, shake 32 (pk ++ root))
  else none

/-! The configuration record (R384, R385). -/

def cfgNbad (c : List Byte) : Nat := leField c 112 2
def cfgNpwr (c : List Byte) : Nat := leField c 114 2
/-- The bytes before the signature. -/
def cfgBody (c : List Byte) : Nat := 128 + 8 * cfgNbad c + 16 * cfgNpwr c

def cfgBad (c : List Byte) (j : Nat) : BadUnit :=
  let a := 128 + 8 * j
  ⟨leField c a 1, leField c (a + 1) 1, leField c (a + 2) 1, leField c (a + 3) 1⟩

/-- Whether an entry lies in range. -/
def BadUnit.inRange (b : BadUnit) : Bool :=
  decide (b.die < 2) &&
    (match b.kind with
      | 1 => decide (b.sub < 16) && decide (b.unit < 9)
      | 2 => decide (b.sub < 16) && decide (b.unit < 32)
      | 3 => decide (b.sub < 16) && decide (b.unit < 32)
      | 4 => decide (b.sub < 18) && decide (b.unit < 5)
      | _ => false)

def cfgBads (c : List Byte) : List BadUnit := (List.range (cfgNbad c)).map (cfgBad c)

/-- The power defaults: offset and value. -/
def cfgPower (c : List Byte) : List (Nat × DWord) :=
  (List.range (cfgNpwr c)).map fun j =>
    let a := 128 + 8 * cfgNbad c + 16 * j
    (leField c a 8, BitVec.ofNat 64 (leField c (a + 8) 8))

/-- Whether a record is valid for an identity and an image. DEDUCED (log 50). -/
def cfgValid (c ident img : List Byte) : Bool :=
  decide (leField c 0 4 = 0x46435A58) && decide (leField c 4 4 = cfgBody c + imageSigLen) &&
    decide (cfgNbad c ≤ 1024) && decide (cfgNpwr c ≤ 64) && allZero c 116 12 &&
    (List.range (cfgNbad c)).all (fun j => BadUnit.inRange (cfgBad c j) && allZero c (132 + 8 * j) 4) &&
    (cfgPower c).all (fun w => decide (w.1 < 0x10000)) &&
    (c.drop 8).take 32 == ident && shake 32 ((c.drop 48).take 64) == (img.drop 32).take 32 &&
    Config.slhVerify ((c.drop 48).take 64) (c.take (cfgBody c)) ((c.drop (cfgBody c)).take imageSigLen)

/-! Repair (R274, R277, R384). -/

/-- The distinct failed units of a kind at a place. -/
def badUnits (bs : List BadUnit) (kind : Nat) (p : BadUnit → Bool) : List Nat :=
  ((bs.filter fun b => b.kind == kind && p b).map (·.unit)).eraseDups

/-- Whether a core is exposed: it is good, or it is the lowest bad one and the spare is good. -/
def coreExposed (bad : List Nat) (k : Nat) : Bool :=
  !bad.contains k || (!bad.contains 8 && (List.range 8).all fun j => decide (k ≤ j) || !bad.contains j)

/-- Repair of a cluster: its spare takes a bad core (R384). DEDUCED (log 50). -/
def repairCluster (bs : List BadUnit) (n : Nat) (c : Cluster) : Cluster :=
  let bad := badUnits bs 1 fun b => 16 * b.die + b.sub == n
  { c with spare := bad.isEmpty,
           cores := ((List.range c.cores.length).zip c.cores).map fun x => { x.2 with alive := coreExposed bad x.1 } }

/-- Lanes in service of a port, and whether its spare is used. DEDUCED (log 50). -/
def portLanes (bad : List Nat) : Nat := if bad.length ≤ 1 then 4 else if bad.length = 2 then 2 else 0

/-- Whether a die has no working L2: more failed slices than its one spare replaces. -/
def dieWithoutL2 (bs : List BadUnit) : Bool :=
  [0, 1].any fun d => decide (1 < (badUnits bs 2 fun b => b.die == d).length)

def State.repair (s : State) (bs : List BadUnit) : State :=
  let port := fun (p : Nat) => badUnits bs 4 fun b => b.sub == p
  let cs := ((List.range s.clusters.length).zip s.clusters).map fun x => repairCluster bs x.1 x.2
  let lanes := (List.range 18).map fun p => portLanes (port p)
  { s with clusters := cs, boot.bad := bs,
           boot.cores := cs.foldl (fun n c => n + (c.cores.filter (·.alive)).length) 0,
           pod.lanes := lanes, pod.spares := (List.range 18).map fun p => !(port p).isEmpty,
           pod.inUse := lanes.map fun n => decide (0 < n) }

/-! LOAD (R380 to R386). -/

/-- HBM4 and the two vaults of the window are cleared, and the context table is set. -/
def State.clearMemory (s : State) : State :=
  let gone := fun (a : Nat) => decide (a < Config.hbmEnd) ||
    (decide (vaultPa 0 0 ≤ a) && decide (a < vaultPa 2 0))
  { s with mem := s.mem.filter fun c => !gone c.1, ms.poison := s.ms.poison.filter fun w => !gone w,
           boot.ctxbase := Config.ctxBase.toNat * 65536 }

/-- The power registers at their reset values; what the governor has seen stays. -/
def Power.atReset (p : Power) : Power :=
  let r := State.resetPower
  { p with apcfg := r.apcfg, apcap := r.apcap, aw0 := r.aw0, aw1 := r.aw1, shut0 := r.shut0, shut1 := r.shut1,
           govctl := r.govctl, govth := r.govth, dcf := r.dcf, dcv := r.dcv }

/-- Steps 3 to 5 of the boot, after the image has been verified. DEDUCED (log 50). -/
def State.firmware (s : State) (img : List Byte) : State :=
  let helper := s.staged 0x800000 4096
  let id := identityOf helper
  let c := s.staged 0xC00000 (min 0x400000 (leField (s.staged 0xC00000 8) 4 4))
  let valid := match id with | some x => cfgValid c x.2.2.2.2 img | none => false
  let bads := ((if valid then cfgBads c else []) ++ Config.selfTestBad).eraseDups
  let meas := [shake 64 Config.romImage, shake 64 img, if valid then shake 64 c else zeroBytes 64, shake 64 helper] ++
    List.replicate 4 (zeroBytes 64)
  let none_ : List Byte := []
  let x := id.getD (none_, none_, none_, none_, none_)
  let s := { s with
    boot.id := id.isSome, boot.skseed := x.1, boot.skprf := x.2.1, boot.pkseed := x.2.2.1, boot.pkroot := x.2.2.2.1,
    boot.ident := x.2.2.2.2, boot.meas := meas,
    boot.err := if id.isNone then 4 else if !valid then 3 else s.boot.err }
  if dieWithoutL2 bads then { s with boot.stage := 0xFF, boot.err := 5 }
  else
    let s := (s.repair bads).clearMemory
    let s := { s with pwr := (if valid then cfgPower c else []).foldl (fun (p : Power) (w : Nat × DWord) => p.write w.1 w.2) s.pwr.atReset }
    { s with boot.stage := 5 }

/-- Whether a command runs. -/
def State.running (s : State) (code : Nat) : Bool := s.boot.mbcmd.getLsbD 63 && decide (field s.boot.mbcmd 0 16 = code)

def State.mbLoad (s : State) : State :=
  let n := s.mbLe 0 8
  if n < 128 + imageSigLen ∨ 0x800000 < n then s.mbDone 2 0
  else
    let img := s.staged 0 n
    match imageErr img with
    | some e => ({ s with boot.stage := 0xFF, boot.err := BitVec.ofNat 8 e } : State).mbDone 5 0
    | none =>
      let s := s.firmware img
      s.mbDone (if s.boot.stage = 5 then 0 else 5) 0

def execMbLoad (s : State) : Host.Outcome State Fault Refusal :=
  if s.running 0x0001 then .next s.mbLoad else .refused (.notEnabled "MB_LOAD")

/-! The other commands. -/

def execMbExtend (s : State) : Host.Outcome State Fault Refusal :=
  if s.running 0x0010 then
    let i := s.mbLe 0 1
    if 4 ≤ i ∧ i ≤ 7 then
      let m := s.boot.meas.getD i (zeroBytes 64)
      .next (({ s with boot.meas := setAt s.boot.meas i (shake 64 (m ++ s.mbBytes 64 64)) } : State).mbDone 0 0)
    else .next (s.mbDone 2 0)
  else .refused (.notEnabled "MB_EXTEND")

/-- Whether a result of n bytes has a usable address. -/
def resultUsable (pa n : Nat) : Bool :=
  decide (pa % 64 = 0) && (decide (pa + n ≤ Config.hbmEnd) || (inHost pa && inHost (pa + n - 1)))

/-- A command with a result. -/
def State.mbResult (s : State) (r : List Byte) : State :=
  let pa := s.mbLe 32 8
  if resultUsable pa r.length then (s.deviceWrite pa r).mbDone 0 r.length else s.mbDone 4 0

/-- The result of QUOTE for a nonce (R380, R386, R387). -/
def Boot.quote (b : Boot) (n : List Byte) : List Byte :=
  let m := b.meas.flatten
  let sig := fitTo 49856 (Config.slhSign b.skseed b.skprf b.pkseed (shake 64 (n ++ m ++ b.ident)))
  fitTo 512 m ++ fitTo 32 b.ident ++ fitTo 32 n ++ fitTo 32 b.pkseed ++ fitTo 32 b.pkroot ++ sig

def execMbQuote (s : State) : Host.Outcome State Fault Refusal :=
  if s.running 0x0011 then .next (s.mbResult (s.boot.quote (s.mbBytes 0 32))) else .refused (.notEnabled "MB_QUOTE")

def execMbIdkey (s : State) : Host.Outcome State Fault Refusal :=
  if s.running 0x0012 then .next (s.mbResult (fitTo 32 s.boot.pkseed ++ fitTo 32 s.boot.pkroot ++ fitTo 32 s.boot.ident))
  else .refused (.notEnabled "MB_IDKEY")

/-- SHUTDOWN (R388): no record is taken any more, every team is discarded, modified host lines go back, STAGE is 6.
DEDUCED (log 49). -/
def execMbShutdown (s : State) : Host.Outcome State Fault Refusal :=
  if s.running 0x0020 then
    let s := (s.dropLaunches fun _ => true).discard fun _ => true
    .next (({ s with ms.hostDirty := [], boot.stage := 6 } : State).mbDone 0 0)
  else .refused (.notEnabled "MB_SHUTDOWN")

end Sys2Proof.Machine
end

