-- ==== Sys2Proof/Machine/Link.lean ====
section
/-! DEFINITION. The host on the CXL link (R331, R332, R371, R372). -/

namespace Sys2Proof.Machine

/-! CXL.mem. -/

/-- Whether n bytes at a PA lie in the HDM range: HBM4. -/
def inHdm (pa n : Nat) : Bool := decide (pa + n ≤ Config.hbmEnd)

/-- Whether a read meets a poisoned word at its home. -/
def State.homePoison (s : State) (pa n : Nat) : Bool :=
  s.ms.poison.any fun w => decide (w < pa + n) && decide (pa < w + 4)

/-- A reply to the host; the empty one stands for poison. DEDUCED (log 42). -/
def State.answerHost (s : State) (bs : List Byte) : State := { s with replies := s.replies ++ [bs] }

/-- After a write of the host the scheduler's held reports may find room (R313). -/
def State.hostWrite (s : State) (pa : Nat) (bs : List Byte) : State := (s.passBlocks (s.register none false (cellsAt pa bs)) pa bs.length).flushReports

/-- Until STAGE is 5 a request completes with a poison response (R381). -/
def State.hdmOpen (s : State) : Bool := s.boot.powered && !s.boot.reset && (s.boot.stage == 5 || s.boot.stage == 6)

def State.hostAccess (s : State) (a : HostAccess) : State :=
  match a with
  | .read pa n => s.answerHost (if s.homePoison pa n then [] else s.mem.bytes pa n)
  | .write pa bs => s.hostWrite pa bs
  | .atomic op pa x y =>
    let old := s.mem.bytes pa 8
    if s.homePoison pa 8 then s.answerHost []
    else match atomBytes op 8 x.toNat y.toNat old with
      | some new => (s.answerHost old).hostWrite pa new
      | none => s.answerHost old

/-- The PA and length of an access. -/
def hostSpan : HostAccess → Nat × Nat
  | .read pa n => (pa, n)
  | .write pa bs => (pa, bs.length)
  | .atomic _ pa _ _ => (pa, 8)

def execHostCxlMemAccess (acc : HostAccess) (s : State) : Host.Outcome State Fault Refusal :=
  if !s.hdmOpen then .next (s.answerHost [])
  else if inHdm (hostSpan acc).1 (hostSpan acc).2 then .next (s.hostAccess acc)
  else .fault (.unpopulated (hostSpan acc).1)

/-! CXL.cache (R331). -/

/-- The host asks for a line that the L2 holds: the L2 gives up what it holds modified; a line that the host then writes
takes the host's bytes at its home. -/
def execHostCxlCacheSnoop (line : Nat) (kind : SnoopKind) (s : State) : Host.Outcome State Fault Refusal :=
  if inHost (64 * line) then
    let s := { s with ms.hostDirty := s.ms.hostDirty.filter (· != line) }
    match kind with
    | .share => .next s
    | .invalidate bs =>
      let n := s.register none false ((bs.filter fun b => decide (b.1 < 64)).map fun b => (64 * line + b.1, b.2))
      .next (s.passBlocks { n with ms.hostDirty := n.ms.hostDirty.filter (· != line) } (64 * line) 64)
  else .refused (.notEnabled "HOST_CXL_CACHE_SNOOP")

end Sys2Proof.Machine
end

