-- ==== Sys2Proof/Machine/Onxon.lean ====
section
/-! DEFINITION. Code objects (R281 to R291): the image, its checks, symbols and relocations. -/

namespace Sys2Proof.Machine

/-! The image (R281 to R284). -/

/-- The sections that are loaded are kinds 1 to 5; 1 and 2 are shared. -/
def loadedKind (k : Nat) : Bool := decide (1 ≤ k) && decide (k ≤ 5)
def sharedKind (k : Nat) : Bool := k == 1 || k == 2

def imgSectOff (b : List Byte) : Nat := leField b 32 8
def imgNsect (b : List Byte) : Nat := leField b 28 4
def imgBase (b : List Byte) : Nat := leField b 8 8
def imgSrc (b : List Byte) : DWord := BitVec.ofNat 64 (leField b 48 8)
def imgTrans (b : List Byte) : Bool := decide (leField b 6 2 / 2 % 2 = 1)
def imgSafe (b : List Byte) : Bool := decide (leField b 6 2 % 2 = 1)
def imgMajor (b : List Byte) : Nat := leField b 4 1
def imgMinor (b : List Byte) : Nat := leField b 5 1

/-- Section table entry i. -/
def imgSection (b : List Byte) (i : Nat) : Section :=
  let a := imgSectOff b + 32 * i
  ⟨leField b a 4, leField b (a + 4) 4, leField b (a + 8) 8, leField b (a + 16) 8, leField b (a + 24) 8⟩

def imgSections (b : List Byte) : List Section := (List.range (min 9 (imgNsect b))).map (imgSection b)

def sect? (ss : List Section) (k : Nat) : Option Section := ss.find? (·.kind == k)

/-- The contents of a section. -/
def contents (b : List Byte) (ss : List Section) (k : Nat) : List Byte :=
  match sect? ss k with | some s => (b.drop s.foff).take s.size | none => []

/-- A kernel record (R283): the symbol of its name, the bytes of its argument block, its roles and its format slots. -/
structure Kernel where
  name  : Nat
  nrole : Nat
  args  : Nat
  roles : List Nat
  slots : List (BitVec 128)
  deriving DecidableEq, Repr

/-- The kernel record at an offset of an image. -/
def kernelAt (b : List Byte) (a : Nat) : Kernel :=
  { name := leField b a 8, nrole := leField b (a + 8) 1, args := leField b (a + 16) 4,
    roles := (List.range 4).map fun i => leField b (a + 24 + 8 * i) 8,
    slots := (List.range 8).map fun n => BitVec.ofNat 128 (leField b (a + 64 + 16 * n) 16) }

def imgKernels (b : List Byte) : List Kernel := (List.range (leField b 24 4)).map fun i => kernelAt b (leField b 16 8 + 256 * i)

/-- Whether a kernel record keeps its reserved fields zero, and has one to four roles. DEDUCED (log 51). -/
def kernelOk (b : List Byte) (a : Nat) : Bool :=
  let k := kernelAt b a
  allZero b (a + 9) 7 && allZero b (a + 20) 4 && allZero b (a + 56) 8 && allZero b (a + 192) 64 &&
    decide (1 ≤ k.nrole) && decide (k.nrole ≤ 4) && k.roles.all (fun x => decide (x < 2 ^ 56))

/-- What a runtime copies from a kernel record into a launch record, at their places there (R283, R306). -/
def Kernel.toLaunch (k : Kernel) : List (Nat × List Byte) :=
  (10, toBytes 1 k.nrole) :: ((List.range 4).map fun i => (16 + 8 * i, toBytes 8 (k.roles.getD i 0))) ++
    (List.range 8).map fun n => (128 + 16 * n, toBytes 16 (k.slots.getD n 0).toNat)

def headerOk (b : List Byte) : Bool :=
  decide (64 ≤ b.length) && decide (leField b 0 4 = 0x00584E4F) && decide (leField b 6 2 < 4) && allZero b 56 8 &&
    decide (imgBase b < 2 ^ 57) && decide (imgBase b % 65536 = 0) && decide (leField b 40 8 = b.length) &&
    decide (1 ≤ imgNsect b) && decide (imgNsect b ≤ 9) && decide (leField b 24 4 ≤ 65535) && decide (leField b 16 8 % 256 = 0) &&
    (decide (leField b 24 4 = 0) || decide (leField b 16 8 + 256 * leField b 24 4 ≤ b.length)) &&
    (List.range (leField b 24 4)).all (fun i => kernelOk b (leField b 16 8 + 256 * i)) &&
    decide (imgSectOff b + 32 * imgNsect b ≤ b.length) && (imgTrans b || imgSrc b == 0)

/-- The rules of placement (R282). -/
def sectionsOk (b : List Byte) (ss : List Section) : Bool :=
  let loaded := ss.filter fun s => loadedKind s.kind
  let unshared := loaded.filter fun s => !sharedKind s.kind
  ss.all (fun s => decide (1 ≤ s.kind) && decide (s.kind ≤ 9) && decide (2 ≤ s.align) && decide (s.align ≤ 16) &&
    decide (s.foff + s.size ≤ b.length) && (loadedKind s.kind || decide (s.imoff = 0)) &&
    (if s.kind = 4 ∨ s.kind = 5 then decide (3 ≤ s.align) else true)) &&
  decide ((ss.map (·.kind)).eraseDups.length = ss.length) &&
  loaded.all (fun s => decide (s.imoff % 2 ^ s.align = 0) &&
    loaded.all fun t => s.kind == t.kind || decide (s.imoff + s.size ≤ t.imoff) || decide (t.imoff + t.size ≤ s.imoff)) &&
  unshared.all (fun s => loaded.all fun t => !sharedKind t.kind || decide (t.imoff < s.imoff)) &&
  (unshared.isEmpty || decide ((unshared.foldl (fun m s => min m s.imoff) (2 ^ 64)) % 65536 = 0))

/-- Bytes of the loaded extent from the base. -/
def extent (ss : List Section) : Nat := (ss.filter fun s => loadedKind s.kind).foldl (fun m s => max m (s.imoff + s.size)) 0

/-- A name: bytes up to a zero. -/
def nameAt (b : List Byte) (off : Nat) : List Byte := (b.drop off).takeWhile (· != 0)

/-- The symbols (R284): record count, records, strings. -/
def parseSyms (b : List Byte) : List Symbol :=
  let n := leField b 0 8
  (List.range (min n (b.length / 16))).map fun i =>
    let a := 8 + 16 * i
    ⟨nameAt b (8 + 16 * n + leField b a 4), leField b (a + 4) 1, leField b (a + 5) 1, leField b (a + 8) 8⟩

def symsOk (b : List Byte) (ss : List Section) : Bool :=
  b.isEmpty || (decide (8 + 16 * leField b 0 8 ≤ b.length) && (List.range (leField b 0 8)).all (fun i => allZero b (14 + 16 * i) 2) &&
    (parseSyms b).all fun y =>
    (y.bind == 2 && y.kind == 0) || (decide (y.bind < 2) && loadedKind y.kind && (sect? ss y.kind).isSome))

/-- The relocation records (R288). -/
def parseReloc (b : List Byte) (i : Nat) : Reloc :=
  let a := 32 * i
  ⟨leField b a 8, leField b (a + 8) 1, leField b (a + 9) 1, leField b (a + 12) 4, signedOf 64 (leField b (a + 16) 8), leField b (a + 24) 8⟩

def parseRelocs (b : List Byte) : List Reloc := (List.range (b.length / 32)).map (parseReloc b)

def parseRegion (b : List Byte) : List Nat := (List.range (b.length / 4)).map fun i => leField b (4 * i) 4

/-- The forwarding records of a translation: OLD and NEW. -/
def parseFwd (b : List Byte) : List (Nat × Nat) := (List.range (b.length / 16)).map fun i => (leField b (16 * i) 8, leField b (16 * i + 8) 8)

def rising : List Nat → Bool
  | x :: y :: r => decide (x < y) && rising (y :: r)
  | _ => true

/-- Whether an image is well formed. `src` are the sections that its symbols may also name: those of the object that it
translates. -/
def imageOk (b : List Byte) (src : List Section) : Bool :=
  let ss := imgSections b
  headerOk b && sectionsOk b ss && symsOk (contents b ss 7) (ss ++ src) && decide ((contents b ss 6).length % 32 = 0) &&
    (parseRelocs (contents b ss 6)).all (fun r => decide (r.sym < (parseSyms (contents b ss 7)).length)) &&
    (List.range ((contents b ss 6).length / 32)).all (fun i => allZero (contents b ss 6) (32 * i + 10) 2) &&
    decide ((contents b ss 8).length % 4 = 0) && rising (parseRegion (contents b ss 8)) &&
    decide ((contents b ss 9).length % 16 = 0) && rising ((parseFwd (contents b ss 9)).map (·.1))

/-! Symbols (R286, R289). -/

/-- Where the sections of an object lie: the text by itself, the rest from the base. -/
structure Layout3 where
  text  : Nat
  base  : Nat
  sects : List Section
  syms  : List Symbol
  deriving DecidableEq, Repr

def Layout3.sectAt (l : Layout3) (k : Nat) : Nat := if k = 1 then l.text else l.base + ((sect? l.sects k).map (·.imoff)).getD 0

/-- An address, and whether it lies in a .text section. -/
abbrev SymAt := Nat × Bool

def Object.layout (o : Object) : Layout3 := ⟨o.text, o.base, o.sects, o.syms⟩

/-- The global symbol of a name in an object. -/
def Layout3.global? (l : Layout3) (name : List Byte) : Option SymAt :=
  (l.syms.find? fun y => y.bind == 1 && y.name == name).map fun y => (l.sectAt y.kind + y.off, y.kind == 1)

/-- The objects of a context, in load order. -/
def State.objectsOf (s : State) (asid : BitVec 12) : List Object := s.ldr.objects.filter (·.asid == asid)

/-- A name as it resolves in a context (R286): the first global among the loaded objects, then among the object's own. -/
def State.resolve (s : State) (asid : BitVec 12) (own : Layout3) (name : List Byte) : Option SymAt :=
  match (s.objectsOf asid).findSome? fun o => o.layout.global? name with
  | some a => some a
  | none => own.global? name

/-- The address of a symbol of an object. `l` places it; its extern names resolve in the context. -/
def State.symAt (s : State) (asid : BitVec 12) (l : Layout3) (y : Symbol) : Option SymAt :=
  if y.bind = 2 then s.resolve asid l y.name else some (l.sectAt y.kind + y.off, y.kind == 1)

/-- The .got entry of a symbol: the local symbol `name.got`. -/
def Layout3.gotOf (l : Layout3) (y : Symbol) : Option Nat :=
  (l.syms.find? fun z => z.kind == 4 && z.name == y.name ++ [0x2E, 0x67, 0x6F, 0x74]).map fun z => l.sectAt 4 + z.off

/-! Relocations (R288 to R291). -/

/-- The instruction words that a record may patch. -/
inductive PatchWord where
  | lui | aupc | addi | ld64 | call | branch | other
  deriving DecidableEq, Repr

def patchWord (w : Word) : PatchWord :=
  match field w 26 6 with
  | 0x0A => .lui
  | 0x0B => .aupc
  | 0x02 => .addi
  | 0x0C => match decode w with | .ok (.sLd _ _ _ _ .b64 _) => .ld64 | _ => .other
  | 0x10 | 0x11 => .call
  | 0x12 | 0x13 | 0x14 | 0x15 | 0x16 | 0x17 => .branch
  | _ => .other

/-- The status of a failing record. -/
def overflow : Nat := 5
def misplaced : Nat := 6

/-- h(x) (R289). -/
def highPart (x : Int) : Int := (x + 0x800) / 4096
def lowPart (x : Int) : Int := x - 4096 * highPart x

/-- A word with its low n bits replaced. -/
def putLow (w : Word) (n : Nat) (x : Int) : Word := setField w 0 n (x % (2 : Int) ^ n).toNat

def fitsIn (n : Nat) (x : Int) : Bool := decide (-(2 : Int) ^ (n - 1) ≤ x) && decide (x < (2 : Int) ^ (n - 1))

/-- What a record's evaluation needs: the text's word at an offset, and the pair of an anchor. -/
def pairOk (relocs : List Reloc) (wordAt : Nat → Word) (r : Reloc) (type : Nat) : Bool :=
  patchWord (wordAt r.anchor) == .aupc && decide (r.anchor % 4 = 0) &&
    relocs.any fun q => q.sect == 1 && q.off == r.anchor && q.type == type && q.sym == r.sym && q.addend == r.addend

/-- The new word of a text record at address p with anchor address q, for V = v, or its status. -/
def patchText (r : Reloc) (w : Word) (pair : Nat → Bool) (inText : Bool) (v p q : Int) : Except Nat Word :=
  match r.type, patchWord w with
  | 2, .lui => if inText then .error misplaced else if fitsIn 20 (highPart v) then .ok (putLow w 20 (highPart v)) else .error overflow
  | 3, .addi => if inText then .error misplaced else .ok (putLow w 12 (lowPart v))
  | 4, .aupc => if fitsIn 20 (highPart (v - p)) then .ok (putLow w 20 (highPart (v - p))) else .error overflow
  | 5, .addi => if pair 4 then .ok (putLow w 12 (lowPart (v - q))) else .error misplaced
  | 6, .call =>
    if (v - p) % 4 ≠ 0 then .error misplaced
    else if fitsIn 26 ((v - p) / 4) then .ok (putLow w 26 ((v - p) / 4)) else .error overflow
  | 7, .branch =>
    if (v - p) % 4 ≠ 0 then .error misplaced
    else if fitsIn 19 ((v - p) / 4) then .ok (putLow w 19 ((v - p) / 4)) else .error overflow
  | 8, .aupc => if fitsIn 20 (highPart (v - p)) then .ok (putLow w 20 (highPart (v - p))) else .error overflow
  | 9, .addi => if pair 8 then .ok (putLow w 12 (lowPart (v - q))) else .error misplaced
  | 9, .ld64 =>
    if !pair 8 then .error misplaced
    else if lowPart (v - q) % 8 = 0 ∧ fitsIn 7 (lowPart (v - q) / 8) = true then .ok (putLow w 7 (lowPart (v - q) / 8)) else .error overflow
  | _, _ => .error misplaced

/-- Sections as they are being filled: kind and contents. -/
abbrev Sections := List (Nat × List Byte)

def Sections.get (f : Sections) (k : Nat) : List Byte := ((f.find? (·.1 == k)).map (·.2)).getD []
def Sections.put (f : Sections) (k off : Nat) (bs : List Byte) : Sections :=
  f.map fun x => if x.1 = k then (k, x.2.take off ++ bs ++ x.2.drop (off + bs.length)) else x

/-- One record (R289): the sections with its field written, or its status. `syms` are the symbols that records name,
`stub` the resolver stub. -/
def State.applyReloc (s : State) (asid : BitVec 12) (l : Layout3) (syms : List Symbol) (relocs : List Reloc) (stub : Nat)
    (f : Sections) (r : Reloc) : Except Nat Sections :=
  let y := syms.getD r.sym ⟨[], 0, 0, 0⟩
  let place := l.sectAt r.sect + r.off
  let len := (f.get r.sect).length
  let wide := decide (place % 8 = 0) && decide (r.off + 8 ≤ len)
  if r.type = 10 then
    if r.sect = 5 ∧ wide = true then .ok (f.put 5 r.off (toBytes 8 stub)) else .error misplaced
  else
    let got := r.type = 8 ∨ r.type = 9
    match (if got then (l.gotOf y).map fun a => (a, false) else s.symAt asid l y) with
    | none => .error misplaced
    | some (a, inText) =>
      let v : Int := (a : Int) + r.addend
      if r.type = 1 then
        if (r.sect = 2 ∨ r.sect = 3 ∨ r.sect = 4) ∧ wide = true ∧ (inText = false ∨ r.sect = 4) then
          .ok (f.put r.sect r.off (toBytes 8 (v % (2 : Int) ^ 64).toNat))
        else .error misplaced
      else if r.sect ≠ 1 ∨ r.off % 4 ≠ 0 ∨ len < r.off + 4 then .error misplaced
      else
        let text := f.get 1
        let wordAt := fun (o : Nat) => BitVec.ofNat 32 (leField text o 4)
        match patchText r (wordAt r.off) (pairOk relocs wordAt r) inText v place (l.text + r.anchor) with
        | .ok w => .ok (f.put 1 r.off (toBytes 4 w.toNat))
        | .error e => .error e

/-- Records in their order: the first that fails stops them, with its index. `p` tells which are applied. -/
def State.applyRelocs (s : State) (asid : BitVec 12) (l : Layout3) (syms : List Symbol) (all : List Reloc) (stub : Nat)
    (p : Reloc → Bool) : List Reloc → Nat → Sections → Except (Nat × Nat) Sections
  | [], _, f => .ok f
  | r :: rest, i, f =>
    if !p r then s.applyRelocs asid l syms all stub p rest (i + 1) f
    else match s.applyReloc asid l syms all stub f r with
      | .ok f => s.applyRelocs asid l syms all stub p rest (i + 1) f
      | .error e => .error (e, i)

end Sys2Proof.Machine
end

