-- ==== Sys2Proof/Machine/Loader.lean ====
section
/-! DEFINITION. The loader (R285 to R304): loading and unloading, export cells and resolver stubs, and moving or replacing
text under running teams. -/

namespace Sys2Proof.Machine

/-! Memory as the loader reaches it: by a context's addresses. -/

/-- The page of an address of a context, when it is resident here. -/
def State.vaLeaf (s : State) (asid : BitVec 12) (va : Nat) : Option Leaf :=
  (s.walk asid va none).filter fun l => l.res && l.dev.isNone

/-- The device PA of an address of a context, when its page is resident here. -/
def State.vaPa (s : State) (asid : BitVec 12) (va : Nat) : Option Nat := (s.vaLeaf asid va).map (·.at va)

/-- Bytes at their places, none where some page is not there. -/
def State.vaCells (s : State) (asid : BitVec 12) (va : Nat) (bs : List Byte) : Option (List (Nat × Byte)) :=
  (cellsAt va bs).mapM fun c => (s.vaPa asid c.1).map fun pa => (pa, c.2)

def State.vaWrite (s : State) (asid : BitVec 12) (va : Nat) (bs : List Byte) : State :=
  match s.vaCells asid va bs with
  | some xs => s.register none false xs
  | none => s

def State.vaRead (s : State) (asid : BitVec 12) (va n : Nat) : List Byte :=
  (List.range n).map fun i => match s.vaPa asid (va + i) with | some pa => s.mem.byte pa | none => 0

def State.vaRead8 (s : State) (asid : BitVec 12) (va : Nat) : Nat := ofBytes (s.vaRead asid va 8)
def State.vaWrite8 (s : State) (asid : BitVec 12) (va x : Nat) : State := s.vaWrite asid va (toBytes 8 x)

/-- The 64 KiB pages that a range touches. -/
def pagesOf (va n : Nat) : List Nat := (List.range (if n = 0 then 0 else (va % 65536 + n + 65535) / 65536)).map fun i => va / 65536 * 65536 + 65536 * i

def State.mapped (s : State) (asid : BitVec 12) (va n : Nat) : Bool := (pagesOf va n).all fun a => (s.vaPa asid a).isSome

/-- Whether every page of a range has the rights that a test asks for. -/
def State.rights (s : State) (asid : BitVec 12) (ok : Leaf → Bool) (va n : Nat) : Bool := (pagesOf va n).all fun a => (s.vaLeaf asid a).any ok

/-- The pages of a range with the 64 KiB frames of memory behind them. -/
def State.pagesAt (s : State) (asid : BitVec 12) (va n : Nat) : List (Nat × Nat) :=
  (pagesOf va n).filterMap fun a => (s.vaPa asid a).map fun pa => (a, pa / 65536)

/-- The page-table words that the runtime writes for a request. -/
def State.writeTables (s : State) (ws : List (Nat × DWord)) : State := ws.foldl (fun s w => s.device8 w.1 w.2) s

/-- An ICINV over a range that has completed (R143). -/
def State.icinvRange (s : State) (va len : Nat) : State :=
  let hit := lineIn va len
  let s := s.dropCode hit
  { s with teams := s.teams.map fun (t : Team) => { t with iss.ahead := t.iss.ahead.filter fun x => !hit x.1.toNat } }

/-- The loader's answer to a request: status and index (R285). -/
def State.loaderSays (s : State) (status index : Nat) : State := { s with ldr.results := s.ldr.results ++ [(status, index)] }

/-! Ranges. -/

/-- The bytes of a resolver stub and its table: the table stands where there is a .link section (R302). -/
def stubLen (sects : List Section) : Nat := 64 + (match sect? sects 5 with | some x => 8 + x.size | none => 0)

/-- The ranges that an object's sections hold, and its old texts that are still mapped. -/
def Object.ranges (o : Object) : List (Nat × Nat) :=
  ((o.sects.filter fun x => loadedKind x.kind).map fun x => (o.layout.sectAt x.kind, if x.kind = 1 then o.textLen else x.size)) ++
    o.moved.map fun m => (m.start, m.len)

/-- The ranges of a context that an object holds: with its resolver stub. -/
def Object.held (o : Object) : List (Nat × Nat) := (o.stub, stubLen o.sects) :: o.ranges

/-- Whether two ranges have no byte in common. -/
def apart (a b : Nat × Nat) : Bool := decide (a.2 = 0) || decide (b.2 = 0) || decide (a.1 + a.2 ≤ b.1) || decide (b.1 + b.2 ≤ a.1)

/-- The ranges that a context's objects, their stubs and its export cells hold. -/
def State.heldRanges (s : State) (asid : BitVec 12) : List (Nat × Nat) :=
  (s.objectsOf asid).flatMap Object.held ++ (s.ldr.cells.filter (·.asid == asid)).map fun c => (c.addr, 8)

/-- Whether a range is free in a context: nothing loaded holds a byte of it, and it lies below the scratch window. -/
def State.rangeFree (s : State) (asid : BitVec 12) (base len : Nat) : Bool :=
  decide (base + len ≤ 0x1FF * 2 ^ 48) && (s.heldRanges asid).all (apart (base, len))

/-! Export cells (R303). -/

def State.cell? (s : State) (asid : BitVec 12) (name : List Byte) : Option Nat :=
  (s.ldr.cells.find? fun c => c.asid == asid && c.name == name).map (·.addr)

/-- The names of a list that have no cell. -/
def State.fresh (s : State) (asid : BitVec 12) (names : List (List Byte)) : List (List Byte) :=
  names.eraseDups.filter fun n => (s.cell? asid n).isNone

/-- Cells for names that have none, zero, from an address on. -/
def State.newCells (s : State) (asid : BitVec 12) (names : List (List Byte)) (addr : Nat) : State :=
  let fresh := s.fresh asid names
  ((List.range fresh.length).zip fresh).foldl (fun s x =>
    { s.vaWrite8 asid (addr + 8 * x.1) 0 with ldr.cells := s.ldr.cells ++ [⟨asid, x.2, addr + 8 * x.1⟩] }) s

/-- The global symbols of an object and their addresses. -/
def Object.exports (o : Object) : List (List Byte × Nat) :=
  (o.syms.filter (·.bind == 1)).map fun y => (y.name, o.layout.sectAt y.kind + y.off)

/-- A load writes the cells of its exports that are zero. -/
def State.exportAll (s : State) (o : Object) : State :=
  o.exports.foldl (fun s x => match s.cell? o.asid x.1 with
    | some a => if s.vaRead8 o.asid a = 0 then s.vaWrite8 o.asid a x.2 else s
    | none => s) s

/-! The resolver stub (R302). -/

def stubCode : List Nat :=
  [0x2FB00000, 0x339EC188, 0x05CBA721, 0x05DBB720, 0x33BEC189, 0x3DCF601C, 0x49C80003, 0x3C074E6D, 0x60039001, 0x03F80001] ++
    List.replicate 6 0

/-- The LINK64 record on entry i of an object's .link section. -/
def linkRecord (relocs : List Reloc) (i : Nat) : Option Reloc := relocs.find? fun r => r.type == 10 && r.sect == 5 && r.off == 8 * i

/-- The stub page of an object: code and NOPs, and where it has a .link section the link base and the cell of each entry.
DEDUCED (log 51). -/
def State.stubBytes (s : State) (asid : BitVec 12) (l : Layout3) (relocs : List Reloc) : List Byte :=
  let cell := fun (i : Nat) =>
    ((linkRecord relocs i).bind fun r => s.cell? asid (l.syms.getD r.sym ⟨[], 0, 0, 0⟩).name).getD 0
  (stubCode.flatMap (toBytes 4)) ++ (match sect? l.sects 5 with
    | some x => toBytes 8 (l.sectAt 5) ++ (List.range (x.size / 8)).flatMap fun i => toBytes 8 (cell i)
    | none => [])

/-! Loading (R285 to R287, R299, R300). -/

/-- The first extern that a record other than a LINK64 names and nothing resolves. -/
def State.unresolved (s : State) (asid : BitVec 12) (l : Layout3) (syms : List Symbol) (relocs : List Reloc) : Option Nat :=
  (List.range syms.length).find? fun i =>
    (syms.getD i ⟨[], 0, 0, 0⟩).bind == 2 && (relocs.any fun r => r.sym == i && r.type != 10) &&
      (s.resolve asid l (syms.getD i ⟨[], 0, 0, 0⟩).name).isNone

/-- The first .link entry that names nothing, so that no cell is its name's, by the symbol that stands for the entry (R302). -/
def noCell (l : Layout3) (relocs : List Reloc) : Option Nat :=
  ((List.range (((sect? l.sects 5).map (·.size)).getD 0 / 8)).find? fun i => (linkRecord relocs i).isNone).map fun i =>
    ((List.range l.syms.length).find? fun k => let y := l.syms.getD k ⟨[], 0, 0, 0⟩; y.kind == 5 && y.off == 8 * i).getD 0

/-- The object of another context whose shared sections a load takes over (R287). -/
def State.donor (s : State) (asid : BitVec 12) (vi : Nat) (img : List Byte) (l : Layout3) (relocs : List Reloc) : Option Object :=
  s.ldr.objects.find? fun d => d.vi == vi && d.asid != asid && d.image == img && d.layout == l && d.moved.isEmpty &&
    relocs.all fun r => !sharedKind r.sect ||
      (s.symAt asid l (l.syms.getD r.sym ⟨[], 0, 0, 0⟩)).map (·.1) == (s.symAt d.asid d.layout (d.syms.getD r.sym ⟨[], 0, 0, 0⟩)).map (·.1)

/-- Whether the shared sections of two contexts lie at the same places in memory. -/
def State.samePlaces (s : State) (a b : BitVec 12) (l : Layout3) : Bool :=
  (l.sects.filter fun x => sharedKind x.kind).all fun x => (List.range x.size).all fun i =>
    s.vaPa a (l.sectAt x.kind + i) == s.vaPa b (l.sectAt x.kind + i)

/-- The checks of an image's version (R102). -/
def versionOk (img : List Byte) : Bool := imgMajor img == 1 && (decide (imgMinor img ≤ 3) || imgSafe img)

/-- The checks 1 to 4 of R285, with the status and index of the first that fails. DEDUCED (log 51). -/
def State.loadChecks (s : State) (asid : BitVec 12) (img : List Byte) (l : Layout3) (relocs : List Reloc) : Option (Nat × Nat) :=
  if !imageOk img [] || imgTrans img then some (1, 0)
  else if !versionOk img then some (2, 0)
  else if !(decide (l.base % 65536 = 0) && s.rangeFree asid l.base (extent l.sects)) then some (3, 0)
  else match s.unresolved asid l l.syms relocs with
    | some i => some (4, i)
    | none => (noCell l relocs).map fun i => (4, i)

/-- The names that a load keeps cells for: its exports and those of its LINK64 records. -/
def cellNames (l : Layout3) (relocs : List Reloc) : List (List Byte) :=
  ((l.syms.filter (·.bind == 1)).map (·.name)) ++ (relocs.filter (·.type == 10)).map fun r => (l.syms.getD r.sym ⟨[], 0, 0, 0⟩).name

/-- What a load writes once every record is applied: sections, cells, the stub; then the object is loaded. -/
def State.place (s : State) (req : LoadReq) (vi : Nat) (l : Layout3) (relocs : List Reloc) (f : Sections) (shared : Bool) : State :=
  let asid := req.asid
  let s := (f.filter fun x => !(shared && sharedKind x.1)).foldl (fun s x => s.vaWrite asid (l.sectAt x.1) x.2) s
  let textLen := (contents req.image l.sects 1).length
  let s := if shared then s else s.icinvRange l.text textLen
  let s := s.newCells asid (cellNames l relocs) req.cells
  let s := s.vaWrite asid req.stub (s.stubBytes asid l relocs)
  let o : Object :=
    { handle := s.ldr.next, asid := asid, vi := vi, base := l.base, text := l.text, textLen := textLen,
      major := imgMajor req.image, minor := imgMinor req.image, sects := l.sects, syms := l.syms, relocs := relocs,
      image := req.image,
      code := ⟨contents req.image l.sects 1, relocs.filter (·.sect == 1), l.syms, parseRegion (contents req.image l.sects 8)⟩,
      stub := req.stub, unloading := false, moved := [] }
  let s := { s with ldr.objects := s.ldr.objects ++ [o], ldr.next := s.ldr.next + 1 }
  (s.exportAll o).loaderSays 0 o.handle.toNat

/-- Whether the memory that a load needs is there; without it the load ends with status 7. -/
def State.roomFor (s : State) (req : LoadReq) (l : Layout3) (relocs : List Reloc) : Bool :=
  (l.sects.filter fun x => loadedKind x.kind).all (fun x => s.mapped req.asid (l.sectAt x.kind) x.size) &&
    s.mapped req.asid req.stub (stubLen l.sects) && s.mapped req.asid req.cells (8 * (s.fresh req.asid (cellNames l relocs)).length)

/-! How the loader maps what it loads (R287, R302, R303): a request whose pages are otherwise is none that a loader makes. -/

/-- The rights of the pages of a section. -/
def sectionRights (kind : Nat) (l : Leaf) : Bool :=
  if kind = 1 then l.r && l.x && !l.w else if kind = 2 then l.r && !l.w else l.r && l.w

/-- The pages of an object's sections and old texts, of its stub, and of an export cell. -/
def State.objectPages (s : State) (o : Object) : List (Nat × Nat) := o.ranges.flatMap fun r => s.pagesAt o.asid r.1 r.2
def State.stubPages (s : State) (o : Object) : List (Nat × Nat) := s.pagesAt o.asid o.stub (stubLen o.sects)
def State.cellPages (s : State) (c : ExportCell) : List (Nat × Nat) := s.pagesAt c.asid c.addr 8

/-- Everything that the loader keeps in memory: contexts and pages. -/
def State.heldPages (s : State) : List (BitVec 12 × Nat × Nat) :=
  (s.ldr.objects.flatMap fun o => (s.objectPages o ++ s.stubPages o).map fun x => (o.asid, x)) ++
    s.ldr.cells.flatMap fun c => (s.cellPages c).map fun x => (c.asid, x)

/-- Whether some pages stand on no frame that the loader has in use, but as the same page of the contexts they are for. -/
def State.unused (s : State) (asids : List (BitVec 12)) (new : List (Nat × Nat)) : Bool :=
  let held := s.heldPages
  new.all fun x => held.all fun y => y.2.2 != x.2 || (asids.contains y.1 && y.2.1 == x.1)

/-- Whether two lists of pages have no frame in common. -/
def framesApart (a b : List (Nat × Nat)) : Bool := a.all fun x => b.all fun y => x.2 != y.2

/-- Whether each page of a list has a frame of its own. -/
def onePageEach (a : List (Nat × Nat)) : Bool := a.all fun x => a.all fun y => x.2 != y.2 || x.1 == y.1

/-- Whether what the loader keeps lies where it lay in another state: the page-table words of a request move none of it. -/
def State.keepsPages (s s' : State) : Bool := s.heldPages == s'.heldPages

/-- Whether the pages of a load have their rights; its sections, stub and cells stand apart from one another and from all that is
loaded; the stub has pages of its own, the new cells lie in device memory, and the cells that the context has are in reach.
DEDUCED (log 51). -/
def State.pagesFor (s : State) (req : LoadReq) (l : Layout3) (relocs : List Reloc) (shared : Bool) : Bool :=
  let loaded := l.sects.filter fun x => loadedKind x.kind
  let n := 8 * (s.fresh req.asid (cellNames l relocs)).length
  let len := stubLen l.sects
  let sects := loaded.flatMap fun x => s.pagesAt req.asid (l.sectAt x.kind) x.size
  let own := (loaded.filter fun x => !(shared && sharedKind x.kind)).flatMap fun x => s.pagesAt req.asid (l.sectAt x.kind) x.size
  let stub := s.pagesAt req.asid req.stub len
  let cells := s.pagesAt req.asid req.cells n
  loaded.all (fun x => s.rights req.asid (sectionRights x.kind) (l.sectAt x.kind) x.size) &&
    decide (req.stub % 64 = 0) && s.rights req.asid (sectionRights 1) req.stub len && s.rangeFree req.asid req.stub len &&
    decide (req.cells % 8 = 0) && s.rights req.asid (sectionRights 2) req.cells n && s.rangeFree req.asid req.cells n &&
    apart (l.base, extent l.sects) (req.stub, len) && apart (l.base, extent l.sects) (req.cells, n) && apart (req.stub, len) (req.cells, n) &&
    onePageEach (sects ++ stub ++ cells) && s.unused [req.asid] (own ++ stub ++ cells) &&
    framesApart stub (sects ++ cells) && cells.all (fun x => !inHost (65536 * x.2)) &&
    (s.ldr.cells.all fun c => framesApart stub (s.cellPages c) && (c.asid != req.asid || s.mapped c.asid c.addr 8)) &&
    s.ldr.objects.all fun p => framesApart stub (s.objectPages p) && framesApart (own ++ cells) (s.stubPages p)

/-- Whether an unload of a context has been asked for and not taken effect: the requests of one context are performed one at a
time, in order (R299). -/
def State.unloadWaits (s : State) (asid : BitVec 12) (but : DWord) : Bool :=
  (s.objectsOf asid).any fun o => o.unloading && o.handle != but

/-- A load: checked in order, then relocated and placed, or rejected with nothing changed (R299). -/
def execObjectLoad (req : LoadReq) (s : State) : Host.Outcome State Fault Refusal :=
  let img := req.image
  let ss := imgSections img
  let base := req.base.getD (imgBase img)
  let l : Layout3 := ⟨base + ((sect? ss 1).map (·.imoff)).getD 0, base, ss, parseSyms (contents img ss 7)⟩
  let relocs := parseRelocs (contents img ss 6)
  let s' := s.writeTables req.tables
  match (if !s.boot.guestsOpen || s.unloadWaits req.asid s.ldr.next then none else s'.context req.asid) with
  | none => .refused (.notEnabled "OBJECT_LOAD")
  | some (vi, _) =>
    match s.loadChecks req.asid img l relocs with
    | some (st, i) => .next (s.loaderSays st i)
    | none =>
      let donor := s.donor req.asid vi img l relocs
      let f : Sections := (ss.filter fun x => loadedKind x.kind).map fun x => (x.kind, contents img ss x.kind)
      match s.applyRelocs req.asid l l.syms relocs req.stub (fun r => !(donor.isSome && sharedKind r.sect)) relocs 0 f with
      | .error (st, i) => .next (s.loaderSays st i)
      | .ok f =>
        if !s'.roomFor req l relocs then .next (s.loaderSays 7 0)
        else if s.keepsPages s' && s'.pagesFor req l relocs donor.isSome && donor.all (fun d => s'.samePlaces req.asid d.asid l) then
          .next (s'.place req vi l relocs f donor.isSome)
        else .refused (.notEnabled "OBJECT_LOAD")

/-- The entries of an object's table of a kind. -/
def Object.entries (o : Object) (k : Nat) : List Nat :=
  match sect? o.sects k with
  | some x => (List.range (x.size / 8)).map fun i => o.layout.sectAt k + 8 * i
  | none => []

/-! The code addresses of a team (R294, R296, R298). -/

/-- A team with its control state as it stands: in its record, or in its parking area. -/
def State.codeView (s : State) (t : Team) : Team :=
  if t.sched.life = .parked then
    let p := t.sched.parking
    { t with ctl := s.mem.parkedControl p t, sys := s.mem.parkedSys p, rep := s.mem.parkedReplay p t,
             iss.dtrap := ⟨0, s.mem.d8 (p + 0x688), 0, false⟩ }
  else t

/-- Where spilled link entry i lies, the newest first. -/
def State.spillAt (s : State) (t : Team) (i : Nat) : Meet :=
  s.xlate t ((t.sys.lsp - BitVec.ofNat 64 (8 * (i + 1))).toNat % 2 ^ 57) needR

/-- The places and values of the spilled link entries, newest first; none where one is out of the loader's reach. -/
def State.spills (s : State) (t : Team) : Option (List (Nat × Nat)) :=
  (List.range t.ctl.spilled).mapM fun i =>
    match s.spillAt t i with
    | .ok (.home pa) | .ok (.scratch _ _ pa) => some (pa, s.mem.le pa 8)
    | _ => none

/-- Whether no spilled link entry of a team lies on a page that is not resident. -/
def State.spillsThere (s : State) (t : Team) : Bool :=
  (List.range t.ctl.spilled).all fun i => s.spillAt t i != .nonResident

def Team.livePcs (t : Team) : List DWord := (t.ctl.frags.filter Frag.live).map (·.pc)

def loopAddrs (es : List LoopEntry) : List DWord := es.flatMap fun e => [e.first, e.last]

/-- The saved PCs of a team besides its fragments' (R298). -/
def Team.savedPcs (t : Team) : List DWord :=
  [t.sys.tpc, t.sys.regpc, t.iss.dtrap.pc] ++ t.rep.snap.pend.toList ++ t.ctl.pend.toList ++ t.ctl.fuse.filterMap (fun x => x) ++
    loopAddrs t.ctl.rloop ++ t.rep.log.map (·.pc)

/-- Whether some address, or a spilled link entry of a team, lies in a range; one that the loader cannot reach may. -/
def State.anyIn (s : State) (t : Team) (as : List DWord) (start len : Nat) : Bool :=
  let hit := fun (a : Nat) => decide (start ≤ a) && decide (a < start + len)
  as.any (fun a => hit a.toNat) || (match s.spills t with | some xs => xs.any fun x => hit x.2 | none => true)

/-- Whether a team's fragments, link stack or loop stack point into a range. -/
def State.pointsInto (s : State) (t : Team) (start len : Nat) : Bool :=
  let t := s.codeView t
  s.anyIn t (t.livePcs ++ t.ctl.link ++ loopAddrs t.ctl.loop) start len

/-- The same with the team's saved PCs. -/
def State.refersTo (s : State) (t : Team) (start len : Nat) : Bool :=
  let t := s.codeView t
  s.anyIn t (t.livePcs ++ t.ctl.link ++ loopAddrs t.ctl.loop ++ t.savedPcs) start len

/-- Teams that are still there: those that have not retired (R297). -/
def Team.lives (t : Team) : Bool := t.sched.life != .retired

/-- The words of a context that the loader reads and rewrites: .got and .link entries, ABS64 places and export cells. -/
def State.loaderWords (s : State) (asid : BitVec 12) : List Nat :=
  ((s.objectsOf asid).flatMap fun p => p.entries 4 ++ p.entries 5 ++
    (p.relocs.filter (·.type == 1)).map fun r => p.layout.sectAt r.sect + r.off) ++
    (s.ldr.cells.filter (·.asid == asid)).map (·.addr)

/-- Whether those words are all on resident pages: the loader has made them so before it looks. DEDUCED (log 52). -/
def State.wordsThere (s : State) (asid : BitVec 12) : Bool := (s.loaderWords asid).all fun a => s.mapped asid a 8

/-! Unloading (R294). -/

/-- Whether something still refers to an object's text; an old text of it that is still mapped holds the unload too (R297).
DEDUCED (log 52). -/
def State.referred (s : State) (o : Object) : Bool :=
  !o.moved.isEmpty ||
  (s.teams.any fun t => t.lives && t.const.asid == o.asid && (t.const.handle == o.handle || s.refersTo t o.text o.textLen)) ||
  s.sched.launches.any fun l => l.vi == o.vi && leField l.record 0 8 == o.handle.toNat && decide (l.place < recPlaces l.record)

/-- Whether an address lies in an object. -/
def Object.holds (o : Object) (a : Nat) : Bool := o.ranges.any fun r => decide (r.1 ≤ a) && decide (a < r.1 + r.2)

/-- Whether another object of the context holds an address of this one in a .got entry or an ABS64 value. -/
def State.heldByOthers (s : State) (o : Object) : Bool :=
  (s.objectsOf o.asid).any fun p => p.handle != o.handle && p.relocs.any fun r => r.type == 1 &&
    o.holds (s.vaRead8 p.asid (p.layout.sectAt r.sect + r.off))

/-- Linkage entries of the other objects that lead into an object go back to their stubs. -/
def State.resetLinks (s : State) (o : Object) : State :=
  ((s.objectsOf o.asid).filter (·.handle != o.handle)).foldl (fun s p =>
    (p.entries 5).foldl (fun s a => if o.holds (s.vaRead8 p.asid a) then s.vaWrite8 p.asid a p.stub else s) s) s

/-- The cells of an object's exports go to the next exporter, or to zero (R303). -/
def State.unexport (s : State) (o : Object) : State :=
  let others := (s.objectsOf o.asid).filter (·.handle != o.handle)
  o.exports.foldl (fun s x => match s.cell? o.asid x.1 with
    | some a =>
      if s.vaRead8 o.asid a = x.2 then
        s.vaWrite8 o.asid a ((others.findSome? fun p => (p.exports.find? (·.1 == x.1)).map (·.2)).getD 0)
      else s
    | none => s) s

/-- An unload request: it fails at once, waits, or takes effect. -/
def execObjectUnload (asid : BitVec 12) (handle : DWord) (s : State) : Host.Outcome State Fault Refusal :=
  match s.ldr.objects.find? fun o => o.asid == asid && o.handle == handle with
  | none => .refused (.notEnabled "OBJECT_UNLOAD")
  | some o =>
    if !s.boot.guestsOpen || s.unloadWaits asid handle || !s.wordsThere asid then .refused (.notEnabled "OBJECT_UNLOAD")
    else if s.heldByOthers o then .next s
    else if s.referred o then
      .next { s with ldr.objects := s.ldr.objects.map fun p => if p.handle = handle then { p with unloading := true } else p }
    else
      let s := (s.unexport o).resetLinks o
      .next { s with ldr.objects := s.ldr.objects.filter (·.handle != handle) }

/-! Rewriting a team (R298). -/

/-- F, total: an address outside the old text stays. -/
def OldText.map (o : OldText) (a : Nat) : Option Nat :=
  if a < o.start ∨ o.start + o.len ≤ a then some a
  else match o.fwd with
    | none => some (a - o.start + o.new)
    | some l => (lookupKey (a - o.start) l).map (o.new + ·)

def OldText.mapD (o : OldText) (a : DWord) : Option DWord := (o.map a.toNat).map (BitVec.ofNat 64)

def mapOpt (f : DWord → Option DWord) : Option DWord → Option (Option DWord)
  | none => some none
  | some a => (f a).map some

def mapLoop (f : DWord → Option DWord) (e : LoopEntry) : Option LoopEntry :=
  match f e.first, f e.last with
  | some a, some b => some { e with first := a, last := b }
  | _, _ => none

def mapFrag (f : DWord → Option DWord) (x : Frag) : Option Frag :=
  if x.live then (f x.pc).map fun a => { x with pc := a } else some x

def mapEntryPc (f : DWord → Option DWord) (e : LogEntry) : Option LogEntry := (f e.pc).map fun a => { e with pc := a }

/-- The spilled entries with F applied. -/
def mapSpills (f : DWord → Option DWord) (xs : List (Nat × Nat)) : Option (List (Nat × Nat)) :=
  xs.mapM fun x => (f (BitVec.ofNat 64 x.2)).map fun a => (x.1, a.toNat)

/-- Case 1: every code address that lies in the old text has F. -/
def fullRewrite (f : DWord → Option DWord) (t : Team) (sp : List (Nat × Nat)) : Option (Team × List (Nat × Nat)) := do
  let frags ← t.ctl.frags.mapM (mapFrag f)
  let tpc ← f t.sys.tpc
  let regpc ← f t.sys.regpc
  let rspc ← mapOpt f t.rep.snap.pend
  let pend ← mapOpt f t.ctl.pend
  let fuse ← t.ctl.fuse.mapM (mapOpt f)
  let loop ← t.ctl.loop.mapM (mapLoop f)
  let rloop ← t.ctl.rloop.mapM (mapLoop f)
  let link ← t.ctl.link.mapM f
  let log ← t.rep.log.mapM (mapEntryPc f)
  let dpc ← f t.iss.dtrap.pc
  let sp ← mapSpills f sp
  let tvec := (f t.sys.tvec).getD t.sys.tvec
  some ({ t with
    ctl.frags := frags, ctl.pend := pend, ctl.fuse := fuse, ctl.loop := loop, ctl.rloop := rloop, ctl.link := link,
    sys.tpc := tpc, sys.regpc := regpc, sys.tvec := tvec, rep.snap := { t.rep.snap with pend := rspc }, rep.log := log,
    iss.dtrap := { t.iss.dtrap with pc := dpc } }, sp)

/-- Case 2: the team goes back to its region entry, as R265 gives. -/
def rollback (f : DWord → Option DWord) (t : Team) (sp : List (Nat × Nat)) : Option (Team × List (Nat × Nat)) := do
  if t.tm || t.rep.kentry then none
  let u := t.popLinkTo t.rep.snap.linkDepth
  let regpc ← f t.sys.regpc
  let rspc ← mapOpt f t.rep.snap.pend
  let rloop ← t.ctl.rloop.mapM (mapLoop f)
  let link ← u.ctl.link.mapM f
  let log ← t.rep.log.mapM (mapEntryPc f)
  let sp ← mapSpills f (sp.drop (t.ctl.spilled - u.ctl.spilled))
  let sn := t.rep.snap
  some ({ u with
    ctl.frags := oneFrag sn.mask regpc sn.depth, ctl.fuse := noFuse, ctl.pend := rspc, ctl.loop := rloop, ctl.rloop := rloop,
    ctl.link := link, sys.regpc := regpc, rep.snap := { sn with pend := rspc }, rep.log := log, rep.consumed := 0,
    iss.bypass := [] }, sp)

/-- The cells of a parking area that hold code addresses, and what stands beside them. -/
def Team.codeCells (t : Team) : List (Nat × Byte) :=
  let pad := fun (a n : Nat) => cellsAt a (zeroBytes n)
  cells8 0x280 t.sys.tvec ++ cells8 0x290 t.sys.tpc ++ cells8 0x2A8 t.sys.regpc ++ cells8 0x2B0 t.sys.lsp ++
  cells8 0x3A0 (optAddr t.rep.snap.pend) ++ cells8 0x3B0 t.rsctl ++ cells8 0x3B8 t.linkn ++
  pad 0x3C0 128 ++ ((List.range t.ctl.link.length).zip t.ctl.link).flatMap (fun (i, x) => cells8 (0x3C0 + 8 * i) x) ++
  pad 0x440 128 ++ loopCells 0x440 t.ctl.loop ++
  ((List.range 8).zip t.ctl.fuse).flatMap (fun (i, x) => cells8 (0x4C0 + 8 * i) (x.getD 0)) ++
  pad 0x500 256 ++ pad 0x800 1024 ++ ((List.range 8).zip t.ctl.frags).flatMap (fun (i, f) => fragCells i f) ++
  cells8 0x688 t.iss.dtrap.pc ++ cells8 0x6A8 (optAddr t.ctl.pend) ++
  ((List.range 16).zip t.rep.log).flatMap (fun (k, e) => cells8 (0x1C00 + 256 * k) e.pc) ++
  pad 0x2C100 128 ++ loopCells 0x2C100 t.ctl.rloop

/-- A parked team rewritten by the first case that applies; whether one did. Its spilled link entries change at their homes, as a store
does. A team that has some on another member, out of the loader's reach, is left as is by a swap. DEDUCED (log 52). -/
def State.rewriteTeam (s : State) (o : OldText) (t : Team) : State × Bool :=
  let v := s.codeView t
  let store := fun (u : Team) (sp : List (Nat × Nat)) (more : List (Nat × Byte)) =>
    let s := { s with mem := Memory.writeBytes s.mem ((u.codeCells ++ more).map fun (c : Nat × Byte) => (t.sched.parking + c.1, c.2)) }
    (s.register none false (sp.flatMap fun (x : Nat × Nat) => cellsAt x.1 (toBytes 8 x.2))).setTeam { t with ctl := u.ctl, sys := u.sys, rep := u.rep, iss.bypass := u.iss.bypass }
  match (s.spills v).bind (fullRewrite o.mapD v) with
  | some (u, sp) => (store u sp [], true)
  | none =>
    match (s.spills v).bind (rollback o.mapD v) with
    | some (u, sp) => (store u sp (cellsAt 0x2C180 (zeroBytes 16)), true)
    | none => (s, false)

/-! Moving text (R295 to R297). -/

/-- The objects that share a text: the same image at the same place, in the contexts of one interface. -/
def State.sharers (s : State) (o : Object) : List Object :=
  s.ldr.objects.filter fun p => p.vi == o.vi && p.image == o.image && p.code == o.code && p.text == o.text &&
    s.vaPa p.asid p.text == s.vaPa o.asid o.text

/-- Rewriting a table entry or a cell that holds an old address. -/
def State.forward (s : State) (o : OldText) (asid : BitVec 12) (a : Nat) : State :=
  let x := s.vaRead8 asid a
  match o.map x with
  | some y => if y = x then s else s.vaWrite8 asid a y
  | none => s

/-- Every .got and .link entry and every export cell of a context that holds an old address (R296, step 5). -/
def State.forwardAll (s : State) (o : OldText) (asid : BitVec 12) : State :=
  let words := ((s.objectsOf asid).flatMap fun p => p.entries 4 ++ p.entries 5) ++ (s.ldr.cells.filter (·.asid == asid)).map (·.addr)
  words.foldl (fun s a => s.forward o asid a) s

/-- The teams that a move concerns. -/
def State.usersOf (s : State) (ps : List Object) : List Team :=
  s.teams.filter fun t => t.lives && ps.any fun p => p.asid == t.const.asid

/-- Steps 1 and 2, and 4 to 6, once every team that points into the old text is parked: the new text is written, teams
and entries are rewritten, and the objects take the new text. -/
def State.commitMove (s : State) (ps : List Object) (old : OldText) (newBytes : List Byte) (upd : Object → Object) : State :=
  match ps with
  | [] => s
  | o :: _ =>
    let s := (s.vaWrite o.asid old.new newBytes).icinvRange old.new newBytes.length
    let parked := (s.usersOf ps).filter (·.sched.life == .parked)
    let (s, done) := parked.foldl (fun (x : State × List Nat) t =>
      let (s, r) := x.1.rewriteTeam old t
      (s, if r then t.id :: x.2 else x.2)) (s, [])
    let s := ((ps.map (·.asid)).eraseDups).foldl (fun s a => s.forwardAll old a) s
    let waits := ((s.teams.filter fun t => t.lives && t.const.vi == o.vi && !done.contains t.id)).map (·.id)
    { s with ldr.objects := s.ldr.objects.map fun p =>
        if ps.any (·.handle == p.handle) then { upd p with moved := p.moved ++ [{ old with waits := waits }] } else p }

/-- The teams that must be saved before a move: those that point into the old text and are not parked. -/
def State.inTheWay (s : State) (ps : List Object) (start len : Nat) : List Team :=
  (s.usersOf ps).filter fun t => (t.sched.life == .resident || t.sched.life == .stopped) && s.pointsInto t start len

/-- A move: the forced saves fall due first (R296, step 3), then it is committed. DEDUCED (log 52). -/
def State.move (s : State) (name : String) (ps : List Object) (old : OldText) (newBytes : List Byte) (upd : Object → Object) :
    Host.Outcome State Fault Refusal :=
  let blocking := s.inTheWay ps old.start old.len
  if !(ps.all fun p => s.wordsThere p.asid) || !((s.usersOf ps).all fun t => s.spillsThere (s.codeView t)) then .refused (.notEnabled name)
  else if blocking.isEmpty then .next (s.commitMove ps old newBytes upd)
  else if blocking.any fun t => t.sched.life == .resident && t.sched.saveDue.isNone then
    .next (blocking.foldl (fun s t => if t.sched.life == .resident then s.setTeam t.dueSave else s) s)
  else .refused (.notEnabled name)

/-- Whether a range is free and mapped alike in the contexts of some objects, on frames that nothing loaded is on, and the page-table
words of the request leave mapped what is, the old text too (R297). -/
def State.moveRoom (s s' : State) (ps : List Object) (start len : Nat) : Bool :=
  s.keepsPages s' && ps.all fun p => s.rangeFree p.asid start len && s'.rights p.asid (sectionRights 1) start len &&
    onePageEach (s'.pagesAt p.asid start len) && s'.unused (ps.map (·.asid)) (s'.pagesAt p.asid start len) &&
    (List.range len).all fun i => s'.vaPa p.asid (start + i) == (ps.head?.bind fun q => s'.vaPa q.asid (start + i))

/-- Whether the loader reaches every spilled link entry of the teams that a compaction rewrites: each of them takes case 1 (R298). -/
def State.spillsReached (s : State) (ps : List Object) : Bool := (s.usersOf ps).all fun t => (s.spills (s.codeView t)).isSome

/-- Compaction: the text moves to where it lies when the object's base is `base`. DEDUCED (log 52). -/
def execTextCompaction (handle : DWord) (base : Nat) (tables : List (Nat × DWord)) (s : State) : Host.Outcome State Fault Refusal :=
  match s.ldr.objects.find? fun o => o.handle == handle with
  | none => .refused (.notEnabled "TEXT_COMPACTION")
  | some o =>
    let ps := s.sharers o
    let new := base + ((sect? o.sects 1).map (·.imoff)).getD 0
    let s' := s.writeTables tables
    if !s.boot.guestsOpen || o.unloading || new % 4 != 0 || !s.spillsReached ps || !s.moveRoom s' ps new o.textLen then .refused (.notEnabled "TEXT_COMPACTION")
    else
      let l : Layout3 := { o.layout with text := new }
      match s.applyRelocs o.asid l o.code.syms o.code.relocs o.stub (fun _ => true) o.code.relocs 0 [(1, o.code.bytes)] with
      | .error (st, i) => .next (s.loaderSays st i)
      | .ok f => s'.move "TEXT_COMPACTION" ps ⟨o.text, o.textLen, new, none, [], false⟩ (Sections.get f 1) fun p => { p with text := new }

/-! Translations (R295). -/

/-- Whether an instruction is an effect (R46). -/
def Instr.isEffect : Instr → Bool
  | .sLd _ _ _ w _ _ | .sLdu _ _ _ w _ _ | .sSt _ _ w _ _ | .pLd _ _ _ _ _ w | .pSt _ _ _ _ w => w == .strong
  | .vLdx _ _ _ _ _ | .vStx _ _ _ _ => true
  | .sAtomAdd _ _ _ _ | .sAtomAnd _ _ _ _ | .sAtomOr _ _ _ _ | .sAtomXor _ _ _ _ | .sAtomMin _ _ _ _ | .sAtomMax _ _ _ _
  | .sAtomMinu _ _ _ _ | .sAtomMaxu _ _ _ _ | .sAtomSwap _ _ _ _ | .sAtomCas _ _ _ | .sAtomLd _ _ _ | .sAtomSt _ _ _ => true
  | .vAtomAdd _ _ _ _ | .vAtomAnd _ _ _ _ | .vAtomOr _ _ _ _ | .vAtomXor _ _ _ _ | .vAtomMin _ _ _ _ | .vAtomMax _ _ _ _
  | .vAtomMinu _ _ _ _ | .vAtomMaxu _ _ _ _ | .vAtomSwap _ _ _ _ | .vAtomCas _ _ _ _ | .vAtomAddf _ _ _ _
  | .vAtomAddbf _ _ _ _ | .vAtomLd _ _ _ _ | .vAtomSt _ _ _ _ => true
  | .barInit _ _ | .barExpect _ _ | .barArrive _ _ | .barWait _ _ | .cpy _ _ | .chain _ | .pgreq _ | .launch _ _ => true
  | .mxMma _ _ _ _ _ _ _ _ | .mxKmma _ _ _ _ _ _ _ | .mxZero _ | .mxAccrd _ _ _ | .mxAccwr _ _ _ | .mxSave _ | .mxResume _
  | .tblKbuild _ _ _ | .tblKinv _ | .tblKdetach _ | .mxStreamOpen _ _ | .mxSub _ _ | .mxFence _ => true
  | _ => false

/-- The offsets that an instruction at an offset makes a translation list. -/
def neededAt (off : Nat) (w : Word) : List Nat :=
  match decode w with
  | .ok i =>
    (if Instr.isEffect i then [off] else []) ++
    (match i with
      | .call _ | .callr _ => [off + 4]
      | .loop _ o => if (sext o).toInt ≤ 0 then [] else [off + 4, ((off : Int) + 4 * (sext o).toInt).toNat]
      | .recv o => let a := (off : Int) + 4 * (sext o).toInt; if a < 0 then [] else [a.toNat]
      | _ => [])
  | .error _ => []

/-- The text of an object as its relocations leave it. -/
def State.textOf (s : State) (o : Object) : List Byte :=
  match s.applyRelocs o.asid o.layout o.code.syms o.code.relocs o.stub (fun _ => true) o.code.relocs 0 [(1, o.code.bytes)] with
  | .ok f => Sections.get f 1
  | .error _ => o.code.bytes

/-- The text offsets that a translation of an object must map, ascending. -/
def State.needed (s : State) (o : Object) : List Nat :=
  let text := s.textOf o
  let words := (List.range (o.textLen / 4)).flatMap fun i => neededAt (4 * i) (BitVec.ofNat 32 (leField text (4 * i) 4))
  let named := fun (i : Nat) => o.relocs.any fun r => r.type == 1 && r.sym == i
  let syms := ((List.range o.syms.length).zip o.syms).filterMap fun x =>
    if x.2.kind = 1 ∧ (x.2.bind = 1 ∨ named x.1 = true) then some x.2.off else none
  let all := o.code.region ++ words ++ syms
  (List.range (o.textLen + 4)).filter fun a => all.contains a

/-- The checks of a translation's image. DEDUCED (log 51). -/
def State.swapChecks (s : State) (o : Object) (req : LoadReq) (l : Layout3) (syms : List Symbol) (relocs : List Reloc)
    (fwd : List (Nat × Nat)) : Option (Nat × Nat) :=
  let img := req.image
  let ss := imgSections img
  if !imageOk img o.sects || !imgTrans img || imgSrc img != o.handle ||
      !ss.all (fun x => [1, 6, 7, 8, 9].contains x.kind) then some (1, 0)
  else if imgMajor img != o.major || decide (3 < imgMinor img) then some (2, 0)
  else if l.text % 4 != 0 || (req.base.getD (imgBase img)) % 65536 != 0 ||
      !(s.sharers o).all (fun p => s.rangeFree p.asid l.text (contents img ss 1).length) then some (3, 0)
  else match s.unresolved o.asid l syms relocs with
    | some i => some (4, i)
    | none => ((s.needed o).find? fun a => (lookupKey a fwd).isNone).map fun a => (6, a)

/-- A re-translation swap: the translation is checked and relocated against the object's other sections, and takes the
place of its text. -/
def execRetranslationSwap (handle : DWord) (req : LoadReq) (s : State) : Host.Outcome State Fault Refusal :=
  match s.ldr.objects.find? fun o => o.handle == handle && o.asid == req.asid with
  | none => .refused (.notEnabled "RETRANSLATION_SWAP")
  | some o =>
    let img := req.image
    let ss := imgSections img
    let new := req.base.getD (imgBase img) + ((sect? ss 1).map (·.imoff)).getD 0
    let syms := parseSyms (contents img ss 7)
    let relocs := parseRelocs (contents img ss 6)
    let fwd := parseFwd (contents img ss 9)
    let l : Layout3 := { o.layout with text := new }
    let text := contents img ss 1
    if !s.boot.guestsOpen || o.unloading then .refused (.notEnabled "RETRANSLATION_SWAP")
    else match s.swapChecks o req l syms relocs fwd with
      | some (st, i) => .next (s.loaderSays st i)
      | none =>
        match s.applyRelocs o.asid l syms relocs o.stub (fun _ => true) relocs 0 [(1, text)] with
        | .error (st, i) => .next (s.loaderSays st i)
        | .ok f =>
          let s' := s.writeTables req.tables
          let ps := s.sharers o
          if !s.moveRoom s' ps new text.length then .next (s.loaderSays 7 0)
          else
            let upd := fun (p : Object) =>
              { p with text := new, textLen := text.length, code := ⟨text, relocs, syms, parseRegion (contents img ss 8)⟩,
                       syms := p.syms.map fun y => if y.kind = 1 then { y with off := (lookupKey y.off fwd).getD y.off } else y }
            let r := s'.move "RETRANSLATION_SWAP" ps ⟨o.text, o.textLen, new, some fwd, [], false⟩ (Sections.get f 1) upd
            match r with
            | .next s'' => .next (if (s'.inTheWay ps o.text o.textLen).isEmpty then s''.loaderSays 0 handle.toNat else s'')
            | x => x

/-! The sweep (R297). -/

/-- Whether the teams that a sweep waits for are gone. -/
def State.waitedFor (s : State) (m : OldText) : Bool := m.waits.all fun i => (s.team? i).all fun t => !t.lives

/-- The next sweep of an old text of an object, or the end of its mapping. -/
def execLoaderSweep (handle : DWord) (s : State) : Host.Outcome State Fault Refusal :=
  match s.ldr.objects.find? fun o => o.handle == handle with
  | none => .refused (.notEnabled "LOADER_SWEEP")
  | some o =>
    match (if s.boot.guestsOpen then o.moved.find? s.waitedFor else none) with
    | none => .refused (.notEnabled "LOADER_SWEEP")
    | some m =>
      let set := fun (s : State) (f : List OldText → List OldText) =>
        { s with ldr.objects := s.ldr.objects.map fun p => if p.handle = handle then { p with moved := f p.moved } else p }
      if m.swept then .next (set s fun ms => ms.erase m)
      else if !s.wordsThere o.asid then .refused (.notEnabled "LOADER_SWEEP")
      else
        let s := s.forwardAll m o.asid
        let waits := (s.teams.filter fun t => t.lives && t.const.vi == o.vi).map (·.id)
        .next (set s fun ms => ms.map fun x => if x = m then { m with swept := true, waits := waits } else x)

end Sys2Proof.Machine
end

