-- ==== Sys2Proof/Machine/Dispatch.lean ====
section
/-! DEFINITION. The dispatch: one arm for each row of the opcode table. -/

namespace Sys2Proof.Machine

/-- What an instruction, or an event of another agent, does. -/
def exec (i : Instr) (s : State) : Host.Outcome State Fault Refusal :=
  match i with
  | .nop => Sys2Proof.Machine.execNop s
  | .trap d => Sys2Proof.Machine.execTrap d s
  | .eret => Sys2Proof.Machine.execEret s
  | .sysr d b => Sys2Proof.Machine.execSysr d b s
  | .sysw a b => Sys2Proof.Machine.execSysw a b s
  | .yield => Sys2Proof.Machine.execYield s
  | .perf a => Sys2Proof.Machine.execPerf a s
  | .region => Sys2Proof.Machine.execRegion s
  | .vers d => Sys2Proof.Machine.execVers d s
  | .cycles d => Sys2Proof.Machine.execCycles d s
  | .icinv a b => Sys2Proof.Machine.execIcinv a b s
  | .pgreq a => Sys2Proof.Machine.execPgreq a s
  | .launch a b => Sys2Proof.Machine.execLaunch a b s
  | .exit => Sys2Proof.Machine.execExit s
  | .bkpt => Sys2Proof.Machine.execBkpt s
  | .modeSet a b => Sys2Proof.Machine.execModeSet a b s
  | .modeGet d => Sys2Proof.Machine.execModeGet d s
  | .sAdd d a b => Sys2Proof.Machine.execSAdd d a b s
  | .sSub d a b => Sys2Proof.Machine.execSSub d a b s
  | .sMul d a b => Sys2Proof.Machine.execSMul d a b s
  | .sMulh d a b => Sys2Proof.Machine.execSMulh d a b s
  | .sMulhu d a b => Sys2Proof.Machine.execSMulhu d a b s
  | .sDiv d a b => Sys2Proof.Machine.execSDiv d a b s
  | .sDivu d a b => Sys2Proof.Machine.execSDivu d a b s
  | .sRem d a b => Sys2Proof.Machine.execSRem d a b s
  | .sRemu d a b => Sys2Proof.Machine.execSRemu d a b s
  | .sAnd d a b => Sys2Proof.Machine.execSAnd d a b s
  | .sOr d a b => Sys2Proof.Machine.execSOr d a b s
  | .sXor d a b => Sys2Proof.Machine.execSXor d a b s
  | .sShl d a b => Sys2Proof.Machine.execSShl d a b s
  | .sShr d a b => Sys2Proof.Machine.execSShr d a b s
  | .sSar d a b => Sys2Proof.Machine.execSSar d a b s
  | .sMin d a b => Sys2Proof.Machine.execSMin d a b s
  | .sMax d a b => Sys2Proof.Machine.execSMax d a b s
  | .sMinu d a b => Sys2Proof.Machine.execSMinu d a b s
  | .sMaxu d a b => Sys2Proof.Machine.execSMaxu d a b s
  | .sSlt d a b => Sys2Proof.Machine.execSSlt d a b s
  | .sSltu d a b => Sys2Proof.Machine.execSSltu d a b s
  | .sSeq d a b => Sys2Proof.Machine.execSSeq d a b s
  | .sClz d a => Sys2Proof.Machine.execSClz d a s
  | .sPopc d a => Sys2Proof.Machine.execSPopc d a s
  | .sAddi d a imm => Sys2Proof.Machine.execSAddi d a imm s
  | .sAndi d a imm => Sys2Proof.Machine.execSAndi d a imm s
  | .sOri d a imm => Sys2Proof.Machine.execSOri d a imm s
  | .sXori d a imm => Sys2Proof.Machine.execSXori d a imm s
  | .sShli d a imm => Sys2Proof.Machine.execSShli d a imm s
  | .sShri d a imm => Sys2Proof.Machine.execSShri d a imm s
  | .sSari d a imm => Sys2Proof.Machine.execSSari d a imm s
  | .sSlti d a imm => Sys2Proof.Machine.execSSlti d a imm s
  | .sLui d imm => Sys2Proof.Machine.execSLui d imm s
  | .sAupc d imm => Sys2Proof.Machine.execSAupc d imm s
  | .sLd d a la w size imm => Sys2Proof.Machine.execSLd d a la w size imm s
  | .sLdu d a la w size imm => Sys2Proof.Machine.execSLdu d a la w size imm s
  | .sSt d a w size imm => Sys2Proof.Machine.execSSt d a w size imm s
  | .sAtomAdd d a b order => Sys2Proof.Machine.execSAtomAdd d a b order s
  | .sAtomAnd d a b order => Sys2Proof.Machine.execSAtomAnd d a b order s
  | .sAtomOr d a b order => Sys2Proof.Machine.execSAtomOr d a b order s
  | .sAtomXor d a b order => Sys2Proof.Machine.execSAtomXor d a b order s
  | .sAtomMin d a b order => Sys2Proof.Machine.execSAtomMin d a b order s
  | .sAtomMax d a b order => Sys2Proof.Machine.execSAtomMax d a b order s
  | .sAtomMinu d a b order => Sys2Proof.Machine.execSAtomMinu d a b order s
  | .sAtomMaxu d a b order => Sys2Proof.Machine.execSAtomMaxu d a b order s
  | .sAtomSwap d a b order => Sys2Proof.Machine.execSAtomSwap d a b order s
  | .sAtomCas d a order => Sys2Proof.Machine.execSAtomCas d a order s
  | .sAtomLd d a order => Sys2Proof.Machine.execSAtomLd d a order s
  | .sAtomSt a b order => Sys2Proof.Machine.execSAtomSt a b order s
  | .br off => Sys2Proof.Machine.execBr off s
  | .call off => Sys2Proof.Machine.execCall off s
  | .brz c off => Sys2Proof.Machine.execBrz c off s
  | .brnz c off => Sys2Proof.Machine.execBrnz c off s
  | .brp p test off => Sys2Proof.Machine.execBrp p test off s
  | .brd p off => Sys2Proof.Machine.execBrd p off s
  | .recv off => Sys2Proof.Machine.execRecv off s
  | .loop c off => Sys2Proof.Machine.execLoop c off s
  | .callr a => Sys2Proof.Machine.execCallr a s
  | .jmpr a => Sys2Proof.Machine.execJmpr a s
  | .ret => Sys2Proof.Machine.execRet s
  | .ppush a => Sys2Proof.Machine.execPpush a s
  | .pinv => Sys2Proof.Machine.execPinv s
  | .ppop => Sys2Proof.Machine.execPpop s
  | .pstkGet d => Sys2Proof.Machine.execPstkGet d s
  | .vAdd d a b => Sys2Proof.Machine.execVAdd d a b s
  | .vSub d a b => Sys2Proof.Machine.execVSub d a b s
  | .vMul d a b => Sys2Proof.Machine.execVMul d a b s
  | .vMulh d a b => Sys2Proof.Machine.execVMulh d a b s
  | .vFma d a b => Sys2Proof.Machine.execVFma d a b s
  | .vFms d a b => Sys2Proof.Machine.execVFms d a b s
  | .vFnma d a b => Sys2Proof.Machine.execVFnma d a b s
  | .vMin d a b => Sys2Proof.Machine.execVMin d a b s
  | .vMax d a b => Sys2Proof.Machine.execVMax d a b s
  | .vAbs d a => Sys2Proof.Machine.execVAbs d a s
  | .vNeg d a => Sys2Proof.Machine.execVNeg d a s
  | .vDot2 d a b => Sys2Proof.Machine.execVDot2 d a b s
  | .vMov d a => Sys2Proof.Machine.execVMov d a s
  | .vAnd d a b => Sys2Proof.Machine.execVAnd d a b s
  | .vOr d a b => Sys2Proof.Machine.execVOr d a b s
  | .vXor d a b => Sys2Proof.Machine.execVXor d a b s
  | .vNot d a => Sys2Proof.Machine.execVNot d a s
  | .vShl d a b => Sys2Proof.Machine.execVShl d a b s
  | .vShr d a b => Sys2Proof.Machine.execVShr d a b s
  | .vSar d a b => Sys2Proof.Machine.execVSar d a b s
  | .vRotl d a b => Sys2Proof.Machine.execVRotl d a b s
  | .vSel d a b => Sys2Proof.Machine.execVSel d a b s
  | .vClz d a => Sys2Proof.Machine.execVClz d a s
  | .vPopc d a => Sys2Proof.Machine.execVPopc d a s
  | .vCmpEq d a b => Sys2Proof.Machine.execVCmpEq d a b s
  | .vCmpNe d a b => Sys2Proof.Machine.execVCmpNe d a b s
  | .vCmpLt d a b => Sys2Proof.Machine.execVCmpLt d a b s
  | .vCmpLe d a b => Sys2Proof.Machine.execVCmpLe d a b s
  | .vCmpGt d a b => Sys2Proof.Machine.execVCmpGt d a b s
  | .vCmpGe d a b => Sys2Proof.Machine.execVCmpGe d a b s
  | .vCmpLtu d a b => Sys2Proof.Machine.execVCmpLtu d a b s
  | .vCmpLeu d a b => Sys2Proof.Machine.execVCmpLeu d a b s
  | .vCmpGtu d a b => Sys2Proof.Machine.execVCmpGtu d a b s
  | .vCmpGeu d a b => Sys2Proof.Machine.execVCmpGeu d a b s
  | .vCmpUn d a b => Sys2Proof.Machine.execVCmpUn d a b s
  | .vCmpOrd d a b => Sys2Proof.Machine.execVCmpOrd d a b s
  | .vRcp d a => Sys2Proof.Machine.execVRcp d a s
  | .vRsq d a => Sys2Proof.Machine.execVRsq d a s
  | .vSqrt d a => Sys2Proof.Machine.execVSqrt d a s
  | .vExp2 d a => Sys2Proof.Machine.execVExp2 d a s
  | .vLog2 d a => Sys2Proof.Machine.execVLog2 d a s
  | .vRred d a => Sys2Proof.Machine.execVRred d a s
  | .vSinr d a => Sys2Proof.Machine.execVSinr d a s
  | .vCosr d a => Sys2Proof.Machine.execVCosr d a s
  | .vCvt d a rnd target => Sys2Proof.Machine.execVCvt d a rnd target s
  | .vPack d a rnd target => Sys2Proof.Machine.execVPack d a rnd target s
  | .vUnpk d a half => Sys2Proof.Machine.execVUnpk d a half s
  | .vPermXor d a b => Sys2Proof.Machine.execVPermXor d a b s
  | .vPermRot d a b => Sys2Proof.Machine.execVPermRot d a b s
  | .vPermBc d a b => Sys2Proof.Machine.execVPermBc d a b s
  | .vPermIdx d a b => Sys2Proof.Machine.execVPermIdx d a b s
  | .vBcast d a => Sys2Proof.Machine.execVBcast d a s
  | .vLaneid d sel => Sys2Proof.Machine.execVLaneid d sel s
  | .vRed d a op => Sys2Proof.Machine.execVRed d a op s
  | .vScan d a op => Sys2Proof.Machine.execVScan d a op s
  | .vVtos d a => Sys2Proof.Machine.execVVtos d a s
  | .vBallot d a b => Sys2Proof.Machine.execVBallot d a b s
  | .vAddi d a imm => Sys2Proof.Machine.execVAddi d a imm s
  | .vMovi d imm => Sys2Proof.Machine.execVMovi d imm s
  | .predAnd d a b => Sys2Proof.Machine.execPredAnd d a b s
  | .predOr d a b => Sys2Proof.Machine.execPredOr d a b s
  | .predXor d a b => Sys2Proof.Machine.execPredXor d a b s
  | .predAndn d a b => Sys2Proof.Machine.execPredAndn d a b s
  | .predNot d a => Sys2Proof.Machine.execPredNot d a s
  | .predMov d a => Sys2Proof.Machine.execPredMov d a s
  | .predSet d => Sys2Proof.Machine.execPredSet d s
  | .predClr d => Sys2Proof.Machine.execPredClr d s
  | .predAny d a => Sys2Proof.Machine.execPredAny d a s
  | .predAll d a => Sys2Proof.Machine.execPredAll d a s
  | .predCount d a => Sys2Proof.Machine.execPredCount d a s
  | .predFroms d a => Sys2Proof.Machine.execPredFroms d a s
  | .vLd d a b la size => Sys2Proof.Machine.execVLd d a b la size s
  | .vLdu d a b la size => Sys2Proof.Machine.execVLdu d a b la size s
  | .vSt d a b size => Sys2Proof.Machine.execVSt d a b size s
  | .vLdx d a b la size => Sys2Proof.Machine.execVLdx d a b la size s
  | .vStx d a b size => Sys2Proof.Machine.execVStx d a b size s
  | .vAtomAdd d a b order => Sys2Proof.Machine.execVAtomAdd d a b order s
  | .vAtomAnd d a b order => Sys2Proof.Machine.execVAtomAnd d a b order s
  | .vAtomOr d a b order => Sys2Proof.Machine.execVAtomOr d a b order s
  | .vAtomXor d a b order => Sys2Proof.Machine.execVAtomXor d a b order s
  | .vAtomMin d a b order => Sys2Proof.Machine.execVAtomMin d a b order s
  | .vAtomMax d a b order => Sys2Proof.Machine.execVAtomMax d a b order s
  | .vAtomMinu d a b order => Sys2Proof.Machine.execVAtomMinu d a b order s
  | .vAtomMaxu d a b order => Sys2Proof.Machine.execVAtomMaxu d a b order s
  | .vAtomSwap d a b order => Sys2Proof.Machine.execVAtomSwap d a b order s
  | .vAtomCas d a b order => Sys2Proof.Machine.execVAtomCas d a b order s
  | .vAtomAddf d a b order => Sys2Proof.Machine.execVAtomAddf d a b order s
  | .vAtomAddbf d a b order => Sys2Proof.Machine.execVAtomAddbf d a b order s
  | .vAtomLd d a b order => Sys2Proof.Machine.execVAtomLd d a b order s
  | .vAtomSt d a b order => Sys2Proof.Machine.execVAtomSt d a b order s
  | .pLd g a b lay la w => Sys2Proof.Machine.execPLd g a b lay la w s
  | .pSt g a b lay w => Sys2Proof.Machine.execPSt g a b lay w s
  | .pShift gd gs axis b imm => Sys2Proof.Machine.execPShift gd gs axis b imm s
  | .pRot gd gs axis b imm => Sys2Proof.Machine.execPRot gd gs axis b imm s
  | .pSpread gd gs axis b imm => Sys2Proof.Machine.execPSpread gd gs axis b imm s
  | .pFoldAdd gd gs axis => Sys2Proof.Machine.execPFoldAdd gd gs axis s
  | .pFoldMax gd gs axis => Sys2Proof.Machine.execPFoldMax gd gs axis s
  | .pFoldMin gd gs axis => Sys2Proof.Machine.execPFoldMin gd gs axis s
  | .pFoldStack gd gs axis => Sys2Proof.Machine.execPFoldStack gd gs axis s
  | .pRefold gd gs => Sys2Proof.Machine.execPRefold gd gs s
  | .pGset gd b => Sys2Proof.Machine.execPGset gd b s
  | .pGget gs b => Sys2Proof.Machine.execPGget gs b s
  | .lWr a b => Sys2Proof.Machine.execLWr a b s
  | .lRdt d => Sys2Proof.Machine.execLRdt d s
  | .lRd d => Sys2Proof.Machine.execLRd d s
  | .lClr => Sys2Proof.Machine.execLClr s
  | .fence => Sys2Proof.Machine.execFence s
  | .fenceAcq => Sys2Proof.Machine.execFenceAcq s
  | .fenceRel => Sys2Proof.Machine.execFenceRel s
  | .barInit a b => Sys2Proof.Machine.execBarInit a b s
  | .barArrive d a => Sys2Proof.Machine.execBarArrive d a s
  | .barExpect a b => Sys2Proof.Machine.execBarExpect a b s
  | .barWait a b => Sys2Proof.Machine.execBarWait a b s
  | .wait path a => Sys2Proof.Machine.execWait path a s
  | .qfence a => Sys2Proof.Machine.execQfence a s
  | .walksync => Sys2Proof.Machine.execWalksync s
  | .scWb a b => Sys2Proof.Machine.execScWb a b s
  | .scDrop a b => Sys2Proof.Machine.execScDrop a b s
  | .cpy a b => Sys2Proof.Machine.execCpy a b s
  | .chain a => Sys2Proof.Machine.execChain a s
  | .mxMma t sl a b acc gang ta tb => Sys2Proof.Machine.execMxMma t sl a b acc gang ta tb s
  | .mxKmma t sl a b acc gang hi => Sys2Proof.Machine.execMxKmma t sl a b acc gang hi s
  | .mxZero t => Sys2Proof.Machine.execMxZero t s
  | .mxAccrd t a b => Sys2Proof.Machine.execMxAccrd t a b s
  | .mxAccwr t a b => Sys2Proof.Machine.execMxAccwr t a b s
  | .mxFence a => Sys2Proof.Machine.execMxFence a s
  | .mxWait a => Sys2Proof.Machine.execMxWait a s
  | .mxSave a => Sys2Proof.Machine.execMxSave a s
  | .mxResume a => Sys2Proof.Machine.execMxResume a s
  | .mxStreamOpen a b => Sys2Proof.Machine.execMxStreamOpen a b s
  | .mxSub a b => Sys2Proof.Machine.execMxSub a b s
  | .mxSetgang a => Sys2Proof.Machine.execMxSetgang a s
  | .tblKbuild t sl a => Sys2Proof.Machine.execTblKbuild t sl a s
  | .tblKinv t => Sys2Proof.Machine.execTblKinv t s
  | .tblKdetach t => Sys2Proof.Machine.execTblKdetach t s
  | .tblKtest t a => Sys2Proof.Machine.execTblKtest t a s
  | .reservedEncoding w => Sys2Proof.Machine.execReservedEncoding w s
  | .windowClose team => Sys2Proof.Machine.execWindowClose team s
  | .transientExpire team => Sys2Proof.Machine.execTransientExpire team s
  | .resultReady team n => Sys2Proof.Machine.execResultReady team n s
  | .loadReturn team op => Sys2Proof.Machine.execLoadReturn team op s
  | .storeRegister team op word => Sys2Proof.Machine.execStoreRegister team op word s
  | .trapEntry team frag => Sys2Proof.Machine.execTrapEntry team frag s
  | .issueSelect cluster => Sys2Proof.Machine.execIssueSelect cluster s
  | .teamBoost team => Sys2Proof.Machine.execTeamBoost team s
  | .yieldExpire team => Sys2Proof.Machine.execYieldExpire team s
  | .unitPowerDown cluster core u => Sys2Proof.Machine.execUnitPowerDown cluster core u s
  | .unitWake cluster core u => Sys2Proof.Machine.execUnitWake cluster core u s
  | .clockLevelChange cluster => Sys2Proof.Machine.execClockLevelChange cluster s
  | .shutterStep cluster => Sys2Proof.Machine.execShutterStep cluster s
  | .engineReady team q => Sys2Proof.Machine.execEngineReady team q s
  | .engineOpStart team q => Sys2Proof.Machine.execEngineOpStart team q s
  | .tileFetch team q va => Sys2Proof.Machine.execTileFetch team q va s
  | .engineOpComplete team q => Sys2Proof.Machine.execEngineOpComplete team q s
  | .copyOpStart team q => Sys2Proof.Machine.execCopyOpStart team q s
  | .copyComplete team q => Sys2Proof.Machine.execCopyComplete team q s
  | .copyCredit team q => Sys2Proof.Machine.execCopyCredit team q s
  | .chainComplete team => Sys2Proof.Machine.execChainComplete team s
  | .barWaitComplete team => Sys2Proof.Machine.execBarWaitComplete team s
  | .remoteBarrierPoll team => Sys2Proof.Machine.execRemoteBarrierPoll team s
  | .waitComplete team => Sys2Proof.Machine.execWaitComplete team s
  | .mxWaitComplete team => Sys2Proof.Machine.execMxWaitComplete team s
  | .fenceAcqComplete team => Sys2Proof.Machine.execFenceAcqComplete team s
  | .gangRendezvous team => Sys2Proof.Machine.execGangRendezvous team s
  | .streamTileFetch cluster stream => Sys2Proof.Machine.execStreamTileFetch cluster stream s
  | .pageWalk core asid va leaf => Sys2Proof.Machine.execPageWalk core asid va leaf s
  | .scratchMapFill team offset => Sys2Proof.Machine.execScratchMapFill team offset s
  | .prqdoneWrite vi seq res => Sys2Proof.Machine.execPrqdoneWrite vi seq res s
  | .tlbiRange vi asid va len => Sys2Proof.Machine.execTlbiRange vi asid va len s
  | .tlbiAsid vi asid => Sys2Proof.Machine.execTlbiAsid vi asid s
  | .tlbiInterface vi => Sys2Proof.Machine.execTlbiInterface vi s
  | .tlbiComplete vi => Sys2Proof.Machine.execTlbiComplete vi s
  | .recordTake q => Sys2Proof.Machine.execRecordTake q s
  | .launchDistribute launch => Sys2Proof.Machine.execLaunchDistribute launch s
  | .placeAdmit launch areas => Sys2Proof.Machine.execPlaceAdmit launch areas s
  | .teamResident team => Sys2Proof.Machine.execTeamResident team s
  | .clusterPreempt team => Sys2Proof.Machine.execClusterPreempt team s
  | .teamPark team step => Sys2Proof.Machine.execTeamPark team step s
  | .drainExpire cluster => Sys2Proof.Machine.execDrainExpire cluster s
  | .forcedSave team step => Sys2Proof.Machine.execForcedSave team step s
  | .teamUnpark team core => Sys2Proof.Machine.execTeamUnpark team core s
  | .teamRetire team => Sys2Proof.Machine.execTeamRetire team s
  | .gridComplete launch => Sys2Proof.Machine.execGridComplete launch s
  | .placeMigrate launch place cluster areas => Sys2Proof.Machine.execPlaceMigrate launch place cluster areas s
  | .queueCfgReload q => Sys2Proof.Machine.execQueueCfgReload q s
  | .checkerMismatch site => Sys2Proof.Machine.execCheckerMismatch site s
  | .eccError place => Sys2Proof.Machine.execEccError place s
  | .schedulerIllegalState cluster => Sys2Proof.Machine.execSchedulerIllegalState cluster s
  | .schedulerRebuildDone cluster => Sys2Proof.Machine.execSchedulerRebuildDone cluster s
  | .portLaneFail port => Sys2Proof.Machine.execPortLaneFail port s
  | .portRetrainDone port => Sys2Proof.Machine.execPortRetrainDone port s
  | .remoteRequest req => Sys2Proof.Machine.execRemoteRequest req s
  | .remoteResponse id ans => Sys2Proof.Machine.execRemoteResponse id ans s
  | .remoteTimeout id => Sys2Proof.Machine.execRemoteTimeout id s
  | .memberWrite n mask => Sys2Proof.Machine.execMemberWrite n mask s
  | .memberClearApply dev => Sys2Proof.Machine.execMemberClearApply dev s
  | .shelfFrame frame => Sys2Proof.Machine.execShelfFrame frame s
  | .frameLoss => Sys2Proof.Machine.execFrameLoss s
  | .capUpdate => Sys2Proof.Machine.execCapUpdate s
  | .shedForceSave team step => Sys2Proof.Machine.execShedForceSave team step s
  | .classRestore cls => Sys2Proof.Machine.execClassRestore cls s
  | .hostCxlMemAccess acc => Sys2Proof.Machine.execHostCxlMemAccess acc s
  | .hostCxlCacheSnoop line kind => Sys2Proof.Machine.execHostCxlCacheSnoop line kind s
  | .powerOn => Sys2Proof.Machine.execPowerOn s
  | .hostResetAssert => Sys2Proof.Machine.execHostResetAssert s
  | .powerRemove => Sys2Proof.Machine.execPowerRemove s
  | .vfFlr vi => Sys2Proof.Machine.execVfFlr vi s
  | .victlWrite vi val => Sys2Proof.Machine.execVictlWrite vi val s
  | .viperfWrite vi val => Sys2Proof.Machine.execViperfWrite vi val s
  | .registerWrite reg val => Sys2Proof.Machine.execRegisterWrite reg val s
  | .mbLoad => Sys2Proof.Machine.execMbLoad s
  | .mbExtend => Sys2Proof.Machine.execMbExtend s
  | .mbQuote => Sys2Proof.Machine.execMbQuote s
  | .mbIdkey => Sys2Proof.Machine.execMbIdkey s
  | .mbShutdown => Sys2Proof.Machine.execMbShutdown s
  | .objectLoad req => Sys2Proof.Machine.execObjectLoad req s
  | .objectUnload asid handle => Sys2Proof.Machine.execObjectUnload asid handle s
  | .textCompaction handle base tables => Sys2Proof.Machine.execTextCompaction handle base tables s
  | .retranslationSwap handle req => Sys2Proof.Machine.execRetranslationSwap handle req s
  | .loaderSweep handle => Sys2Proof.Machine.execLoaderSweep handle s
  | .icinvComplete team => Sys2Proof.Machine.execIcinvComplete team s
  | .walksyncComplete team => Sys2Proof.Machine.execWalksyncComplete team s
  | .teamDiscard team => Sys2Proof.Machine.execTeamDiscard team s

end Sys2Proof.Machine
end

