-- ==== Sys2Proof/Machine/Step.lean ====
section
/-! DEFINITION. One step: the plan for it (Fetch.lean), carried out. -/

namespace Sys2Proof.Machine

/-- One step of the package. -/
def step (s : State) : Host.Outcome State Fault Refusal :=
  match s.plan with
  | .go s' => .next s'
  | .run i s' => exec i s'

/-- The state with an instruction stored where the step fetches its next one. -/
def State.withFetchWord (s : State) (nbits w : Nat) : State := s.withWord nbits w

end Sys2Proof.Machine
end

