-- ==== Sys2Proof/Safety.lean ====
section
/-! DEFINITION. The terms in which claims are stated: when an instruction can issue, where its issue leaves the
machine, what it leaves as it was, and what the rules of the spec say of values, written apart from the meanings. -/

namespace Sys2Proof.Machine

/-! Invariants. -/

/-- Memory is in its canonical form. -/
abbrev State.Canonical (s : State) : Prop := Memory.wf s.mem = true

/-! The issue of an instruction. -/

/-- An instruction can issue in the next issue slot: `c` is the state without the slot with the team and the running
fragment that it names; the team may name the operands (R92), no result that they wait for is outstanding (R52), and the
lane datapath is free if the instruction needs it (R149). -/
def Ready (s : State) (c : Ctx) (i : Instr) : Prop :=
  s.ctx? = some c ∧ c.t.operandsOk (Instr.operands c.t i) = true ∧
    c.s.interlocked c.t i (Instr.operands c.t i) = false ∧
    c.s.laneTaken c.t c.f ((encode i).getD 0) = false

/-- The state after an instruction that went on with the next one: `s'` and `t'` are the state and team with its effect,
`time` tells when its results are ready. -/
def Ctx.after (c : Ctx) (i : Instr) (time : Time) (s' : State) (t' : Team) : State :=
  ((Effect.next s' t').marked (Instr.operands c.t i) time c).finish c.s c.t c.fi ((encode i).getD 0)

/-- The state after an instruction of one front cycle that moved its fragment to a target; `d` is the link depth at its
issue. -/
def Ctx.moved (c : Ctx) (s' : State) (t' : Team) (d : Nat) (target : DWord) : State :=
  s'.setTeam (t'.transfer c.fi d target)

/-- The state after a trap of the issuing fragment. -/
def Ctx.trapped (c : Ctx) (s' : State) (t' : Team) (cause : BitVec 8) (tinfo : DWord) (kind : TrapKind) : State :=
  s'.setTeam (t'.takeTrap c.fi cause tinfo kind)

/-- The PC at which a fragment goes on after an instruction that transfers no control (R133). -/
def Team.nextPc (t : Team) (fi : Nat) : DWord := addr57 (t.advancePc 5 (t.frag fi).pc).2

/-- Whether a fragment that comes to a PC has come to the fuse address of its level (R37). -/
abbrev Team.Arrives (t : Team) (fi : Nat) (pc : DWord) : Prop :=
  (t.frag fi).path ≠ [] ∧ t.ctl.fuse.getD ((t.frag fi).level - 1) none = some pc

/-- A team that has moved past an instruction: all of the team with the instruction's effect is kept, but for the PC of
the fragment (and its mark of a replay), the loop stack, the count of issues, the mark of a stall, and which results are
not ready. -/
structure MovedOn (t : Team) (fi : Nat) (u : Team) : Prop where
  id       : u.id = t.id
  const    : u.const = t.const
  sched    : u.sched = t.sched
  regs     : u.regs = t.regs
  sys      : u.sys = t.sys
  rep      : u.rep = t.rep
  eng      : u.eng = t.eng
  maps     : u.maps = t.maps
  ctl      : u.ctl = { t.ctl with frags := u.ctl.frags, loop := u.ctl.loop }
  others   : ∀ k, k ≠ fi → u.frag k = t.frag k
  frag     : u.frag fi = { t.frag fi with pc := t.nextPc fi, replay := false }
  iss      : u.iss = { t.iss with busy := u.iss.busy, issued := u.iss.issued, stalled := u.iss.stalled, charge := none, begun := none }
  counted  : u.iss.issued = t.iss.issued + 1
  unstalled : u.iss.stalled = none

/-- Everything of a state but its clusters and the team of an id is kept. -/
structure SameBut (id : Nat) (s n : State) : Prop where
  others : ∀ k, k ≠ id → n.team? k = s.team? k
  rest   : n = { s with teams := n.teams, clusters := n.clusters }

/-- Everything of a state but its clusters, the team of an id and that team's requests to other members is kept. -/
structure SameButRequests (id : Nat) (s n : State) : Prop where
  others : ∀ k, k ≠ id → n.team? k = s.team? k
  reqs   : ∀ r, r.team ≠ id → (r ∈ n.pod.reqs ↔ r ∈ s.pod.reqs)
  rest   : n = { s with teams := n.teams, clusters := n.clusters, pod := { s.pod with reqs := n.pod.reqs } }

/-- The lane, predicate, plane, loupe, tile and mode registers of a team are as they were. -/
def SameLanes (t u : Team) : Prop :=
  u.regs.v = t.regs.v ∧ u.regs.p = t.regs.p ∧ u.regs.g = t.regs.g ∧ u.regs.loupe = t.regs.loupe ∧ u.regs.c = t.regs.c ∧
    u.regs.mode = t.regs.mode ∧ u.regs.gang = t.regs.gang ∧ u.regs.srSeed = t.regs.srSeed ∧ u.regs.sr = t.regs.sr


/-- The flags, trap registers and the rest of the system registers are as they were. -/
def SameSys (t u : Team) : Prop := u.sys = t.sys

/-- What every instruction that goes on with the next one keeps, but for the registers and flags that it writes: the
team stays what it is, the fragment goes on at the PC that follows, the other fragments stay where they are, the
control state, queues, log, tables and maps stay, what is in flight stays, no other team and no byte of memory
changes. -/
structure Onward (c : Ctx) (n : State) (u : Team) : Prop where
  here    : n.team? c.t.id = some u
  const   : u.const = c.t.const
  sched   : u.sched = c.t.sched
  rep     : u.rep = c.t.rep
  eng     : u.eng = c.t.eng
  maps    : u.maps = c.t.maps
  ctl     : u.ctl = { c.t.ctl with frags := u.ctl.frags, loop := u.ctl.loop }
  frag    : u.frag c.fi = { c.t.frag c.fi with pc := c.t.nextPc c.fi, replay := false }
  others  : ∀ k, k ≠ c.fi → u.frag k = c.t.frag k
  counted : u.iss.issued = c.t.iss.issued + 1
  iss     : u.iss = { c.t.iss with busy := u.iss.busy, issued := u.iss.issued, stalled := u.iss.stalled, bypass := u.iss.bypass,
                                   charge := none, begun := none }
  state   : SameBut c.t.id c.s n
  mem     : ∀ a, n.mem.byte a = c.s.mem.byte a

/-- An instruction whose one result is a scalar register: S[d] holds x (S0 keeps reading zero, R27); every other
register, every flag and special register, and all of memory are as they were. -/
def ScalarOnly (c : Ctx) (d : Nat) (x : DWord) (n : State) : Prop :=
  ∃ u, Onward c n u ∧ u.readS d = (if d = 0 then 0 else x) ∧ (∀ k, k ≠ d → u.readS k = c.t.readS k) ∧
    SameLanes c.t u ∧ SameSys c.t u ∧ u.iss.bypass = c.t.iss.bypass

/-- An instruction that writes no register: all registers, flags and memory are as they were. -/
def NothingWritten (c : Ctx) (n : State) : Prop :=
  ∃ u, Onward c n u ∧ u.regs = c.t.regs ∧ SameSys c.t u ∧ u.iss.bypass = c.t.iss.bypass

/-- An instruction that goes on with the next one and leaves the team as t' before that. -/
def GoneOn (c : Ctx) (t' : Team) (n : State) : Prop :=
  ∃ u, n.team? c.t.id = some u ∧ MovedOn t' c.fi u ∧ SameBut c.t.id c.s n ∧ ∀ a, n.mem.byte a = c.s.mem.byte a

/-! What the rules say of scalar results (R114, R116 to R119). -/

/-- The number of zero bits above the highest one bit of a; 64 when a = 0. -/
def leadingZeros (a : DWord) : Nat := 64 - ((List.range 65).find? fun k => decide (a.toNat < 2 ^ k)).getD 64

/-- The number of one bits in a. -/
def oneBits (a : DWord) : Nat := ((List.range 64).map fun k => (a.getLsbD k).toNat).sum

/-- The quotient of the division table (R117). -/
def quotient (a b : DWord) : DWord :=
  if b = 0 then 0xFFFFFFFFFFFFFFFF
  else if a.toInt = -2 ^ 63 ∧ b.toInt = -1 then 0x8000000000000000
  else BitVec.ofInt 64 (a.toInt.tdiv b.toInt)

/-- The remainder of the division table: a - q · b. -/
def remainder (a b : DWord) : DWord :=
  if b = 0 then a
  else if a.toInt = -2 ^ 63 ∧ b.toInt = -1 then 0
  else BitVec.ofInt 64 (a.toInt - a.toInt.tdiv b.toInt * b.toInt)

/-- The result of a scalar function: the register, its value, and the front cycles after which it is ready. a and b
are the sources taken as unsigned, sa and sb as signed. -/
def scalarResult (c : Ctx) (i : Instr) : Option (Nat × DWord × Nat) :=
  let r := fun (n : BitVec 7) => c.t.readS n.toNat
  let u := fun (n : BitVec 7) => (r n).toNat
  let z := fun (n : BitVec 7) => (r n).toInt
  let nat := fun (d : BitVec 7) (x n : Nat) => some (d.toNat, BitVec.ofNat 64 x, n)
  let int := fun (d : BitVec 7) (x : Int) (n : Nat) => some (d.toNat, BitVec.ofInt 64 x, n)
  let word := fun (d : BitVec 7) (x : DWord) (n : Nat) => some (d.toNat, x, n)
  match i with
  | .sAdd d a b => nat d (u a + u b) 1
  | .sSub d a b => int d ((u a : Int) - u b) 1
  | .sMul d a b => nat d (u a * u b) 4
  | .sMulh d a b => int d (z a * z b / 2 ^ 64) 4
  | .sMulhu d a b => nat d (u a * u b / 2 ^ 64) 4
  | .sDiv d a b => word d (quotient (r a) (r b)) 36
  | .sDivu d a b => word d (if r b = 0 then 0xFFFFFFFFFFFFFFFF else BitVec.ofNat 64 (u a / u b)) 36
  | .sRem d a b => word d (remainder (r a) (r b)) 36
  | .sRemu d a b => word d (if r b = 0 then r a else BitVec.ofNat 64 (u a - u a / u b * u b)) 36
  | .sAnd d a b => word d (r a &&& r b) 1
  | .sOr d a b => word d (r a ||| r b) 1
  | .sXor d a b => word d (r a ^^^ r b) 1
  | .sShl d a b => nat d (u a * 2 ^ (u b % 64)) 1
  | .sShr d a b => nat d (u a / 2 ^ (u b % 64)) 1
  | .sSar d a b => int d (z a / 2 ^ (u b % 64)) 1
  | .sMin d a b => word d (if z a ≤ z b then r a else r b) 1
  | .sMax d a b => word d (if z a ≤ z b then r b else r a) 1
  | .sMinu d a b => word d (if u a ≤ u b then r a else r b) 1
  | .sMaxu d a b => word d (if u a ≤ u b then r b else r a) 1
  | .sSlt d a b => word d (if z a < z b then 1 else 0) 1
  | .sSltu d a b => word d (if u a < u b then 1 else 0) 1
  | .sSeq d a b => word d (if r a = r b then 1 else 0) 1
  | .sClz d a => nat d (leadingZeros (r a)) 1
  | .sPopc d a => nat d (oneBits (r a)) 1
  | .sAddi d a imm => int d ((u a : Int) + imm.toInt) 1
  | .sAndi d a imm => word d (r a &&& imm.signExtend 64) 1
  | .sOri d a imm => word d (r a ||| imm.signExtend 64) 1
  | .sXori d a imm => word d (r a ^^^ imm.signExtend 64) 1
  | .sShli d a imm => nat d (u a * 2 ^ imm.toNat) 1
  | .sShri d a imm => nat d (u a / 2 ^ imm.toNat) 1
  | .sSari d a imm => int d (z a / 2 ^ imm.toNat) 1
  | .sSlti d a imm => word d (if z a < imm.toInt then 1 else 0) 1
  | .sLui d imm => some (d.toNat, BitVec.ofInt 64 (imm.toInt * 4096), 1)
  | .sAupc d imm => some (d.toNat, BitVec.ofInt 64 ((c.pc.toNat : Int) + imm.toInt * 4096), 1)
  | .vers d => word d 0x0103 1
  | .modeGet d => word d (c.t.mode.setWidth 64) 1
  | .pstkGet d => nat d c.f.depth 1
  | .cycles d => nat d ((c.s.clusters[c.t.sched.cluster]?).elim 0 fun k => k.lane2 / 2) 2
  | _ => none

/-! What the rules say of transfers of control (R127 to R136). -/

/-- PC + 4 · offset, as an address of 57 bits. -/
def pcPlus (pc : DWord) (words : Int) : DWord := BitVec.ofInt 64 (((pc.toNat : Int) + 4 * words) % 2 ^ 57)

/-- The branches that push and pop nothing: whether one is taken, and where to. -/
def branch (c : Ctx) : Instr → Option (Bool × DWord)
  | .br off => some (true, pcPlus c.pc off.toInt)
  | .brz r off => some (decide (c.t.readS r.toNat = 0), pcPlus c.pc off.toInt)
  | .brnz r off => some (decide (c.t.readS r.toNat ≠ 0), pcPlus c.pc off.toInt)
  | .brp p test off =>
    let q := fun (l : Nat) => c.f.mask.getLsbD l && (c.t.stackTop c.f).getLsbD l
    let b := fun (l : Nat) => (c.t.readP p.toNat).getLsbD l
    some (match test with
      | .any => (List.range 1024).any fun l => q l && b l
      | .all => (List.range 1024).all fun l => !q l || b l
      | .none => (List.range 1024).all fun l => !q l || !b l
      | .notall => (List.range 1024).any fun l => q l && !b l, pcPlus c.pc off.toInt)
  | .jmpr a => if (c.t.readS a.toNat).toNat % 4 = 0 then some (true, addr57 (c.t.readS a.toNat)) else none
  | _ => none

/-- The loop entries that a taken transfer to a target leaves in force (R133), where d is the link depth at its issue: outside trap
mode the innermost ones at depth d whose bodies do not hold the target go. -/
def loopsLeft (tm : Bool) (loop : List LoopEntry) (d : Nat) (target : DWord) : List LoopEntry :=
  if tm then loop
  else loop.dropWhile fun e =>
    e.linkDepth == d && !(decide (e.first.toNat ≤ target.toNat) && decide (target.toNat ≤ e.last.toNat))

/-- The loop entries that a return to link depth d leaves (R133): outside trap mode every entry deeper than d goes, with those inside
it. -/
def loopsKept (tm : Bool) (loop : List LoopEntry) (d : Nat) : List LoopEntry :=
  if tm then loop else loop.rtakeWhile fun e => decide (e.linkDepth ≤ d)

/-- A team that has gone to a target with loop stack l: but for that, the fragment's PC, the count of issues and the mark of
a stall it is t', the team with the effect of the instruction. -/
structure GoneTo (c : Ctx) (s' : State) (t' : Team) (target : DWord) (l : List LoopEntry) (n : State) (u : Team) : Prop where
  here    : n.team? c.t.id = some u
  frag    : u.frag c.fi = { c.t.frag c.fi with pc := target, replay := false }
  others  : ∀ k, k ≠ c.fi → u.frag k = t'.frag k
  ctl     : u.ctl = { t'.ctl with frags := u.ctl.frags, loop := u.ctl.loop }
  loop    : u.ctl.loop = l
  rest    : u = { t' with ctl := u.ctl, iss := u.iss }
  iss     : u.iss = { t'.iss with issued := t'.iss.issued + 1, stalled := none, charge := none, begun := none }
  state   : SameBut c.t.id s' n
  mem     : ∀ a, n.mem.byte a = s'.mem.byte a

/-! What the rules say of system registers (R39 to R41, R139). -/

/-- The bits lo to hi - 1 of a value, where they stand. -/
def bitsOf (x : DWord) (lo hi : Nat) : DWord := BitVec.ofNat 64 (x.toNat % 2 ^ hi / 2 ^ lo * 2 ^ lo)

/-- What SYSR reads from a register: none where R39 gives none. -/
def sysValue (c : Ctx) (n : Nat) : Option DWord :=
  let k := c.t.const
  let h := c.t.sched
  let fields := fun (xs : List (Nat × Nat)) => some (BitVec.ofNat 64 (xs.map fun x => x.2 * 2 ^ x.1).sum)
  match n with
  | 0 => some c.t.sys.tvec
  | 1 => some c.t.sys.tcause
  | 2 => some c.t.sys.tpc
  | 3 => some c.t.sys.tinfo
  | 4 => some c.t.sys.tflags
  | 5 => some c.t.sys.regpc
  | 6 => some c.t.sys.lsp
  | 7 => fields [(0, k.asid.toNat)]
  | 8 => fields [(32, k.serial.toNat), (0, (((k.z * k.ey + k.y) * k.ex + k.x) * k.nrole + k.role) % 2 ^ 32)]
  | 9 => fields [(32, k.z), (16, k.y), (0, k.x)]
  | 10 => fields [(12, k.n), (4, k.h), (2, k.nrole - 1), (0, k.role)]
  | 11 => fields [(32, k.ez), (16, k.ey), (0, k.ex)]
  | 12 => some k.argp
  | 13 => fields [(0, (c.s.clusters[h.cluster]?).elim 0 fun x => x.cyclef)]
  | 14 => some c.t.sys.seed
  | 15 => fields [(4, h.pclass), (0, h.prio)]
  | 16 => fields [(16, h.slot), (8, h.cluster), (0, h.core)]
  | 17 => some 0x00020103
  | _ => if n < 32 then some (c.t.sys.gp.get n) else none

/-- The team after SYSW of x to a register: none where R39 allows no write. -/
def sysWritten (t : Team) (n : Nat) (x : DWord) : Option Team :=
  match n with
  | 0 => some { t with sys.tvec := bitsOf x 6 57 }
  | 1 => some { t with sys.tcause := bitsOf x 0 9 + bitsOf t.sys.tcause 9 10 }
  | 2 => some { t with sys.tpc := bitsOf x 2 57 }
  | 3 => some { t with sys.tinfo := x }
  | 4 => some { t with sys.tflags := bitsOf x 0 8 }
  | 6 => some { t with sys.lsp := bitsOf x 3 57 }
  | 14 => some { t with sys.seed := x, regs.srSeed := x.setWidth 32, regs.sr := [] }
  | _ => if 18 ≤ n ∧ n ≤ 31 then some { t with sys.gp := t.sys.gp.set n x } else none

/-- Whether a MODE value holds nothing reserved (R32). -/
abbrev modeAllowed (m : Word) : Prop := m.toNat < 2 ^ 22 ∧ m.toNat / 2 ^ 8 % 8 ≤ 4 ∧ m.toNat / 2 ^ 4 % 16 ≤ 12

/-! What the rules say of traps (R259 to R262) and of reserved words (R97 to R99). -/

/-- Whether a trap restarts at the region entry: a region-precise cause, or a precise one while a transient value is live. -/
def restarts (t : Team) : TrapKind → Prop
  | .region => True
  | .precise _ => t.closeAll.transientLive = true
  | .resumable _ => False

/-- A team whose fragment has taken a trap: the windows have closed, the trap registers hold what R262 gives, the fragment
is at TVEC + 64 · cause, and all else is as it was. -/
structure TookTrap (t : Team) (fi : Nat) (cause : BitVec 8) (tinfo : DWord) (kind : TrapKind) (u : Team) : Prop where
  restart : restarts t kind → u.sys.tcause = BitVec.ofNat 64 (512 + 256 + cause.toNat) ∧
    u.sys.tpc = (if t.rep.kentry then t.const.entry else t.sys.regpc) ∧
    u.sys.tinfo = (if t.rep.kentry then tinfo ||| (1 <<< 63) else tinfo)
  direct  : ¬ restarts t kind → u.sys.tcause = BitVec.ofNat 64 (512 + cause.toNat) ∧ u.sys.tinfo = tinfo ∧
    (∀ p, kind = .precise p ∨ kind = .resumable p → u.sys.tpc = p)
  frag    : u.frag fi = { t.frag fi with pc := addr57 (t.sys.tvec + BitVec.ofNat 64 (64 * cause.toNat)) }
  others  : ∀ k, k ≠ fi → u.frag k = t.frag k
  ctl     : u.ctl = { t.ctl with frags := u.ctl.frags }
  sys     : u.sys = { t.sys with tcause := u.sys.tcause, tpc := u.sys.tpc, tinfo := u.sys.tinfo }
  regs    : u.regs = t.closeAll.regs
  windows : u.iss.windows = t.closeAll.iss.windows ∧ ((∀ w ∈ t.iss.windows, w.waits = []) → u.iss.windows = [])
  held    : u.iss.trapFrag = some fi ∧ u.iss.withheld = none
  iss     : u.iss = { t.iss with bypass := t.closeAll.iss.bypass, windows := u.iss.windows, trapFrag := some fi, withheld := none,
                                 charge := none, begun := none }
  rest    : u = { t with regs := u.regs, sys := u.sys, ctl := u.ctl, iss := u.iss }

/-- A team stopped by a second trap (R261): the first trap's registers stand, the second's are in the double-trap record. -/
structure DoubleTrapped (t : Team) (fi : Nat) (cause : BitVec 8) (tinfo : DWord) (kind : TrapKind) (u : Team) : Prop where
  stopped : u.sched = { t.sched with life := .stopped }
  restart : restarts t kind → u.iss.dtrap = ⟨cause, (t.frag fi).pc, (if t.rep.kentry then tinfo ||| (1 <<< 63) else tinfo), false⟩
  direct  : ¬ restarts t kind → u.iss.dtrap = ⟨cause, (t.frag fi).pc, tinfo, false⟩
  sys     : u.sys = t.sys
  ctl     : u.ctl = t.ctl
  regs    : u.regs = t.closeAll.regs

/-- A trap of the issuing fragment, in or outside trap mode, of a team that is t at the trap. Requests to other members that the
instruction had sent are abandoned. -/
def Trapped (c : Ctx) (t : Team) (cause : BitVec 8) (tinfo : DWord) (kind : TrapKind) (n : State) : Prop :=
  ∃ u, n.team? c.t.id = some u ∧ SameButRequests c.t.id c.s n ∧ (∀ a, n.mem.byte a = c.s.mem.byte a) ∧
    (t.tm = false → TookTrap t c.fi cause tinfo kind u) ∧ (t.tm = true → DoubleTrapped t c.fi cause tinfo kind u)

/-- The fate of a reserved encoding (use 0) or reserved use (use 1): a precise trap 0x01 with the word in TINFO; under probe
mode a NOP that sets probe-hit, and for a gang-flagged word an arrival at the latch with no operation (R100). -/
structure Refused (c : Ctx) (word : Word) (use_ : Nat) (n : State) : Prop where
  trap  : c.t.mode.getLsbD 21 = false →
    Trapped c c.t 0x01 (BitVec.ofNat 64 (word.toNat + use_ * 2 ^ 32)) (.precise c.pc) n
  probe : c.t.mode.getLsbD 21 = true → gangWord word = false → ¬ c.t.Arrives c.fi (c.t.nextPc c.fi) →
    ∃ u, Onward c n u ∧ u.regs = c.t.regs ∧ u.sys = { c.t.sys with tflags := c.t.sys.tflags ||| 32 } ∧
      u.iss.bypass = c.t.iss.bypass
  latch : c.t.mode.getLsbD 21 = true → gangWord word = true →
    n.team? c.t.id = some { c.t with iss.withheld := some (c.fi, .gang word false [] []), iss.stalled := none, iss.charge := none,
                                        iss.begun := none } ∧ SameBut c.t.id c.s n

/-! What the rules say of lanes (R18, R146). -/

/-- Guard(l): the lane is present, active in the fragment, its stack top is one and the guard predicate is one. -/
def guarded (c : Ctx) (l : Nat) : Bool :=
  decide (l < 32 * c.t.const.h) && c.f.mask.getLsbD l && (c.t.stackTop c.f).getLsbD l &&
    (c.t.readP (c.t.mode.toNat % 16)).getLsbD l

/-- The guarded lanes in ascending order. -/
def guardedLanes (c : Ctx) : List Nat := (List.range 1024).filter (guarded c)

/-- An instruction whose one result is the value f l in the guarded lanes of V[d]: every other lane and register, every flag
and all of memory are as they were. A result for V127 is transient (R26): it holds f l in the guarded lanes and zero
elsewhere, and no register changes. -/
def LaneOnly (c : Ctx) (d : Nat) (f : Nat → Word) (n : State) : Prop :=
  ∃ u, Onward c n u ∧ SameSys c.t u ∧ u.regs = { c.t.regs with v := u.regs.v } ∧
    (∀ r l, r < 127 → l < 1024 → u.readV r l = if r = d ∧ guarded c l = true then f l else c.t.readV r l) ∧
    (d ≠ 127 → u.iss.bypass = c.t.iss.bypass) ∧
    (d = 127 → ∃ x, u.iss.bypass = x :: c.t.iss.bypass ∧ x.producer = c.t.iss.issued ∧
      ∀ l, l < 1024 → x.lanes.get l = if guarded c l = true then f l else 0)

/-- An instruction that writes k registers from V[d] on in the guarded lanes, and may raise flags and step the generators of
stochastic rounding: nothing else changes. -/
def LaneWrites (c : Ctx) (d k : Nat) (n : State) (u : Team) : Prop :=
  Onward c n u ∧ (∃ fl, u.sys = { c.t.sys with tflags := c.t.sys.tflags ||| fl }) ∧
    u.regs = { c.t.regs with v := u.regs.v, sr := u.regs.sr } ∧
    (∀ r l, r < 127 → l < 1024 → ¬ (d ≤ r ∧ r < d + k ∧ guarded c l = true) → u.readV r l = c.t.readV r l) ∧
    (d ≠ 127 → u.iss.bypass = c.t.iss.bypass)

/-- An instruction whose one result is the predicate bit f l in the guarded lanes of P[d]; P0 stays (R28). -/
def PredicateOnly (c : Ctx) (d : Nat) (f : Nat → Bool) (n : State) : Prop :=
  ∃ u, Onward c n u ∧ SameSys c.t u ∧ u.regs = { c.t.regs with p := u.regs.p } ∧ u.iss.bypass = c.t.iss.bypass ∧
    ∀ r l, l < 1024 → (u.readP r).getLsbD l =
      if r = d ∧ d ≠ 0 ∧ guarded c l = true then f l else (c.t.readP r).getLsbD l

/-! Type-free lane results (R154, R158, R167, R169, R180). -/

/-- The result of a type-free lane instruction: the register, the value of each lane, the unit's time. -/
def laneResult (c : Ctx) (i : Instr) : Option (Nat × (Nat → Word) × Time) :=
  let v := fun (n : BitVec 7) (l : Nat) => c.t.readV n.toNat l
  let k := fun (n : BitVec 7) => (c.t.readS n.toNat).toNat
  let from_ := fun (a : BitVec 7) (col : Nat → Nat) (l : Nat) => if col l < 32 then v a (l / 32 * 32 + col l) else 0
  let alu : Time := .lane .lanes 1 2
  let move : Time := .lane .movement 2 2
  match i with
  | .vMov d a => some (d.toNat, fun l => v a l, alu)
  | .vAnd d a b => some (d.toNat, fun l => v a l &&& v b l, alu)
  | .vOr d a b => some (d.toNat, fun l => v a l ||| v b l, alu)
  | .vXor d a b => some (d.toNat, fun l => v a l ^^^ v b l, alu)
  | .vNot d a => some (d.toNat, fun l => ~~~ v a l, alu)
  | .vSel d a b => some (d.toNat, fun l => if (c.t.readP (c.t.mode.toNat / 2 ^ 17 % 16)).getLsbD l then v a l else v b l, alu)
  | .vMovi d imm => some (d.toNat, fun _ => BitVec.ofInt 32 imm.toInt, alu)
  | .vBcast d a => some (d.toNat, fun _ => BitVec.ofNat 32 (k a), alu)
  | .vLaneid d .linear => some (d.toNat, fun l => BitVec.ofNat 32 l, alu)
  | .vLaneid d .column => some (d.toNat, fun l => BitVec.ofNat 32 (l % 32), alu)
  | .vLaneid d .group => some (d.toNat, fun l => BitVec.ofNat 32 (l / 32), alu)
  | .vLaneid d .virtualLinear => some (d.toNat, fun l => BitVec.ofNat 32 ((List.range l).filter (guarded c)).length, alu)
  | .vPermXor d a b => some (d.toNat, from_ a fun l => (l % 32) ^^^ k b, move)
  | .vPermRot d a b => some (d.toNat, from_ a fun l => if k b < 32 then (l % 32 + k b) % 32 else 32, move)
  | .vPermBc d a b => some (d.toNat, from_ a fun _ => k b, move)
  | .vPermIdx d a b => some (d.toNat, from_ a fun l => (v b l).toNat % 32, move)
  | .lRdt d => some (d.toNat, fun l => c.t.regs.loupe.get (32 * (l % 32) + l / 32), move)
  | .lRd d => some (d.toNat, fun l => c.t.regs.loupe.get l, .lane .movement 1 2)
  | _ => none

/-! Elements (R53, R60, R148). -/

/-- Element e of a register word under a type. -/
def elemBits (t : ElemType) (w : Word) (e : Nat) : Nat := w.toNat / 2 ^ (t.width * e) % 2 ^ t.width

/-- An integer type's value of an element. -/
def elemInt (t : ElemType) (x : Nat) : Int := if t.signed = true ∧ 2 ^ (t.width - 1) ≤ x then (x : Int) - 2 ^ t.width else x

/-- An exact integer result as an element: wrapped modulo 2^w, or under SAT held to the type's range first. -/
def narrowed (t : ElemType) (sat : Bool) (x : Int) : Nat :=
  let lo : Int := if t.signed then -2 ^ (t.width - 1) else 0
  let hi : Int := if t.signed then 2 ^ (t.width - 1) - 1 else 2 ^ t.width - 1
  ((if sat then max lo (min hi x) else x) % 2 ^ t.width).toNat

/-- An element-wise instruction under an integer type: its destination and the result of an element from the elements a, b and d,
taken as bits. -/
def intElement (c : Ctx) (i : Instr) : Option (BitVec 7 × BitVec 7 × BitVec 7 × (Nat → Nat → Nat → Nat)) :=
  let t := c.t.et
  let w := t.width
  let sat := c.t.mode.getLsbD 12
  let z := elemInt t
  match i with
  | .vAdd d a b => some (d, a, b, fun x y _ => narrowed t sat (z x + z y))
  | .vSub d a b => some (d, a, b, fun x y _ => narrowed t sat (z x - z y))
  | .vMul d a b => some (d, a, b, fun x y _ => narrowed t sat (z x * z y))
  | .vMulh d a b => some (d, a, b, fun x y _ => narrowed t false (z x * z y / 2 ^ w))
  | .vFma d a b => some (d, a, b, fun x y o => narrowed t sat (z x * z y + z o))
  | .vFms d a b => some (d, a, b, fun x y o => narrowed t sat (z x * z y - z o))
  | .vFnma d a b => some (d, a, b, fun x y o => narrowed t sat (z o - z x * z y))
  | .vMin d a b => some (d, a, b, fun x y _ => if z x ≤ z y then x else y)
  | .vMax d a b => some (d, a, b, fun x y _ => if z x ≤ z y then y else x)
  | .vAbs d a => some (d, a, a, fun x _ _ => narrowed t sat |z x|)
  | .vNeg d a => some (d, a, a, fun x _ _ => narrowed t sat (0 - z x))
  | .vAddi d a imm => some (d, a, a, fun x _ _ =>
      narrowed t sat (z x + if w = 32 then imm.toInt else elemInt t (imm.toInt % 2 ^ w).toNat))
  | _ => none

/-- The functions on bit patterns, under any type 0 to 8 (R154, R155). -/
def bitElement (c : Ctx) (i : Instr) : Option (BitVec 7 × BitVec 7 × BitVec 7 × (Nat → Nat → Nat)) :=
  let w := c.t.et.width
  match i with
  | .vShl d a b => some (d, a, b, fun x y => x * 2 ^ (y % w) % 2 ^ w)
  | .vShr d a b => some (d, a, b, fun x y => x / 2 ^ (y % w))
  | .vSar d a b => some (d, a, b, fun x y => (((if 2 ^ (w - 1) ≤ x then (x : Int) - 2 ^ w else x) / 2 ^ (y % w)) % 2 ^ w).toNat)
  | .vRotl d a b => some (d, a, b, fun x y => (x * 2 ^ (y % w) + x * 2 ^ (y % w) / 2 ^ w) % 2 ^ w)
  | .vClz d a => some (d, a, a, fun x _ => w - ((List.range (w + 1)).find? fun k => decide (x < 2 ^ k)).getD w)
  | .vPopc d a => some (d, a, a, fun x _ => ((List.range w).filter fun k => decide (x / 2 ^ k % 2 = 1)).length)
  | _ => none

/-! Floating values (R54, R61). -/

/-- The rational that a finite value is. -/
def ratOf : FVal → ℚ
  | .fin neg m e => (if neg then -1 else 1) * (m : ℚ) * 2 ^ e
  | _ => 0

/-- Whether a bit pattern of a format is finite. -/
def finitePattern (f : Fmt) (x : Nat) : Bool := match f.decode x with | .fin _ _ _ => true | _ => false

/-- The rational of a finite pattern. -/
def patternRat (f : Fmt) (x : Nat) : ℚ := ratOf (f.decode x)

/-- A finite result r of a format is the exact value x rounded by a mode (R61): no finite value of the format is nearer (RNE; on a
tie the last fraction bit is even), or none lies nearer on the side that the mode takes (RTZ, RDN, RUP); under SR none lies
between r and x. -/
def RoundedTo (f : Fmt) (rm : RoundMode) (x : ℚ) (r : Nat) : Prop :=
  let v := patternRat f r
  ∀ k, k < 2 ^ f.w → finitePattern f k = true →
    let y := patternRat f k
    match rm with
    | .rne => |v - x| ≤ |y - x| ∧ (|v - x| = |y - x| → y ≠ v → r % 2 = 0)
    | .rtz => |v| ≤ |x| ∧ 0 ≤ v * x ∧ (0 ≤ y * x → |y| ≤ |x| → |y| ≤ |v|)
    | .rdn => v ≤ x ∧ (y ≤ x → y ≤ v)
    | .rup => x ≤ v ∧ (x ≤ y → v ≤ y)
    | .sr => (v ≤ x → y ≤ x → y ≤ v) ∧ (x ≤ v → x ≤ y → v ≤ y)

/-- The word that an instruction has put into a lane of V[d], for V127 into its transient result. -/
def written (d : Nat) (u : Team) (l : Nat) : Word :=
  if d = 127 then (u.iss.bypass.head?.elim 0 fun x => x.lanes.get l) else u.readV d l

/-- The exact value of a floating element-wise instruction: its destination, the registers of its three operands (the last is
read by the fused functions only), and the value from the rationals of their elements. -/
def exactFloat : Instr → Option (BitVec 7 × BitVec 7 × BitVec 7 × BitVec 7 × (ℚ → ℚ → ℚ → ℚ))
  | .vAdd d a b => some (d, a, b, a, fun x y _ => x + y)
  | .vSub d a b => some (d, a, b, a, fun x y _ => x - y)
  | .vMul d a b => some (d, a, b, a, fun x y _ => x * y)
  | .vFma d a b => some (d, a, b, d, fun x y z => x * y + z)
  | .vFms d a b => some (d, a, b, d, fun x y z => x * y - z)
  | .vFnma d a b => some (d, a, b, d, fun x y z => z - x * y)
  | _ => none

/-- The lane instructions whose results depend on the element type (R147, R152, R155, R157, R159 to R166, R170): whether the type
admits them, the first register written, how many, and the time. -/
def typedLane (c : Ctx) (i : Instr) : Option (Bool × Nat × Nat × Time) :=
  let t := c.t.et
  let code := t.code.toNat
  let plain := decide (code ≤ 8)
  let int := decide (code ≤ 5)
  let float := plain && !int
  let alu : Time := .lane .lanes 1 2
  let mul : Time := .lane .lanes 1 4
  let sfu : Time := .lane .special 4 6
  let dst := fun (target : ConvTarget) => if code ≤ 10 then c.t.convTarget target else none
  let one := fun (b : Bool) (d : BitVec 7) (time : Time) => some (b, d.toNat, 1, time)
  match i with
  | .vAdd d _ _ | .vSub d _ _ | .vMin d _ _ | .vMax d _ _ | .vAbs d _ | .vNeg d _ | .vShl d _ _ | .vShr d _ _ | .vSar d _ _
  | .vRotl d _ _ | .vClz d _ | .vPopc d _ => one plain d alu
  | .vMul d _ _ | .vFma d _ _ | .vFms d _ _ | .vFnma d _ _ | .vDot2 d _ _ => one plain d mul
  | .vMulh d _ _ => one int d mul
  | .vAddi d _ _ => one int d alu
  | .vRcp d _ | .vRsq d _ | .vSqrt d _ | .vExp2 d _ | .vLog2 d _ => one float d sfu
  | .vRred d _ => some (t == .fp32, d.toNat, 2, sfu)
  | .vSinr d _ | .vCosr d _ => one (t == .fp32) d sfu
  | .vCvt d _ _ target => some ((dst target).isSome, d.toNat, ((dst target).elim 1 fun x => max 1 (t.per * x.width / 32)), sfu)
  | .vPack d _ _ target => one ((dst target).any fun x => decide (t.per * x.width < 32)) d sfu
  | .vUnpk d _ _ => one (t.width == 16 || t.width == 8 && t != .bx8) d sfu
  | .vScan d _ _ => one plain d (.lane .lanes 2 12)
  | _ => none

/-! Results of lanes in scalar registers (R169 to R171). -/

/-- The scalar result of a lane instruction. -/
def laneToScalar (c : Ctx) (i : Instr) : Option (BitVec 7 × DWord) :=
  let p := fun (n : BitVec 7) (l : Nat) => (c.t.readP n.toNat).getLsbD l
  let some1 := fun (d : BitVec 7) (b : Bool) => some (d, if b then (1 : DWord) else 0)
  match i with
  | .vVtos d a => some (d, match guardedLanes c with | [] => 0 | l :: _ => (c.t.readV a.toNat l).setWidth 64)
  | .vBallot d a b =>
    let g := (c.t.readS b.toNat).toNat
    some (d, BitVec.ofNat 64 (((List.range 32).map fun x =>
      if g < c.t.const.h ∧ guarded c (32 * g + x) = true ∧ p a (32 * g + x) = true then 2 ^ x else 0).sum))
  | .predAny d a => some1 d ((guardedLanes c).any (p a))
  | .predAll d a => some1 d ((guardedLanes c).all (p a))
  | .predCount d a => some (d, BitVec.ofNat 64 ((guardedLanes c).filter (p a)).length)
  | _ => none

/-- The predicate result of an instruction: its register and the bit of each lane (R171). -/
def predResult (c : Ctx) (i : Instr) : Option (BitVec 7 × (Nat → Bool)) :=
  let p := fun (n : BitVec 7) (l : Nat) => (c.t.readP n.toNat).getLsbD l
  match i with
  | .predAnd d a b => some (d, fun l => p a l && p b l)
  | .predOr d a b => some (d, fun l => p a l || p b l)
  | .predXor d a b => some (d, fun l => p a l != p b l)
  | .predAndn d a b => some (d, fun l => p a l && !p b l)
  | .predNot d a => some (d, fun l => !p a l)
  | .predMov d a => some (d, fun l => p a l)
  | .predSet d => some (d, fun _ => true)
  | .predClr d => some (d, fun _ => false)
  | .predFroms d a => some (d, fun l => (c.t.readS a.toNat).getLsbD (l % 64))
  | _ => none

/-- Whether a pattern of a floating type is a NaN (R54). -/
def elemNan (t : ElemType) (x : Nat) : Bool := match t.fmt with | some f => f.decode x == .nan | none => false

/-- The comparisons (R156): whether the type admits the instruction, its registers, and the relation of two elements. Under FTZ a
subnormal element counts as zero (R58); a comparison with a NaN holds for NE and UN alone. -/
def relation (t : ElemType) (ftz : Bool) (i : Instr) : Option (Bool × BitVec 7 × BitVec 7 × BitVec 7 × (Nat → Nat → Bool)) :=
  let int := decide (t.code.toNat ≤ 5)
  let plain := decide (t.code.toNat ≤ 8)
  let rat : Nat → ℚ := fun x => match t.fmt with
    | some f => if ftz && decide (x / 2 ^ f.fb % 2 ^ f.eb = 0) then 0 else patternRat f x
    | none => (elemInt t x : ℚ)
  let inf : Nat → Int := fun x => match t.fmt with
    | some f => (match f.decode x with | .inf neg => if neg then (-1 : Int) else (1 : Int) | _ => (0 : Int))
    | none => (0 : Int)
  let nan := fun (x y : Nat) => elemNan t x || elemNan t y
  let lt := fun (x y : Nat) => decide (inf x < inf y) || (inf x == 0 && inf y == 0 && decide (rat x < rat y))
  let eq := fun (x y : Nat) => inf x == inf y && (inf x != 0 || decide (rat x = rat y))
  match i with
  | .vCmpEq d a b => some (plain, d, a, b, fun x y => !nan x y && eq x y)
  | .vCmpNe d a b => some (plain, d, a, b, fun x y => nan x y || !eq x y)
  | .vCmpLt d a b => some (plain, d, a, b, fun x y => !nan x y && lt x y)
  | .vCmpLe d a b => some (plain, d, a, b, fun x y => !nan x y && (lt x y || eq x y))
  | .vCmpGt d a b => some (plain, d, a, b, fun x y => !nan x y && lt y x)
  | .vCmpGe d a b => some (plain, d, a, b, fun x y => !nan x y && (lt y x || eq x y))
  | .vCmpLtu d a b => some (int, d, a, b, fun x y => decide (x < y))
  | .vCmpLeu d a b => some (int, d, a, b, fun x y => decide (x ≤ y))
  | .vCmpGtu d a b => some (int, d, a, b, fun x y => decide (y < x))
  | .vCmpGeu d a b => some (int, d, a, b, fun x y => decide (y ≤ x))
  | .vCmpUn d a b => some (plain && !int, d, a, b, nan)
  | .vCmpOrd d a b => some (plain && !int, d, a, b, fun x y => !nan x y)
  | _ => none

/-! Reductions (R72, R73, R170). -/

/-- The elements of V[a] in the guarded lanes among the first n positions, where element e of lane l is position p·l + e. -/
def guardedElems (c : Ctx) (a n : Nat) : List Nat :=
  let p := c.t.et.per
  ((List.range n).filter fun k => guarded c (k / p)).map fun k => elemBits c.t.et (c.t.readV a (k / p)) (k % p)

/-- The combination of elements for the operations whose grouping makes no difference: the bitwise ones under any type, and the
others under an integer type, a sum without SAT. -/
def combined (t : ElemType) (sat : Bool) (op : RedOp) (xs : List Nat) : Option Nat :=
  let int := decide (t.code.toNat ≤ 5)
  let lo : Int := if t.signed then -2 ^ (t.width - 1) else 0
  let hi : Int := if t.signed then 2 ^ (t.width - 1) - 1 else 2 ^ t.width - 1
  match op with
  | .and => some (xs.foldl (· &&& ·) (2 ^ t.width - 1))
  | .or => some (xs.foldl (· ||| ·) 0)
  | .xor => some (xs.foldl (· ^^^ ·) 0)
  | .add => if int && !sat then some (narrowed t false ((xs.map (elemInt t)).sum)) else none
  | .min => if int then some (narrowed t false ((xs.map (elemInt t)).foldl min hi)) else none
  | .max => if int then some (narrowed t false ((xs.map (elemInt t)).foldl max lo)) else none

/-! Planes (R77 to R85, R174 to R178). -/

/-- An instruction went on with the next one, with the effect that the state s' and the team t' hold. -/
def Completes (c : Ctx) (i : Instr) (s : State) (time : Time) (s' : State) (t' : Team) : Prop :=
  exec i s = .next (c.after i time s' t')

/-- Src(o, r, k) by an edge policy (R84). -/
def srcOf (c : Ctx) (q : Plane) (edge o : Nat) (r k : Int) : Nat :=
  let el := fun (r k : Int) => c.t.planeElem q o r.toNat k.toNat
  if 0 ≤ r ∧ r < q.rows ∧ 0 ≤ k ∧ k < q.cols then el r k
  else match edge with
    | 1 => el (r % q.rows) (k % q.cols)
    | 2 => el (max 0 (min r (q.rows - 1))) (max 0 (min k (q.cols - 1)))
    | 3 => (c.t.readS q.fills).toNat % 2 ^ q.w
    | _ => 0

/-- Source position along the folded axis for destination index i, for the near and the far element (R176): x is the source's
extent. -/
def nearAt (ax : Axis) (x i : Nat) : Int := match ax with | .e | .s => i | .w | .n => (i : Int) + x - (x + 1) / 2
def farAt (ax : Axis) (x i : Nat) : Int := match ax with | .e | .s => (i : Int) + (x + 1) / 2 | .w | .n => (i : Int) + x - 2 * ((x + 1) / 2)

/-- A plane instruction that moves or folds: its descriptors, whether they agree (R174), and the value of each destination
element where the rules give it as a function of the source elements: for folds of integers, and for all movements. -/
def planeMove (c : Ctx) (i : Instr) : Option (BitVec 3 × BitVec 3 × (Plane → Plane → Bool) × (Plane → Plane → Nat → Nat → Nat → Option Nat)) :=
  let grid := fun (p q : Plane) => decide (p.code = q.code ∧ p.vh = q.vh ∧ p.vw = q.vw ∧ p.ky = q.ky ∧ p.kx = q.kx)
  let shape := fun (p q : Plane) => decide (p.code = q.code ∧ p.rank = q.rank ∧ p.rows = q.rows ∧ p.cols = q.cols ∧ p.x3 = q.x3 ∧ p.x4 = q.x4)
  let same := fun (p q : Plane) => grid p q && shape p q
  let cols := fun (ax : Axis) => match ax with | .e | .w => true | _ => false
  let half := fun (ax : Axis) (p q : Plane) =>
    if cols ax then decide (p.rows = q.rows ∧ p.cols = (q.cols + 1) / 2) else decide (p.cols = q.cols ∧ p.rows = (q.rows + 1) / 2)
  let dist := fun (b : BitVec 6) (imm : BitVec 8) => (c.t.readS b.toNat).toNat + imm.toNat
  let shift := fun (edge : Plane → Nat) (ax : Axis) (d : Nat) (_ q : Plane) (o r k : Nat) => some (match ax with
    | .e => srcOf c q (edge q) o r ((k : Int) - d)
    | .w => srcOf c q (edge q) o r ((k : Int) + d)
    | .s => srcOf c q (edge q) o ((r : Int) - d) k
    | .n => srcOf c q (edge q) o ((r : Int) + d) k)
  let fold := fun (comb : ElemType → Int → Int → Int) (ax : Axis) (p q : Plane) (o r k : Nat) =>
    let x := if cols ax then q.cols else q.rows
    let i := if cols ax then k else r
    let el := fun (y : Int) => if cols ax then c.t.planeElem q o r y.toNat else c.t.planeElem q o y.toNat k
    let far := farAt ax x i
    if 0 ≤ far ∧ far < x then
      if p.code ≤ 5 then some (narrowed p.et (c.t.mode.getLsbD 12) (comb p.et (elemInt p.et (el (nearAt ax x i))) (elemInt p.et (el far)))) else none
    else some (el (nearAt ax x i))
  match i with
  | .pShift gd gs ax b imm => some (gd, gs, same, shift (·.edge) ax (dist b imm))
  | .pRot gd gs ax b imm => some (gd, gs, same, shift (fun _ => 1) ax (dist b imm))
  | .pSpread gd gs ax b imm => some (gd, gs, same, fun _ q o r k => some (match ax with
    | .e => srcOf c q q.edge o r (dist b imm)
    | .w => srcOf c q q.edge o r ((q.cols : Int) - 1 - dist b imm)
    | .s => srcOf c q q.edge o (dist b imm) k
    | .n => srcOf c q q.edge o ((q.rows : Int) - 1 - dist b imm) k))
  | .pFoldAdd gd gs ax => some (gd, gs, fun p q => grid p q && half ax p q && decide (p.rank = q.rank ∧ p.x3 = q.x3 ∧ p.x4 = q.x4 ∧ p.code ≤ 8),
      fold (fun _ x y => x + y) ax)
  | .pFoldMax gd gs ax => some (gd, gs, fun p q => grid p q && half ax p q && decide (p.rank = q.rank ∧ p.x3 = q.x3 ∧ p.x4 = q.x4 ∧ p.code ≤ 8),
      fold (fun _ x y => max x y) ax)
  | .pFoldMin gd gs ax => some (gd, gs, fun p q => grid p q && half ax p q && decide (p.rank = q.rank ∧ p.x3 = q.x3 ∧ p.x4 = q.x4 ∧ p.code ≤ 8),
      fold (fun _ x y => min x y) ax)
  | .pFoldStack gd gs ax => some (gd, gs,
      fun p q => grid p q && half ax p q && decide (p.x4 = q.x4 ∧ p.rank = max q.rank 3 ∧ p.x3 = 2 * q.x3),
      fun _ q o r k =>
        let x := if cols ax then q.cols else q.rows
        let i := if cols ax then k else r
        let y := if o % (2 * q.x3) % 2 = 0 then nearAt ax x i else farAt ax x i
        let o' := o / (2 * q.x3) * q.x3 + o % (2 * q.x3) / 2
        some (if cols ax then srcOf c q q.edge o' r y else srcOf c q q.edge o' y k))
  | .pRefold gd gs => some (gd, gs, shape, fun _ q o r k => some (c.t.planeElem q o r k))
  | _ => none

/-- A team with a plane written: every element and phantom in a guarded lane has its value, where the rules give one (R82), and
every other register, lane and slot is as it was (R83). -/
structure PlaneWritten (c : Ctx) (p : Plane) (val : Nat → Nat → Nat → Option Nat) (t' : Team) : Prop where
  elements : ∀ o r k x, o < p.outer → r < p.rows → k < p.cols → guarded c (p.lane r k) = true → val o r k = some x →
    t'.planeElem p o r k = x
  phantoms : ∀ o r k, o < p.outer → r < p.fy * p.vh → k < p.fx * p.vw → p.rows ≤ r ∨ p.cols ≤ k → guarded c (p.lane r k) = true →
    t'.planeElem p o r k = if p.edge = 3 then (c.t.readS p.fills).toNat % 2 ^ p.w else 0
  others   : ∀ n l, n < 127 → l < 1024 → n < p.base ∨ p.base + p.regs ≤ n ∨ p.vh * p.vw ≤ l ∨ guarded c l = false →
    t'.readV n l = c.t.readV n l
  slots    : ∀ s l, l < 1024 → p.sheets ≤ s → s < p.regs * p.per →
    elem p.w (t'.readV (p.base + s / p.per) l) (s % p.per) = elem p.w (c.t.readV (p.base + s / p.per) l) (s % p.per)
  rest     : t' = { c.t with regs.v := t'.regs.v, sys := t'.sys, iss.busy := t'.iss.busy }
  flags    : ∃ fl, t'.sys = { c.t.sys with tflags := c.t.sys.tflags ||| fl }

/-! Memory accesses (R48, R121 to R125, R183 to R191). -/

/-- An instruction that stays unissued: of the team only the mark of the stall changes, what its selection charged, and the word
that it keeps for the next attempt. -/
def Stalled (c : Ctx) (why : Stall) (n : State) : Prop :=
  ∃ u, n.team? c.t.id = some u ∧ SameBut c.t.id c.s n ∧ (∀ a, n.mem.byte a = c.s.mem.byte a) ∧
    u = { c.t with iss := { c.t.iss with stalled := some why, charge := u.iss.charge, ahead := u.iss.ahead }, sched := { c.t.sched with waits := u.sched.waits, boosted := u.sched.boosted } }

/-- An effect that is performed and not taken from the log: the team is in trap mode, or every entry of its log is consumed and
there is room for one more (R48, R49). -/
abbrev Fresh (c : Ctx) : Prop := c.t.tm = true ∨ (c.t.rep.consumed = c.t.rep.log.length ∧ c.t.rep.log.length < 16)

/-- The log with the entry of an effect that returned some data: nothing is logged in trap mode, or of what is no effect. -/
def logged (c : Ctx) (effect : Bool) (data : List Byte) : Replay :=
  if effect && !c.t.tm then { c.t.rep with log := c.t.rep.log ++ [⟨c.pc, c.f.mask, data, false, 0, none⟩], consumed := c.t.rep.consumed + 1 }
  else c.t.rep

/-- The next log entry is that of the instruction at the PC (R48). -/
abbrev Replays (c : Ctx) (e : LogEntry) : Prop :=
  c.t.tm = false ∧ c.t.rep.log[c.t.rep.consumed]? = some e ∧ e.pc = c.pc ∧ e.failed = false

/-- A team whose effect has taken its results from the log. -/
def consumed (c : Ctx) : Team :=
  { c.t with ctl.frags := c.t.ctl.frags.map fun f => { f with replay := false }, rep.consumed := c.t.rep.consumed + 1 }

/-- An address that is resident, permitted and on this device: a word that the core's L1 may hold, or a byte of a scratch region
that maps nothing there. -/
def Landed (c : Ctx) (need : Need) (va pa : Nat) (cached : Bool) : Prop :=
  (cached = true ∧ c.s.xlate c.t (va % 2 ^ 57) need = .ok (.home pa)) ∨
    (cached = false ∧ ∃ id off, c.s.xlate c.t (va % 2 ^ 57) need = .ok (.scratch id off pa) ∧
      ∀ u, c.s.team? id = some u → u.mapOf off = none)

/-- No own store to a word of n bytes at pa is on its way. -/
abbrev NothingPending (c : Ctx) (pa n : Nat) : Prop := ∀ f ∈ c.t.iss.flights, ∀ b ∈ f.bytes, ∀ i, i < n → b.1 / 4 ≠ (pa + i) / 4

/-- No word of n bytes at pa is poisoned. -/
abbrev Unpoisoned (c : Ctx) (pa n : Nat) : Prop := ∀ i, i < n → (pa + i) / 4 * 4 ∉ c.s.ms.poison

/-- The byte that a load of a team sees (R244, R247): its own store on its way, else the L1's copy for a weak load, else the home's. -/
def seen (s : State) (t : Team) (strong cached : Bool) (pa : Nat) : Byte :=
  match t.pendingByte pa with
  | some b => b
  | none =>
    if strong || !cached then s.mem.byte pa
    else match s.ms.l1.find? fun w => w.core == t.coreId && w.dev == none && w.pa == pa / 4 * 4 with
      | some w => byteOf w.val (pa % 4)
      | none => s.mem.byte pa

/-- What one of several accesses of an instruction may see in a byte: what the team sees at the issue, or for a weak load that meets a
copy in the L1 the home's byte, where an earlier access of the instruction has taken the copy's room (R330). -/
def MaySee (s : State) (t : Team) (strong cached : Bool) (pa : Nat) (b : Byte) : Prop :=
  b = seen s t strong cached pa ∨ (strong = false ∧ t.pendingByte pa = none ∧ b = s.mem.byte pa)

/-- n bytes as they are seen, lowest address first. -/
def seenBytes (c : Ctx) (strong cached : Bool) (pa n : Nat) : List Byte := (List.range n).map fun i => seen c.s c.t strong cached (pa + i)

/-- The value of a load of bytes, least significant first: sign- or zero-extended. -/
def loadValue (signed : Bool) (bs : List Byte) : DWord :=
  let x : Nat := ofBytes bs
  let m := 8 * bs.length
  BitVec.ofInt 64 (if signed = true ∧ 2 ^ (m - 1) ≤ x then (x : Int) - 2 ^ m else x)

/-- The path of a load at an address; a store's is one higher (R123). -/
def pathOf (va : Nat) : Nat := if va / 2 ^ 48 % 512 = 0x1FF then 2 else 0

/-- A team that has issued a load with a window on some writes. -/
def Loading (c : Ctx) (la : BitVec 4) (ws : List WinWrite) (t' : Team) : Prop :=
  t'.iss.windows = (c.t.openWindow ⟨c.t.iss.issued, c.t.iss.issued + 1 + la.toNat, ws, [], c.t.rp⟩).iss.windows

/-- What an atomic does to a word of w bits (R125, R190), none where it leaves memory as it is. -/
def atomValue (op : AtomOp) (w : Nat) (old x y : Nat) : Option Nat :=
  let z := fun (v : Nat) => if 2 ^ (w - 1) ≤ v then (v : Int) - 2 ^ w else v
  match op with
  | .add => some ((old + x) % 2 ^ w)
  | .and => some (old &&& x)
  | .or => some (old ||| x)
  | .xor => some (old ^^^ x)
  | .min => some (if z old ≤ z x then old else x)
  | .max => some (if z old ≤ z x then x else old)
  | .minu => some (min old x)
  | .maxu => some (max old x)
  | .swap | .st => some x
  | .cas => if old = x then some y else none
  | .ld => none
  | .addf => some (fp32.round rne (sumProducts .rne [] [fp32.decode old, fp32.decode x]).1).1
  | .addbf =>
    let half := fun (o v : Nat) => (bf16.round rne (sumProducts .rne [] [bf16.decode o, bf16.decode v]).1).1
    some (half (old % 2 ^ 16) (x % 2 ^ 16) + 2 ^ 16 * half (old / 2 ^ 16) (x / 2 ^ 16))

/-- The scalar atomics: the operation, the register that takes the old value, the address, the operands, the order. -/
def scalarAtomic (c : Ctx) (i : Instr) : Option (AtomOp × Option (BitVec 7) × Nat × Nat × Nat × Order) :=
  let r := fun (n : BitVec 7) => (c.t.readS n.toNat).toNat
  let at_ := fun (a : BitVec 6) => (c.t.readS a.toNat).toNat
  match i with
  | .sAtomAdd d a b o => some (.add, some d, at_ a, r b, 0, o)
  | .sAtomAnd d a b o => some (.and, some d, at_ a, r b, 0, o)
  | .sAtomOr d a b o => some (.or, some d, at_ a, r b, 0, o)
  | .sAtomXor d a b o => some (.xor, some d, at_ a, r b, 0, o)
  | .sAtomMin d a b o => some (.min, some d, at_ a, r b, 0, o)
  | .sAtomMax d a b o => some (.max, some d, at_ a, r b, 0, o)
  | .sAtomMinu d a b o => some (.minu, some d, at_ a, r b, 0, o)
  | .sAtomMaxu d a b o => some (.maxu, some d, at_ a, r b, 0, o)
  | .sAtomSwap d a b o => some (.swap, some d, at_ a, r b, 0, o)
  | .sAtomCas d a o => some (.cas, some d, at_ a, r d, (c.t.readS (d.toNat + 1)).toNat, o)
  | .sAtomLd d a o => some (.ld, some d, at_ a, 0, 0, o)
  | .sAtomSt a b o => some (.st, none, at_ a, r b, 0, o)
  | _ => none

/-- The lane atomics that return old values: the operation, V[D], the registers of the address, the order. -/
def laneAtomic : Instr → Option (AtomOp × BitVec 7 × BitVec 6 × BitVec 7 × Order)
  | .vAtomAdd d a b o => some (.add, d, a, b, o)
  | .vAtomAnd d a b o => some (.and, d, a, b, o)
  | .vAtomOr d a b o => some (.or, d, a, b, o)
  | .vAtomXor d a b o => some (.xor, d, a, b, o)
  | .vAtomMin d a b o => some (.min, d, a, b, o)
  | .vAtomMax d a b o => some (.max, d, a, b, o)
  | .vAtomMinu d a b o => some (.minu, d, a, b, o)
  | .vAtomMaxu d a b o => some (.maxu, d, a, b, o)
  | .vAtomSwap d a b o => some (.swap, d, a, b, o)
  | .vAtomCas d a b o => some (.cas, d, a, b, o)
  | .vAtomAddf d a b o => some (.addf, d, a, b, o)
  | .vAtomAddbf d a b o => some (.addbf, d, a, b, o)
  | .vAtomLd d a b o => some (.ld, d, a, b, o)
  | _ => none

/-- The rights that an atomic needs: one that only loads needs no more than a load. -/
def atomRights (op : AtomOp) : Need := if op = .ld then needR else needRW

def releasing : Order → Bool | .rel | .ar => true | _ => false
def acquiring : Order → Bool | .acq | .ar => true | _ => false

/-- Byte k of a number of n bytes, least significant first. -/
def byteAt (x k : Nat) : Byte := BitVec.ofNat 8 (x / 2 ^ (8 * k))

/-- The value of n bytes of memory at pa. -/
def wordAt (m : Nat → Byte) (pa n : Nat) : Nat := ofBytes ((List.range n).map fun i => m (pa + i))

/-- Operations of n bytes at the places pa l of some lanes, in order, each seeing what the ones before it left (R190): memory after
them, and the old value of each lane. -/
def performed (op : AtomOp) (n : Nat) (pa x y : Nat → Nat) : List Nat → (Nat → Byte) → (Nat → Byte) × (Nat → Nat)
  | [], m => (m, fun _ => 0)
  | l :: r, m =>
    let old := wordAt m (pa l) n
    let m' := match atomValue op (8 * n) old (x l) (y l) with
      | some v => fun a => if pa l ≤ a ∧ a < pa l + n then byteAt v (a - pa l) else m a
      | none => m
    let rest := performed op n pa x y r m'
    (rest.1, fun k => if k = l then old else rest.2 k)

/-- The address of a lane access (R188): S[A] plus the lane's signed offset. -/
def laneAddr (c : Ctx) (a : BitVec 6) (b : BitVec 7) (l : Nat) : Nat :=
  (BitVec.ofInt 64 ((c.t.readS a.toNat).toInt + (c.t.readV b.toNat l).toInt)).toNat

/-- The state after an instruction that performed writes at the homes of its addresses: memory, what the caches hold, the tables that
watch it, and the answered requests of the instruction; no other team changes but for stale tables. -/
structure Performed (c : Ctx) (m : Nat → Byte) (acquire : Bool) (s' : State) : Prop where
  mem    : ∀ a, s'.mem.byte a = m a
  others : ∀ k u, k ≠ c.t.id → c.s.team? k = some u → ∃ v, s'.team? k = some v ∧ v = { u with eng.k := v.eng.k }
  l1     : acquire = true → ∀ w ∈ s'.ms.l1, w.core = c.t.coreId → w.own = true
  rest   : s' = { c.s with mem := s'.mem, ms := s'.ms, teams := s'.teams, pod.reqs := s'.pod.reqs, clusters := s'.clusters }
  ms     : s'.ms = { c.s.ms with owner := s'.ms.owner, poison := s'.ms.poison, l1 := s'.ms.l1, hostDirty := s'.ms.hostDirty }

/-- What stays in flight (R38): an operation leaves once it and every earlier one of its path have returned. -/
def leftInFlight (fs : List Flight) : List Flight :=
  (List.range fs.length).filterMap fun k =>
    (fs[k]?).filter fun f => (fs.take (k + 1)).any fun g => g.path == f.path && !g.done

/-- The team after a store of bytes at home (path 1) and in scratch regions (path 3) that began at an address: the bytes are in
flight, tables that watch them are stale, and a strong store is logged. -/
def storing (c : Ctx) (strong whole : Bool) (va : Nat) (home scr : List (Nat × Byte)) : Team :=
  let fl := fun (path : Nat) (bs : List (Nat × Byte)) =>
    if bs = [] then [] else [(⟨path, .store, strong, whole, bs, [], false, BitVec.ofNat 64 va, c.t.eng.next, none⟩ : Flight)]
  { c.t with
    iss.flights := leftInFlight (c.t.iss.flights ++ fl 1 home ++ fl 3 scr),
    eng.k := c.t.eng.k.map (staleTable (home ++ scr)), rep := logged c strong [] }

/-- The paths that loads of some addresses use; a store's are one higher. -/
def pathsOf (vas : List Nat) : List Nat :=
  (if vas.any fun v => pathOf v == 0 then [0] else []) ++ (if vas.any fun v => pathOf v == 2 then [2] else [])

/-- The address of element (o, r, k) of a plane of nr rows and nc columns of b bytes in a layout (R86). -/
def planeAddr (lay : Layout) (a : Nat) (q : Int) (b nr nc o r k : Nat) : Nat :=
  let rho := o * nr + r
  let swizzled := fun (n : Nat) => (rho : Int) * q + (16 * ((k * b / 16) ^^^ (rho % 2 ^ n)) + k * b % 16 : Nat)
  (((a : Int) + match lay with
    | .row => (rho : Int) * q + (k * b : Nat)
    | .col => ((o * nc + k : Nat) : Int) * q + (r * b : Nat)
    | .xor1 => swizzled 1
    | .xor2 => swizzled 2
    | .xor3 => swizzled 3
    | .xor4 => swizzled 4) % 2 ^ 64).toNat

/-- Whether base and pitch suit a layout (R87). -/
abbrev layoutFits (lay : Layout) (a : Nat) (q : Int) : Prop :=
  match lay with
  | .row | .col => True
  | .xor1 => a % 16 = 0 ∧ q % 32 = 0
  | .xor2 => a % 16 = 0 ∧ q % 64 = 0
  | .xor3 => a % 16 = 0 ∧ q % 128 = 0
  | .xor4 => a % 16 = 0 ∧ q % 256 = 0

/-- The elements of a plane in guarded lanes, ascending in (o, r, k). -/
def guardedElements (c : Ctx) (p : Plane) : List (Nat × Nat × Nat) :=
  ((List.range p.outer).flatMap fun o => (List.range p.rows).flatMap fun r => (List.range p.cols).map fun k => (o, r, k)).filter
    fun e => guarded c (p.lane e.2.1 e.2.2)

/-- The phantoms of a plane in guarded lanes, ascending. -/
def guardedPhantoms (c : Ctx) (p : Plane) : List (Nat × Nat × Nat) :=
  ((List.range p.outer).flatMap fun o => (List.range (p.fy * p.vh)).flatMap fun r => (List.range (p.fx * p.vw)).map fun k => (o, r, k)).filter
    fun e => (decide (p.rows ≤ e.2.1) || decide (p.cols ≤ e.2.2)) && guarded c (p.lane e.2.1 e.2.2)

/-! Fences, barriers, queues (R193 to R205, R211, R212). -/

/-- An instruction for which the team is withheld: it is kept as t', and an event completes the instruction. What the selection of
an instruction that has not issued charged is given back. -/
def Held (c : Ctx) (t' : Team) (why : Withheld) (n : State) : Prop :=
  ∃ u, n.team? c.t.id = some u ∧ SameBut c.t.id c.s n ∧ (∀ a, n.mem.byte a = c.s.mem.byte a) ∧
    u = { t' with
      iss := { t'.iss with withheld := some (c.fi, why), stalled := none, charge := none, begun := none }
      sched := { t'.sched with waits := u.sched.waits, boosted := u.sched.boosted } }

/-- A state in which the L1 of a team's core holds owned words only, and keeps nothing of what remote reads under way bring (R194,
R245). -/
def acquiredIn (s : State) (t : Team) : State := { s with
  ms.l1 := s.ms.l1.filter fun w => decide (w.core ≠ t.coreId) || w.own,
  pod.reqs := s.pod.reqs.map fun (r : RemoteOut) =>
    if ((s.team? r.team).map Team.coreId) = some t.coreId then { r with stale := true } else r }

/-- Every earlier store of a team has registered or been acknowledged, and every copy or engine operation that a QFENCE has
marked for the release is done, and no store before it has ended as one to a dead target (R193, R258). -/
def ReleaseDone (t : Team) : Prop :=
  (∀ f ∈ t.iss.faults, f.store = false) ∧ (∀ f ∈ t.iss.flights, f.kind = .store → f.done = true ∨ (f.bytes = [] ∧ f.remote = [])) ∧
    ∀ m n, (m, n) ∈ t.eng.qfences → ∀ q, q < 7 → m.getLsbD q = true → ∀ k ∈ t.queued q, n ≤ k

/-- A barrier object (R198). -/
structure BarObj where
  exp    : Nat
  arr    : Nat
  phase  : Bool
  pend   : Nat
  credit : Nat
  deriving DecidableEq, Repr

/-- The object in the 16 bytes at pa. -/
def barObj (m : Nat → Byte) (pa : Nat) : BarObj :=
  ⟨wordAt m pa 2, wordAt m (pa + 2) 2, (m (pa + 4)).getLsbD 0, wordAt m (pa + 8) 4 % 2 ^ 28, wordAt m (pa + 12) 4 % 2 ^ 28⟩

/-- The completion check (R199). -/
def phaseCheck (b : BarObj) : BarObj := if b.arr = b.exp ∧ b.pend = 0 then { b with arr := 0, phase := !b.phase } else b

/-- BAR.INIT, BAR.ARRIVE and BAR.EXPECT on an object: what they leave, or the detail of the overflow trap (R200). -/
def barResult (c : Ctx) (i : Instr) (b : BarObj) : Option (BitVec 7 × Option (BitVec 7) × Except Nat BarObj) :=
  match i with
  | .barInit a n =>
    let x := (c.t.readS n.toNat).toNat
    some (a, none, if x = 0 ∨ 65535 < x then .error 1 else .ok ⟨x, 0, false, 0, 0⟩)
  | .barArrive d a => some (a, some d, if b.arr = b.exp then .error 2 else .ok (phaseCheck { b with arr := (b.arr + 1) % 2 ^ 16 }))
  | .barExpect a n =>
    let e := (c.t.readS n.toNat).toNat
    some (a, none,
      if 2 ^ 28 ≤ e then .error 0
      else if e ≤ b.credit then .ok (phaseCheck { b with credit := b.credit - e })
      else if 2 ^ 28 ≤ b.pend + (e - b.credit) then .error 0
      else .ok (phaseCheck { b with pend := b.pend + (e - b.credit), credit := 0 }))
  | _ => none

/-- The log with the entry of a queued operation. -/
def loggedOp (c : Ctx) (kreg : Option Nat) : Replay :=
  if c.t.tm then c.t.rep
  else { c.t.rep with log := c.t.rep.log ++ [⟨c.pc, c.f.mask, [], false, c.t.eng.next, kreg⟩], consumed := c.t.rep.consumed + 1 }

/-- The n bytes at an address, in pieces of 16, as the descriptor of an instruction reads them; one that takes in several lines is
met with the home's bytes in all of them. -/
def DescAt (c : Ctx) (va n : Nat) (d : List Byte) : Prop :=
  d.length = n ∧ ∀ j, j < n / 16 → ∃ pa cached, Landed c needR ((va + 16 * j) % 2 ^ 64) pa cached ∧ Unpoisoned c pa 16 ∧
    (d.drop (16 * j)).take 16 = seenBytes c false cached pa 16 ∧
    (va / 128 = (va + n - 1) / 128 ∨ seenBytes c true cached pa 16 = seenBytes c false cached pa 16)

/-- The state after the reads of an instruction at issue: the L1 may hold more copies. -/
def ReadOnly (c : Ctx) (s' : State) : Prop :=
  s' = { c.s with ms.l1 := s'.ms.l1, pod.reqs := s'.pod.reqs, clusters := s'.clusters }

/-- The B operand of a matrix operation (R220): a descriptor, or the next tile of a stream; with the subscriptions after it. -/
def OperandB (c : Ctx) (x : DWord) (d : List Byte) (st : Option (Nat × Nat)) (subs : List (Nat × Nat × Nat)) : Prop :=
  (x.toNat < 2 ^ 57 ∧ x.toNat % 32 = 0 ∧ DescAt c x.toNat 32 d ∧ st = none ∧ subs = c.t.eng.subs) ∨
    (∃ n w k sm, x.toNat = 0xF000000000000000 + n ∧ n < 16 ∧ c.t.sub? n = some (w, k) ∧ c.s.stream? c.t n = some sm ∧
      k < streamCount sm.desc ∧ d = streamTile sm.desc k ∧ st = some (sm.id, k) ∧ subs = (c.t.setSub n w (k + 1)).eng.subs)

/-- An operation as it enters its queue (R212). -/
structure NewOp (c : Ctx) (i : Instr) (o : EngineOp) : Prop where
  serial  : o.serial = c.t.eng.next
  op      : o.op = i
  word    : o.word = (encode i).getD 0
  mode    : o.mode = c.t.mode
  gang    : o.gang = c.t.regs.gang
  batch   : o.batch = c.t.eng.opened
  fresh   : o.late = false ∧ o.asked = false ∧ o.started = false ∧ o.step = 0 ∧ o.pv = false ∧ o.flags = 0 ∧ o.lines = [] ∧ o.suspended = none ∧ o.page = none ∧
    o.paused = false ∧ o.alone = false ∧ o.joint = none ∧ o.kept = none ∧ o.pend = [] ∧ o.nans = []

/-- A team with an operation queued in Q5 or Q6 and logged; `subs` are its subscriptions after it. -/
def queueing (c : Ctx) (o : EngineOp) (q6 : Bool) (kreg : Option Nat) (subs : List (Nat × Nat × Nat)) : Team :=
  { c.t with
    eng.q5 := if q6 then c.t.eng.q5 else c.t.eng.q5 ++ [o], eng.q6 := if q6 then c.t.eng.q6 ++ [o] else c.t.eng.q6,
    eng.next := c.t.eng.next + 1, eng.subs := subs, rep := loggedOp c kreg }

/-- What queuing a product leaves of the rest of the state, with the subscriptions that the team had before: streams that have ended
at it are closed, and a closed one takes its subscriptions with it (R220). -/
def Queued (c : Ctx) (i : Instr) (s : State) (o : EngineOp) (subs : List (Nat × Nat × Nat)) : Prop :=
  ∃ (s' : State) (closing : Nat → Bool), Completes c i s (.front 1) s' (queueing c o false none (subs.filter fun x => !closing x.1)) ∧
    (∀ n, closing n = true → (c.s.stream? c.t n).isSome = true) ∧
    s' = { c.s with ms.l1 := s'.ms.l1, pod.reqs := s'.pod.reqs, clusters := s'.clusters, teams := s'.teams } ∧
    (∀ k u, k ≠ c.t.id → c.s.team? k = some u → ∃ v, s'.team? k = some v ∧ v = { u with eng.subs := v.eng.subs })

/-- The matrix operations that need no descriptor: whether they go to Q6, whether the operands are aligned, the address and the
pitch that they take along. -/
def plainOp (c : Ctx) (i : Instr) : Option (Bool × Nat × DWord × DWord) :=
  let r := fun (n : BitVec 6) => c.t.readS n.toNat
  match i with
  | .mxZero _ => some (false, 0, 0, 0)
  | .mxAccrd _ a b | .mxAccwr _ a b => some (false, (r a).toNat % 4 + (r b).toNat % 4, r a, r b)
  | .mxSave a => some (false, (r a).toNat % 256, r a, 0)
  | .tblKinv _ | .tblKdetach _ => some (true, 0, 0, 0)
  | _ => none

/-! Events. -/

/-- A team whose withheld instruction has completed: it goes on as t', with the next instruction of its fragment. -/
def Continued (t : Team) (fi : Nat) (s' : State) (t' : Team) (n : State) : Prop :=
  ∃ u, n = s'.setTeam u ∧ (¬ t.Arrives fi (t.nextPc fi) → MovedOn { t' with iss := { t'.iss with withheld := none } } fi u)

/-- A team that has taken the trap of a rendezvous (R225): it has issued, and its count of waiting starts again. -/
def Mismatched (t u : Team) (detail : DWord) : Prop :=
  ∀ fi w, t.iss.withheld = some (fi, w) → t.tm = false → fi < t.ctl.frags.length →
    TookTrap { t with sched.waits := 0, sched.boosted := false } fi 0x0C detail (.precise (t.frag fi).pc) u

/-- A member of a gang that arrived with no operation has completed as a probe NOP (R100). -/
def ProbeDone (t u : Team) : Prop :=
  ∀ fi w, t.iss.withheld = some (fi, w) → (t.frag fi).st = .running → ¬ t.Arrives fi (t.nextPc fi) →
    MovedOn { t with
      iss := { t.iss with withheld := none }
      sys := { t.sys with tflags := t.sys.tflags ||| 32 }
      sched := { t.sched with waits := 0, boosted := false } } fi u

/-- Two GANG values that list the same teams, in whatever order (R225). -/
def sameMembers (a b : DWord) : Bool :=
  let slots := fun (g : DWord) => (List.range (g.toNat % 8)).map fun i => g.toNat / 2 ^ (8 + 8 * i) % 2 ^ 8
  (List.range 256).all fun k => (slots a).contains k == (slots b).contains k

/-- A team that has completed its wait at a barrier: an acquire, logged (R201). -/
def Turned (s : State) (t : Team) (fi : Nat) (u : Team) : Prop :=
  (t.frag fi).st = .running → Fresh ⟨s, t, fi⟩ → ¬ t.Arrives fi (t.nextPc fi) →
    MovedOn { t with
      iss := { t.iss with withheld := none, ahead := [] }
      rep := logged ⟨s, t, fi⟩ true [] } fi u

/-- The selection of core j of a cluster in a front cycle (R320, R321, R359). `a.1` is the machine, whose slots still have to issue; `a.2`
is the same after the issues of the lower cores, which the choice sees. Fragments with an instruction under way go on. With a live core the
fragment that R321 chooses among the eligible ones takes an issue slot and its weight from the aperture; a team's count of waiting starts
again when it issues, and rises when it was eligible and did not. -/
def Selected (cl j : Nat) (halted : Bool) (a b : State × State) : Prop :=
  let free := a.2.goers cl j halted
  let seen := a.2.after free
  ∀ (k : Cluster) (x : Core), seen.clusters[cl]? = some k → k.cores[j]? = some x →
    let e := if halted then [] else seen.eligibleOn cl j
    let covers := fun (f : Cand) =>
      if f.pclass = 0 then decide (-((seen.pwr.apcfg.toNat / 2 ^ 24 % 2 ^ 20 : Nat) : Int) ≤ k.aperture - (f.weight : Nat))
      else decide (((f.weight : Nat) : Int) ≤ k.aperture)
    let chosen := if x.alive then chooseFrag x.lastClass x.run covers e else none
    b.1 = { a.1 with slots := b.1.slots, clusters := b.1.clusters, teams := b.1.teams } ∧
    b.1.slots = a.1.slots ++ free ++ chosen.toList.map (fun f => (f.team, f.fi)) ∧
    (chosen = none → b.1.clusters = a.1.clusters) ∧
    ∀ (k' : Cluster) (x' : Core), a.1.clusters[cl]? = some k' → k'.cores[j]? = some x' →
      (∀ f, chosen = some f → b.1.clusters = setAt a.1.clusters cl { k' with
        aperture := k'.aperture - (f.weight : Nat)
        cores := setAt k'.cores j { x' with lastClass := f.cls, run := if f.cls = x'.lastClass then x'.run + 1 else 1 } }) ∧
      ∀ t, a.1.team? t.id = some t →
        let here := t.sched.life = .resident ∧ t.sched.cluster = cl ∧ t.sched.core = j
        let issues := chosen.any fun f => f.team == t.id
        let waits := e.any fun f => f.team == t.id
        (¬ here → b.1.team? t.id = some t) ∧
        (here → ∃ u, b.1.team? t.id = some u ∧
          u.sched = { t.sched with
            waits := if issues then 0 else if waits then t.sched.waits + 1 else t.sched.waits
            boosted := if issues then false else if waits then t.sched.boosted || decide (4096 ≤ t.sched.waits + 1) else t.sched.boosted } ∧
          u = { t with sched := u.sched, iss.stalled := u.iss.stalled, iss.charge := u.iss.charge, ctl.frags := u.ctl.frags } ∧
          ∀ i, u.frag i = { t.frag i with replay := (u.frag i).replay })

/-- Some of the members of a list, as many as there are but at most n, the ones with the earliest times, ties to the lower (R361). -/
structure Earliest (time : Nat → Nat) (n : Nat) (all some : List Nat) : Prop where
  nodup : some.Nodup
  among : ∀ i ∈ some, i ∈ all
  count : some.length = min n all.length
  first : ∀ i ∈ some, ∀ j ∈ all, j ∉ some → time i < time j ∨ (time i = time j ∧ i < j)

/-- The flags that an operation raises as it ends: those of its parts, and the invalid flag when an output has met an invalid case in
an earlier part and no NaN operand (R55, R74). -/
def flagsSoFar (o : EngineOp) : DWord := o.flags.setWidth 64 ||| (if o.pend.any fun i => !o.nans.contains i then 1 else 0)

/-- An engine operation that is over: it has left its queue and its flags are raised; subscriptions to streams that have closed end,
its requests to other members are left, and no byte of memory changes. -/
structure EngineDone (s : State) (t : Team) (q : EngineQueue) (o : EngineOp) (flags : DWord) (n : State) (u : Team) : Prop where
  here   : n.team? t.id = some u
  queue  : u.getQ q = (t.getQ q).filter (·.serial != o.serial)
  flags  : u.sys = { t.sys with tflags := t.sys.tflags ||| flagsSoFar o ||| flags }
  team   : u = { t with regs.c := u.regs.c, sys := u.sys, eng := u.eng }
  eng    : u.eng = { t.eng with q5 := u.eng.q5, q6 := u.eng.q6, k := u.eng.k, subs := u.eng.subs }
  others : ∀ k v, k ≠ t.id → s.team? k = some v → ∃ v', n.team? k = some v' ∧ v' = { v with eng.subs := v'.eng.subs }
  reqs   : ∀ r ∈ s.pod.reqs, r.team ≠ t.id ∨ r.use ≠ .queue o.serial → r ∈ n.pod.reqs
  state  : n = { s with teams := n.teams, clusters := n.clusters, pod := { s.pod with reqs := n.pod.reqs } }

/-- The n bytes at an address that a queue's access brings (R207, R217): the home's or the vault's, and the team's own stores that have
not registered. -/
def Brings (s : State) (t : Team) (va n : Nat) (bs : List Byte) : Prop :=
  ∃ pa cached, va < 2 ^ 57 ∧ Landed ⟨s, t, 0⟩ needR va pa cached ∧ Unpoisoned ⟨s, t, 0⟩ pa (n + 4) ∧
    bs = (List.range n).map fun i => seen s t true cached (pa + i)

/-- A write of a queue of n bytes at an address can be performed at pa. -/
def Writable (s : State) (t : Team) (va n pa : Nat) : Prop :=
  ∃ cached, va < 2 ^ 57 ∧ Landed ⟨s, t, 0⟩ needW va pa cached ∧ NothingPending ⟨s, t, 0⟩ pa n

/-- The state after writes of a queue that left memory as m. -/
structure Wrote (s : State) (id : Nat) (m : Nat → Byte) (n : State) : Prop where
  mem    : ∀ a, n.mem.byte a = m a
  others : ∀ k v, k ≠ id → s.team? k = some v → ∃ v', n.team? k = some v' ∧ v' = { v with eng.k := v'.eng.k, eng.subs := v'.eng.subs }
  state  : n = { s with mem := n.mem, ms := n.ms, teams := n.teams, clusters := n.clusters }

/-- Memory with some bytes at pa. -/
def withBytes (m : Nat → Byte) (pa : Nat) (bs : List Byte) (a : Nat) : Byte :=
  if pa ≤ a ∧ a < pa + bs.length then bs.getD (a - pa) 0 else m a

/-- Memory after writes of some bytes, in order. -/
def afterWrites (m : Nat → Byte) (xs : List (Nat × List Byte)) : Nat → Byte := xs.foldl (fun m x => withBytes m x.1 x.2) m

/-- An address whose translation no write to memory changes: one of the scratch window, or one outside the vaults that the core's
TLB holds (R182, R327, R340). -/
def Settled (s : State) (t : Team) (va : Nat) : Prop :=
  pathOf va = 2 ∨ ∃ e, s.tlb? t.coreId t.const.asid va = some e ∧ inVault (e.at va) = false

/-- No request of an operation to another member is outstanding. -/
def NoRequests (s : State) (t : Team) (serial : Nat) : Prop := ∀ r ∈ s.pod.reqs, r.team = t.id → r.use ≠ .queue serial

/-- A step of an engine's or a chain's arithmetic: whether its operands are finite, its exact value, and the FP32 value that it comes
to. -/
abbrev RoundStep := Bool × ℚ × Nat

/-- A step rounds once, to nearest with ties to even (R61). -/
def RoundsOnce (p : RoundStep) : Prop := p.1 = true → finitePattern fp32 p.2.2 = true → RoundedTo fp32 .rne p.2.1 p.2.2

/-- The flags of some steps (R57, R62): inexact for a value that is not exact, overflow with it for one beyond the format; and where all
that the steps meet is finite, no invalid, no division by zero, and no inexact without such a step. -/
structure StepFlags (fl : DWord) (steps : RoundStep → Prop) : Prop where
  inexact  : ∀ p, steps p → p.1 = true → finitePattern fp32 p.2.2 = true → patternRat fp32 p.2.2 ≠ p.2.1 → fl.getLsbD 4 = true
  overflow : ∀ p, steps p → p.1 = true → finitePattern fp32 p.2.2 = false → fl.getLsbD 2 = true ∧ fl.getLsbD 4 = true
  only     : (∀ p, steps p → p.1 = true ∧ finitePattern fp32 p.2.2 = true) →
    fl.toNat < 32 ∧ fl.toNat % 8 = 0 ∧ (fl.getLsbD 4 = true → ∃ p, steps p ∧ patternRat fp32 p.2.2 ≠ p.2.1)

/-- The exact sum of the products of group q of a dense product; a vacant position counts as zero (R74). -/
def groupSum (m : Mma) (la lb : Lines) (r c q : Nat) : ℚ :=
  ((List.range 16).map fun j =>
    if m.meets r (16 * q + j) c then ratOf (m.aVal la r (16 * q + j)).1 * ratOf (m.bVal lb (16 * q + j) c).1 else 0).sum

/-- Whether an operand value is finite. -/
def finiteVal : FVal → Bool | .fin _ _ _ => true | _ => false

/-- Step k of an output of a dense product whose accumulator goes through f (R74): the exact group sum is added, and rounded once. -/
def denseStep (m : Mma) (la lb : Lines) (r c : Nat) (f : Nat → Nat) (k : Nat) : RoundStep :=
  ((List.range 16).all (fun j => !m.meets r (16 * k + j) c ||
      (finiteVal (m.aVal la r (16 * k + j)).1 && finiteVal (m.bVal lb (16 * k + j) c).1)) && finitePattern fp32 (f k),
    patternRat fp32 (f k) + groupSum m la lb r c k, f (k + 1))

/-- Step j of a table entry with index x whose sum goes through f (R75): the next activation, signed by its bit of the index. -/
def buildStep (a : Nat → FVal) (x : Nat) (f : Nat → Nat) (j : Nat) : RoundStep :=
  (finiteVal (a (j + 1)) && finitePattern fp32 (f j),
    patternRat fp32 (f j) + (if x / 2 ^ (j + 1) % 2 = 1 then -1 else 1) * ratOf (a (j + 1)), f (j + 1))

/-- What a lookup product meets at one output (R68, R76): `nibble j` is weight j of its row, `look g x` the table entry of k-group g that
index x selects, and `out`, `a`, `b`, `al`, `be`, `mid` are what its sums and factors come to, block by block. -/
structure LookupSums where
  nibble : Nat → Nat
  entry  : Nat → Nat → Nat
  e0     : Nat → Nat
  e1     : Nat → Nat
  out    : Nat → Nat
  a      : Nat → Nat → Nat
  b      : Nat → Nat → Nat
  al     : Nat → Nat
  be     : Nat → Nat
  mid    : Nat → Nat

namespace LookupSums

/-- Look(T, x) (R75): whether it is finite, and its value. -/
def look (k : LookupSums) (g x : Nat) : Bool × ℚ :=
  if x < 128 then (finitePattern fp32 (k.entry g x), patternRat fp32 (k.entry g x))
  else (finitePattern fp32 (k.entry g (255 - x)), -patternRat fp32 (k.entry g (255 - x)))

/-- The sign index u and the selector index v of group g and plane i (R76). -/
def signIndex (k : LookupSums) (g i : Nat) : Nat := ((List.range 8).map fun j => 2 ^ j * (1 - k.nibble (8 * g + j) / 2 ^ i % 2)).sum
def selIndex (k : LookupSums) (g i : Nat) : Nat := k.signIndex g i ^^^ ((List.range 8).map fun j => 2 ^ j * (k.nibble (8 * g + j) / 8)).sum

/-- The steps of block n, but for what a header of 0xFF ends: twelve for each of the sums, one for each factor, two fused ones. -/
def steps (k : LookupSums) (n : Nat) : List RoundStep :=
  let fin := finitePattern fp32
  let rat := patternRat fp32
  let add := fun (sum : Nat → Nat) (index : Nat → Nat → Nat) (j : Nat) =>
    let l := k.look (4 * n + j / 3) (index (4 * n + j / 3) (j % 3))
    ((l.1 && fin (sum j), rat (sum j) + 2 ^ (j % 3) * l.2, sum (j + 1)) : RoundStep)
  let half := fun (e : Nat) => (2 : ℚ) ^ ((e : Int) - 131)
  (List.range 12).map (add (k.a n) k.signIndex) ++ (List.range 12).map (add (k.b n) k.selIndex) ++
    if k.e0 n = 255 ∨ k.e1 n = 255 then [] else
      [(true, half (k.e0 n) + half (k.e1 n), k.al n), (true, half (k.e0 n) - half (k.e1 n), k.be n),
        (fin (k.al n) && fin (k.a n 12) && fin (k.out n), rat (k.al n) * rat (k.a n 12) + rat (k.out n), k.mid n),
        (fin (k.be n) && fin (k.b n 12) && fin (k.mid n), rat (k.be n) * rat (k.b n 12) + rat (k.mid n), k.out (n + 1))]

end LookupSums

/-- The sums of output (r, c) of a lookup product with table entries `tab` and weights w: what it looks up, where its sums start, and a
header of 0xFF makes the output the canonical NaN (R68, R76, R238). -/
structure LooksUp (tab : Sparse 32) (w : OpDesc) (ls : Lines) (r c start : Nat) (k : LookupSums) : Prop where
  nibble : ∀ j, j < 8 * w.kgn → k.nibble j =
    (if (8 * w.kg0 + j) % 2 = 0 then lineNum ls (w.elemAt .bx4 c (8 * w.kg0 + j)) 1 % 16
      else lineNum ls (w.elemAt .bx4 c (8 * w.kg0 + j)) 1 / 16)
  entry  : ∀ g x, g < w.kgn → x < 128 → k.entry g x = (tab.get ((8 * r + g) * 128 + x)).toNat
  header : ∀ n, n < w.kgn / 4 → k.e0 n = lineNum ls (w.headerAt c (8 * w.kg0 + 32 * n)) 1 ∧
    k.e1 n = lineNum ls (w.headerAt c (8 * w.kg0 + 32 * n) + 1) 1
  start  : k.out 0 = start ∧ ∀ n, k.a n 0 = 0 ∧ k.b n 0 = 0
  nan    : ∀ n, n < w.kgn / 4 → k.e0 n = 255 ∨ k.e1 n = 255 → k.out (n + 1) = fp32.nan

/-! Chains (R209, R210). -/

/-- The rational of a finite element of a type, and whether an element is finite. -/
def elemRat (t : ElemType) (x : Nat) : ℚ := match t.fmt with | some f => patternRat f x | none => (elemInt t x : ℚ)
def elemFinite (t : ElemType) (x : Nat) : Bool := match t.fmt with | some f => finitePattern f x | none => true

/-- An integer that a rational is rounded to. -/
def IntRounded (rm : RoundMode) (x : ℚ) (k : Int) : Prop :=
  match rm with
  | .rne => |(k : ℚ) - x| ≤ 1 / 2 ∧ (|(k : ℚ) - x| = 1 / 2 → k % 2 = 0)
  | .rtz => |(k : ℚ)| ≤ |x| ∧ |x| < |(k : ℚ)| + 1 ∧ 0 ≤ (k : ℚ) * x
  | .rdn => (k : ℚ) ≤ x ∧ x < k + 1
  | .rup => x ≤ k ∧ (k : ℚ) - 1 < x
  | .sr => |(k : ℚ) - x| < 1

/-- An element y that a finite value converts to (R163): rounded once; an integer is held to its type's range. Of a value beyond a
floating type nothing is said. -/
def ConvertsTo (t : ElemType) (rm : RoundMode) (x : ℚ) (y : Nat) : Prop :=
  match t.fmt with
  | some f => (∃ k, k < 2 ^ f.w ∧ finitePattern f k = true ∧ |x| ≤ |patternRat f k|) → finitePattern f y = true ∧ RoundedTo f rm x y
  | none => ∃ k, IntRounded rm x k ∧
      elemInt t y = max (if t.signed then -2 ^ (t.width - 1) else 0) (min (if t.signed then 2 ^ (t.width - 1) - 1 else 2 ^ t.width - 1) k)

/-- The exact result of the stages that round once; s is the element's source value (R209). -/
def stageExact (op k x s : Nat) : Option ℚ :=
  let rat := patternRat fp32
  match op with
  | 0 => some (rat x + rat k)
  | 1 => some (rat x * rat k)
  | 2 => some (rat x * rat k + rat s)
  | 7 => some (rat x * 2 ^ (if 2 ^ 31 ≤ k then (k : Int) - 2 ^ 32 else (k : Int)))
  | _ => none

/-- Whether what a stage reads is finite. -/
def stageFinite (op k x s : Nat) : Bool :=
  let fin := finitePattern fp32
  fin x && (op == 5 || op == 6 || op == 7 || fin k) && (op != 2 || fin s)

/-- What a stage makes of x, where all that it meets is finite (R209). EXP2 is as V.EXP2 has it. -/
def Staged (op k x s y : Nat) : Prop :=
  let rat := patternRat fp32
  stageFinite op k x s = true → finitePattern fp32 y = true →
    (∀ v, stageExact op k x s = some v → RoundedTo fp32 .rne v y) ∧
    (op = 3 → rat y = max (rat x) (rat k)) ∧ (op = 4 → rat y = min (rat x) (rat k)) ∧ (op = 5 → y = (exp2Elem fp32 .fp32 rne x).1) ∧
    (op = 6 → ∀ t, ElemType.ofCode (BitVec.ofNat 4 (k % 16)) = some t → ∃ z, ConvertsTo t .rne (rat x) z ∧
      (elemFinite t z = true → RoundedTo fp32 .rne (elemRat t z) y))

/-- One element of a chain, from its source bits x to its destination bits y, through the values v of its stages (R210). -/
structure ChainOf (h : ChainDesc) (x : Nat) (v : Nat → Nat) (y : Nat) : Prop where
  source : elemFinite h.st x = true → finitePattern fp32 (v 0) = true → RoundedTo fp32 .rne (elemRat h.st x) (v 0)
  stages : ∀ j op k, h.ops[j]? = some (op, k) → Staged op k (v j) (v 0) (v (j + 1))
  target : finitePattern fp32 (v h.ops.length) = true → ConvertsTo h.dt h.rm (patternRat fp32 (v h.ops.length)) y

/-- An element of a chain is exact: nothing that its source, its stages or its conversion meet is infinite or a NaN, and none of them
rounds. -/
def ChainExact (h : ChainDesc) (x : Nat) (v : Nat → Nat) (y : Nat) : Prop :=
  elemFinite h.st x = true ∧ finitePattern fp32 (v 0) = true ∧ patternRat fp32 (v 0) = elemRat h.st x ∧
    (∀ j op k, h.ops[j]? = some (op, k) → stageFinite op k (v j) (v 0) = true ∧ finitePattern fp32 (v (j + 1)) = true ∧
      (op = 3 ∨ op = 4 ∨ stageExact op k (v j) (v 0) = some (patternRat fp32 (v (j + 1))))) ∧
    elemFinite h.dt y = true ∧ elemRat h.dt y = patternRat fp32 (v h.ops.length)

/-! Special functions (R159 to R162). -/

/-- A special function of one operand: its destination and its source. -/
def specialFn : Instr → Option (BitVec 7 × BitVec 7)
  | .vRcp d a | .vRsq d a | .vSqrt d a | .vExp2 d a | .vLog2 d a => some (d, a)
  | _ => none

/-- The special operands of R160, and the operands from which EXP2 overflows: the result, and the flags that they raise. -/
def specialCase (t : ElemType) (f : Fmt) (rm : RoundMode) (i : Instr) (x : FVal) : Option (Nat × Nat) :=
  match i, x with
  | _, .nan => some (f.nan, 0)
  | .vRcp _ _, .inf neg => some (f.signBit neg, 0)
  | .vRcp _ _, .fin neg 0 _ | .vRsq _ _, .fin neg 0 _ => some (f.signBit neg + f.infBits, 2)
  | .vRsq _ _, .inf false => some (0, 0)
  | .vSqrt _ _, .inf false | .vExp2 _ _, .inf false | .vLog2 _ _, .inf false => some (f.infBits, 0)
  | .vExp2 _ _, .inf true => some (0, 0)
  | .vRsq _ _, .inf true | .vSqrt _ _, .inf true | .vLog2 _ _, .inf true => some (f.nan, 1)
  | .vSqrt _ _, .fin neg 0 _ => some (f.signBit neg, 0)
  | .vLog2 _ _, .fin _ 0 _ => some (f.signBit true + f.infBits, 2)
  | .vRsq _ _, .fin true _ _ | .vSqrt _ _, .fin true _ _ | .vLog2 _ _, .fin true _ _ => some (f.nan, 1)
  | .vExp2 _ _, x => if (if t = .fp16 then 16 else 128) ≤ ratOf x then
      some (if rm = .rtz ∨ rm = .rdn then f.infBits - 1 else f.infBits, 20) else none
  | .vLog2 _ _, x => if ratOf x = 1 then some (0, 0) else none
  | _, _ => none

/-- A finite result is the greatest value of the format that is not above the exact one, or the least that is not below it;
`below y` and `above y` tell how a rational y stands to the exact value. -/
def Brackets (f : Fmt) (below above : ℚ → Prop) (r : Nat) : Prop :=
  let v := patternRat f r
  (below v ∨ above v) ∧ ∀ k, k < 2 ^ f.w → finitePattern f k = true →
    (below v → below (patternRat f k) → patternRat f k ≤ v) ∧ (above v → above (patternRat f k) → v ≤ patternRat f k)

/-- What a special function makes of another finite operand x (R159): RCP and SQRT round once, by the mode; RSQ gives one of the two
values beside 1/√x. EXP2 of an integer and LOG2 of a power of two give the exact value, or one of the two beside it. Of another operand
the bounds alone are told: the result of EXP2 lies from 2^⌊x⌋ to two powers above it, the result of LOG2 from its floor to the
next integer. -/
def SpecialValue (f : Fmt) (rm : RoundMode) (i : Instr) (x : ℚ) (r : Nat) : Prop :=
  let v := patternRat f r
  let each := fun (p : ℚ → Prop) => ∀ k, k < 2 ^ f.w → finitePattern f k = true → p (patternRat f k)
  match i with
  | .vRcp _ _ => RoundedTo f rm (1 / x) r
  | .vSqrt _ _ => Brackets f (fun y => y ≤ 0 ∨ y * y ≤ x) (fun y => 0 ≤ y ∧ x ≤ y * y) r ∧ 0 ≤ v ∧
      match rm with
      | .rtz | .rdn => v * v ≤ x
      | .rup => x ≤ v * v
      | .rne => each fun y => (v < y → x ≤ ((v + y) / 2) * ((v + y) / 2)) ∧ (0 ≤ y → y < v → ((v + y) / 2) * ((v + y) / 2) ≤ x)
      | .sr => True
  | .vRsq _ _ => Brackets f (fun y => y ≤ 0 ∨ y * y * x ≤ 1) (fun y => 0 ≤ y ∧ 1 ≤ y * y * x) r
  | .vExp2 _ _ => (∀ n : Int, x = n → Brackets f (fun y => y ≤ 2 ^ n) (fun y => (2 : ℚ) ^ n ≤ y) r) ∧
      each fun y => (y ≤ 2 ^ ⌊x⌋ → y ≤ v) ∧ ((2 : ℚ) ^ (⌊x⌋ + 2) ≤ y → v ≤ y)
  | .vLog2 _ _ => ∀ n : Int, ((2 : ℚ) ^ n = x → Brackets f (fun y => y ≤ n) (fun y => (n : ℚ) ≤ y) r) ∧
      ((2 : ℚ) ^ n ≤ x → x < 2 ^ (n + 1) → each fun y => (y ≤ n → y ≤ v) ∧ ((n : ℚ) + 1 ≤ y → v ≤ y))
  | _ => True

/-- V.RRED of a finite x (R161): up to 2^20 the three parts of π/2 are taken off one after the other, each with one rounding; beyond it
the remainder is told to be at most 1. -/
def Reduced (x r q : Nat) : Prop :=
  let rat := patternRat fp32
  let exact := fun (v : ℚ) (k : Nat) => finitePattern fp32 k = true ∧ RoundedTo fp32 .rne v k
  (|rat x| ≤ 2 ^ 20 → ∃ p r1 r2 n, exact (rat x * rat 0x3F22F983) p ∧ IntRounded .rne (rat p) n ∧ exact (rat x - n * rat 0x3FC90000) r1 ∧
    exact (rat r1 - n * rat 0x39FDA000) r2 ∧ exact (rat r2 - n * rat 0x33A22169) r ∧ (q : Int) = n % 4) ∧
  ((2 : ℚ) ^ 20 < |rat x| → q < 4 ∧ finitePattern fp32 r = true ∧ |rat r| ≤ 1)

/-- A result for the angle x + k·π/2 with |x| at most 1 (R162): even quadrants give the sine of x, odd ones its cosine, and two of the
four with the sign turned. The sine lies from |x| − |x|³/5 to |x|, the cosine from 1 − x²/2 to 1, each to the next value of the format. -/
def SineOf (k x r : Nat) : Prop :=
  let rat := patternRat fp32
  let m := |rat x|
  let v := if k < 2 then rat r else -rat r
  let lo := if k % 2 = 0 then m - m * m * m / 5 else 1 - m * m / 2
  let hi := if k % 2 = 0 then m else 1
  (if k % 2 = 0 then 0 ≤ v * rat x else 0 ≤ v) ∧
    ∀ y, y < 2 ^ 32 → finitePattern fp32 y = true → (rat y ≤ lo → rat y ≤ |rat r|) ∧ (hi ≤ rat y → |rat r| ≤ rat y)

/-! Conversions (R163 to R166). -/

/-- The rounding of a conversion: its override, or MODE.RM, or in slot mode ORND. -/
def convMode (c : Ctx) (rnd : RoundOverride) (target : ConvTarget) : RoundMode :=
  match rnd, target with
  | .rne, _ => .rne
  | .rtz, _ => .rtz
  | .sr, _ => .sr
  | .mode, .type _ => c.t.rm
  | .mode, .slot n => match field (c.t.slot n) 40 2 with | 0 => .rne | 1 => .rtz | 2 => .rdn | _ => .rup

/-- SATF of a slot. -/
def convSat (c : Ctx) : ConvTarget → Bool
  | .type _ => false
  | .slot n => (c.t.slot n).getLsbD 42

/-- An element x of one type converted to y of another: a finite value by its rounding, a NaN to the canonical NaN or to 0, an infinity
to an infinity, in E4M3 to the canonical NaN or by SATF to the greatest value, and in an integer to the end of its range. -/
def Converted (src dst : ElemType) (rm : RoundMode) (satf : Bool) (x y : Nat) : Prop :=
  (elemFinite src x = true → ConvertsTo dst rm (elemRat src x) y) ∧
  (elemNan src x = true → y = dst.fmt.elim 0 Fmt.nan) ∧
  ∀ neg, src.fmt.map (fun f => f.decode x) = some (.inf neg) →
    (∀ f, dst.fmt = some f → y = if f.hasInf then f.signBit neg + f.infBits else if satf then f.signBit neg + f.maxBits else f.nan) ∧
    (dst.fmt = none → elemInt dst y = if neg then (if dst.signed then -2 ^ (dst.width - 1) else 0)
      else if dst.signed then 2 ^ (dst.width - 1) - 1 else 2 ^ dst.width - 1)

/-- What V.UNPK widens a type to. -/
def widened : ElemType → Option ElemType
  | .int16 => some .int32 | .uint16 => some .uint32 | .bf16 => some .fp32 | .fp16 => some .fp32
  | .int8 => some .int16 | .uint8 => some .uint16 | .e4m3 => some .fp16 | .e5m2 => some .fp16
  | _ => none

/-- Floating MIN, MAX, ABS and NEG (R56, R152): the destination, the sources, and the result of an element. -/
def floatPick (t : ElemType) (f : Fmt) : Instr → Option (BitVec 7 × BitVec 7 × BitVec 7 × (Nat → Nat → Nat))
  | .vMin d a b => some (d, a, b, fun x y => pick x y fun x y => decide (order x ≤ order y))
  | .vMax d a b => some (d, a, b, fun x y => pick x y fun x y => decide (order y ≤ order x))
  | .vAbs d a => some (d, a, a, fun x _ => if elemNan t x then f.nan else x % 2 ^ (f.w - 1))
  | .vNeg d a => some (d, a, a, fun x _ => if elemNan t x then f.nan else (x + 2 ^ (f.w - 1)) % 2 ^ f.w)
  | _ => none
where
  order (x : Nat) : Int := if x < 2 ^ (f.w - 1) then x else 2 ^ (f.w - 1) - 1 - (x : Int)
  pick (x y : Nat) (first : Nat → Nat → Bool) : Nat :=
    if elemNan t x then (if elemNan t y then f.nan else y) else if elemNan t y then x else if first x y then x else y

/-! Moves of text (R295 to R298). -/

/-- A relation taken along a list, from one state to the next. -/
def Along {α β : Type} (r : α → β → β → Prop) : List α → β → β → Prop
  | [], a, b => b = a
  | x :: xs, a, b => ∃ m, r x a m ∧ Along r xs m b

/-- F of a move, where it is defined; an address outside the old text stays. -/
def forwardOf (o : OldText) (x : Nat) : Option Nat :=
  if x < o.start ∨ o.start + o.len ≤ x then some x
  else match o.fwd with
    | none => some (x - o.start + o.new)
    | some l => (lookupKey (x - o.start) l).map fun y => o.new + y

/-- A table entry or cell at address w of a context: one that holds an address of the old text with an F takes it. -/
def Forwarded (o : OldText) (w : BitVec 12 × Nat) (a b : State) : Prop :=
  let x := a.vaRead8 w.1 w.2
  b = match forwardOf o x with | some y => if y = x then a else a.vaWrite8 w.1 w.2 y | none => a

/-- The entries and cells of a context that may hold an old address (R296). -/
def linkWords (s : State) (asid : BitVec 12) : List (BitVec 12 × Nat) :=
  (((s.ldr.objects.filter fun p => p.asid == asid).flatMap fun p => p.entries 4 ++ p.entries 5) ++
    (s.ldr.cells.filter fun e => e.asid == asid).map (·.addr)).map fun w => (asid, w)

def loopEnds (es : List LoopEntry) : List DWord := es.flatMap fun e => [e.first, e.last]

/-- The code addresses of a saved team (R298); `sp` are its spilled link entries. -/
def codeAddresses (v : Team) (sp : List (Nat × Nat)) : List DWord :=
  (v.ctl.frags.filter Frag.live).map (·.pc) ++ [v.sys.tpc, v.sys.regpc, v.iss.dtrap.pc] ++ v.rep.snap.pend.toList ++ v.ctl.pend.toList ++
    v.ctl.fuse.filterMap (fun x => x) ++ loopEnds v.ctl.loop ++ loopEnds v.ctl.rloop ++ v.ctl.link ++ v.rep.log.map (·.pc) ++
    sp.map fun x => BitVec.ofNat 64 x.2

/-- Those that a rollback needs. -/
def rollbackAddresses (v : Team) (sp : List (Nat × Nat)) : List DWord :=
  let u := v.popLinkTo v.rep.snap.linkDepth
  v.sys.regpc :: v.rep.snap.pend.toList ++ loopEnds v.ctl.rloop ++ u.ctl.link ++ v.rep.log.map (·.pc) ++
    (sp.drop (v.ctl.spilled - u.ctl.spilled)).map fun x => BitVec.ofNat 64 x.2

/-- Case 1: the team with f on every code address, and on TVEC. -/
def fullyRewritten (f : DWord → DWord) (v : Team) : Team :=
  let loops := fun (es : List LoopEntry) => es.map fun (e : LoopEntry) => { e with first := f e.first, last := f e.last }
  { v with
    ctl.frags := v.ctl.frags.map fun x => if x.live then { x with pc := f x.pc } else x
    ctl.pend := v.ctl.pend.map f, ctl.fuse := v.ctl.fuse.map (Option.map f), ctl.loop := loops v.ctl.loop, ctl.rloop := loops v.ctl.rloop
    ctl.link := v.ctl.link.map f
    sys.tpc := f v.sys.tpc, sys.regpc := f v.sys.regpc, sys.tvec := f v.sys.tvec
    rep.snap := { v.rep.snap with pend := v.rep.snap.pend.map f }
    rep.log := v.rep.log.map fun e => { e with pc := f e.pc }
    iss.dtrap := { v.iss.dtrap with pc := f v.iss.dtrap.pc } }

/-- Case 2: the team at its region entry (R265), with f on what that needs. -/
def rolledBack (f : DWord → DWord) (v : Team) : Team :=
  let u := v.popLinkTo v.rep.snap.linkDepth
  let loops := v.ctl.rloop.map fun (e : LoopEntry) => { e with first := f e.first, last := f e.last }
  { u with
    ctl.frags := oneFrag v.rep.snap.mask (f v.sys.regpc) v.rep.snap.depth, ctl.fuse := noFuse, ctl.pend := v.rep.snap.pend.map f
    ctl.loop := loops, ctl.rloop := loops, ctl.link := u.ctl.link.map f
    sys.regpc := f v.sys.regpc
    rep.snap := { v.rep.snap with pend := v.rep.snap.pend.map f }
    rep.log := v.rep.log.map fun e => { e with pc := f e.pc }, rep.consumed := 0
    iss.bypass := [] }

/-- The control state of a saved team put back: its parking area takes the addresses of `u`, its spilled link entries `sp` theirs. -/
def putBack (a : State) (t u : Team) (sp : List (Nat × DWord)) (more : List (Nat × Byte)) : State :=
  let b := { a with mem := Memory.writeBytes a.mem ((u.codeCells ++ more).map fun (c : Nat × Byte) => (t.sched.parking + c.1, c.2)) }
  (b.register none false (sp.flatMap fun x => cellsAt x.1 (toBytes 8 x.2.toNat))).setTeam
    { t with ctl := u.ctl, sys := u.sys, rep := u.rep, iss.bypass := u.iss.bypass }

/-- A saved team rewritten by the first of the three cases of R298 that applies; the second part lists the teams rewritten so far. -/
def Rewritten (o : OldText) (t : Team) (a b : State × List Nat) : Prop :=
  let v := a.1.codeView t
  let has := fun (xs : List DWord) => ∀ x ∈ xs, (forwardOf o x.toNat).isSome = true
  let f := fun (x : DWord) => ((forwardOf o x.toNat).map (BitVec.ofNat 64)).getD x
  let moved := fun (sp : List (Nat × Nat)) => sp.map fun x => (x.1, f (BitVec.ofNat 64 x.2))
  (a.1.spills v = none → b = a) ∧
  ∀ sp, a.1.spills v = some sp →
    (has (codeAddresses v sp) → b = (putBack a.1 t (fullyRewritten f v) (moved sp) [], t.id :: a.2)) ∧
    (¬ has (codeAddresses v sp) →
      let back := v.tm = false ∧ v.rep.kentry = false ∧ has (rollbackAddresses v sp)
      (back → b = (putBack a.1 t (rolledBack f v) (moved (sp.drop (v.ctl.spilled - (v.popLinkTo v.rep.snap.linkDepth).ctl.spilled)))
        (cellsAt 0x2C180 (zeroBytes 16)), t.id :: a.2)) ∧
      (¬ back → b = a))

/-- A move that is committed (R296, R297): the new text is written and made visible, each parked team of the contexts is rewritten, then
each entry and cell; what still waits for the old text are the teams of the interface that were not rewritten. -/
def MoveDone (s : State) (ps : List Object) (o : OldText) (bytes : List Byte) (asid : BitVec 12) (vi : Nat) (n : State) (waits : List Nat) : Prop :=
  ∃ a b c done, a = (s.vaWrite asid o.new bytes).icinvRange o.new bytes.length ∧
    Along (Rewritten o) (a.teams.filter fun t => t.lives && ps.any (fun p => p.asid == t.const.asid) && t.sched.life == .parked) (a, []) (b, done) ∧
    Along (Forwarded o) ((ps.map (·.asid)).eraseDups.flatMap (linkWords s)) b c ∧
    n.mem = c.mem ∧ n.ms = c.ms ∧ n.teams = c.teams ∧
    waits = (c.teams.filter fun t => t.lives && t.const.vi == vi && !done.contains t.id).map (·.id)

/-- A team that a save has taken off its core (R267 to R269): its windows have closed, its scalar registers and MODE stand in its
parking area, and it waits to be unparked. -/
structure Saved (s : State) (t : Team) (n : State) (u : Team) : Prop where
  here   : n.team? t.id = some u
  life   : u.sched = { t.sched with life := .parked, saveDue := none, shedPark := false, rests := t.iss.withheld.map (·.2) }
  idle   : u.iss.withheld = none ∧ u.iss.windows = [] ∧ u.iss.busy = [] ∧ u.iss.ahead = []
  kept   : u.const = t.const ∧ u.sys = t.sys ∧ u.ctl = t.ctl ∧ u.maps = t.maps
  scalar : ∀ k, k < 64 → n.home8 (t.sched.parking + 8 * k) = t.closeAll.regs.s.get k
  mode   : n.mem.le (t.sched.parking + 0x380) 4 = t.mode.toNat
  below  : ∀ a, a < t.sched.parking → n.mem.byte a = s.mem.byte a
  others : ∀ k, k ≠ t.id → n.team? k = s.team? k
  state  : n = { s with mem := n.mem, ms := n.ms, pod := n.pod, teams := n.teams, clusters := n.clusters }

/-- A team that a save can take whole: no rendezvous and no double trap is recorded, no product is in progress, every window has its
bytes, and its registers are in their canonical form. -/
def Saveable (t : Team) : Prop :=
  (∀ w ∈ t.iss.windows, w.waits = []) ∧ t.latched = none ∧ t.iss.dtrap.cause = 0 ∧ (∀ o, t.eng.q5.head? = some o → o.started = false) ∧
    Sparse.wf t.closeAll.regs.s = true

/-! Errors and the pod. -/

/-- A containment record (R350): kind, device, CYCLEF of cluster 0. -/
def containment (kind dev time : Nat) : List Byte :=
  (List.range 32).map fun i =>
    if i < 2 then byteAt kind i else if i < 4 then byteAt dev (i - 2) else if 8 ≤ i ∧ i < 16 then byteAt time (i - 8) else 0

/-- A device's containment record: it is appended to the CREC ring and the host is told; while an earlier one of the device stands,
nothing is (R350). -/
structure Contained (s : State) (kind : Nat) (dev : BitVec 10) (n : State) : Prop where
  again : ∀ i, (dev, i) ∈ s.pod.reported → (∀ a, n.mem.byte a = s.mem.byte a) ∧ n.pod.crwr = s.pod.crwr ∧ n.boot.msix = s.boot.msix
  fresh : (∀ i, (dev, i) ∉ s.pod.reported) → s.Canonical →
    let logn := s.pod.crec.toNat % 32
    let at_ := s.pod.crec.toNat % 2 ^ 57 / 32 * 32 + 32 * (s.pod.crwr.toNat % 2 ^ logn)
    1 ≤ logn → (s.pod.crwr - s.pod.crrd).toNat < 2 ^ logn → (∀ i, i < 32 → populated (at_ + i) = true) →
      n.pod.crwr = s.pod.crwr + 1 ∧ n.boot.msix = s.boot.msix ++ [(0, 2)] ∧
      n.mem.bytes at_ 32 = containment kind dev.toNat ((s.clusters[0]?).elim 0 fun c => c.cyclef) ∧
      ∀ a, a < at_ ∨ at_ + 32 ≤ a → n.mem.byte a = s.mem.byte a

/-- An entry of the source window table without a nonzero reserved bit (R347): its rights and its first and last granule. -/
def WindowIs (e r w a first last : Nat) : Prop :=
  r < 2 ∧ w < 2 ∧ a < 2 ∧ first < 2 ^ 36 ∧ last < 2 ^ 36 ∧
    e = first * 2 ^ 16 + r * 2 ^ 53 + w * 2 ^ 54 + a * 2 ^ 55 + 2 ^ 63 + last * 2 ^ 80

/-- A request that its source's windows admit: one entry grants the rights and covers every byte, and all of them lie in device
memory (R347). -/
def Admitted (s : State) (q : RemoteReq) : Prop :=
  let need := RemoteKind.rights q.kind
  ∃ k r w a first last, k < 4 ∧ WindowIs (wordAt s.mem.byte (s.pod.swtbase + 64 * q.src.toNat + 16 * k) 16) r w a first last ∧
    (need.1 = true → r = 1) ∧ (need.2.1 = true → w = 1) ∧ (need.2.2 = true → a = 1) ∧
    ∀ b ∈ RemoteReq.span q, populated b = true ∧ inHost b = false ∧ first ≤ b / 65536 ∧ b / 65536 ≤ last

/-- What a remote barrier operation makes of an object (R200, R201). -/
def remoteBarrier (op : BarOp) (b : BarObj) : Except Nat BarObj :=
  match op with
  | .init n => if n.toNat = 0 ∨ 65535 < n.toNat then .error 1 else .ok ⟨n.toNat, 0, false, 0, 0⟩
  | .arrive => if b.arr = b.exp then .error 2 else .ok (phaseCheck { b with arr := (b.arr + 1) % 2 ^ 16 })
  | .expect n =>
    let e := n.toNat
    if 2 ^ 28 ≤ e then .error 0
    else if e ≤ b.credit then .ok (phaseCheck { b with credit := b.credit - e })
    else if 2 ^ 28 ≤ b.pend + (e - b.credit) then .error 0
    else .ok (phaseCheck { b with pend := b.pend + (e - b.credit), credit := 0 })
  | .read => .ok b
  | .credit w =>
    if w ≤ b.pend then .ok (phaseCheck { b with pend := b.pend - w })
    else .ok (phaseCheck { b with pend := 0, credit := min (b.credit + (w - b.pend)) (2 ^ 28 - 1) })

/-- A request that has been sent and still waits for its answer, while no packet of an operation that is over is held back. -/
abbrev Waiting (s : State) (r : RemoteOut) : Prop :=
  (s.pod.reqs.filter fun x => x.id == r.id) = [r] ∧ r.ans = none ∧ r.dead = false ∧ r.forming = false ∧
    ∀ x ∈ s.pod.reqs, x.use = .gone → x.forming = false

end Sys2Proof.Machine
end

