-- ==== Sys2Proof/Certificates/Slice0/Obligations.lean ====
section
/-! DEFINITION. The statements for the provers. In all of them `Ready s c i` says that instruction i can issue in the
next issue slot of s, c being the state without the slot, the team and the fragment; `c.after i time s' t'` is the state
in which the team, with the effect t', has gone on with the next instruction. -/

open Sys2Proof Sys2Proof.Machine

/-! Scalar, control and system instructions. -/

/-- R116 to R119, R114, R138 to R140: every scalar function sets S[D] to the value of the rules; its result is ready after
the front cycles of R114, and nothing else changes. It completes in every state in which it can issue. -/
def Obligations.ScalarResults : Prop :=
  ∀ (s : State) (c : Ctx) (i : Instr) (d : Nat) (x : DWord) (k : Nat),
    Ready s c i → i.WellFormed → scalarResult c i = some (d, x, k) →
      exec i s = .next (c.after i (.front k) c.s (c.t.writeS d x)) ∧
      (¬ c.t.Arrives c.fi (c.t.nextPc c.fi) → ∃ n, exec i s = .next n ∧ ScalarOnly c d x n)

/-- R117 on its own, for the four division functions: truncation toward zero, the sign of the remainder, and the two cases
without a quotient, which do not trap. -/
def Obligations.DivisionCorners : Prop :=
  ∀ (s : State) (c : Ctx) (d a b : BitVec 7),
    let x := c.t.readS a.toNat
    let y := c.t.readS b.toNat
    (Ready s c (.sDiv d a b) → ∃ q, exec (.sDiv d a b) s = .next (c.after (.sDiv d a b) (.front 36) c.s (c.t.writeS d.toNat q)) ∧
      (y = 0 → q = 0xFFFFFFFFFFFFFFFF) ∧
      (x.toInt = -2 ^ 63 → y.toInt = -1 → q = 0x8000000000000000) ∧
      (y ≠ 0 → ¬ (x.toInt = -2 ^ 63 ∧ y.toInt = -1) → q.toInt = x.toInt.tdiv y.toInt)) ∧
    (Ready s c (.sRem d a b) → ∃ r, exec (.sRem d a b) s = .next (c.after (.sRem d a b) (.front 36) c.s (c.t.writeS d.toNat r)) ∧
      (y = 0 → r = x) ∧
      (x.toInt = -2 ^ 63 → y.toInt = -1 → r = 0) ∧
      (y ≠ 0 → ¬ (x.toInt = -2 ^ 63 ∧ y.toInt = -1) → r.toInt = x.toInt - x.toInt.tdiv y.toInt * y.toInt)) ∧
    (Ready s c (.sDivu d a b) → ∃ q, exec (.sDivu d a b) s = .next (c.after (.sDivu d a b) (.front 36) c.s (c.t.writeS d.toNat q)) ∧
      (y = 0 → q = 0xFFFFFFFFFFFFFFFF) ∧ (y ≠ 0 → q.toNat = x.toNat / y.toNat)) ∧
    (Ready s c (.sRemu d a b) → ∃ r, exec (.sRemu d a b) s = .next (c.after (.sRemu d a b) (.front 36) c.s (c.t.writeS d.toNat r)) ∧
      (y = 0 → r = x) ∧ (y ≠ 0 → r.toNat = x.toNat - x.toNat / y.toNat * y.toNat))

/-- R127 to R129, R135: a branch that is taken moves the fragment to the target; otherwise it goes on with the next
instruction. No register changes, and of the loop stack a taken branch leaves what R133 says. JMPR to a misaligned target traps, and
nothing else changes. -/
def Obligations.Branches : Prop :=
  (∀ (s : State) (c : Ctx) (a : BitVec 7), Ready s c (.jmpr a) → (c.t.readS a.toNat).toNat % 4 ≠ 0 →
    ∃ n, exec (.jmpr a) s = .next n ∧ Trapped c c.t 0x05 (addr57 (c.t.readS a.toNat)) (.precise c.pc) n) ∧
  ∀ (s : State) (c : Ctx) (i : Instr) (taken : Bool) (target : DWord),
    Ready s c i → branch c i = some (taken, target) →
      exec i s = .next (if taken then c.moved c.s c.t c.t.linkDepth target else c.after i (.front 1) c.s c.t) ∧
      (taken = false → ¬ c.t.Arrives c.fi (c.t.nextPc c.fi) → ∃ n, exec i s = .next n ∧ NothingWritten c n) ∧
      (taken = true → ¬ c.t.Arrives c.fi target → ∃ n u, exec i s = .next n ∧
        GoneTo c c.s c.t target (loopsLeft c.t.tm c.t.ctl.loop c.t.linkDepth target) n u)

/-- R39, R40, R41, R138, R139: SYSR gives the register's value after two front cycles, SYSW writes what the register keeps of
S[A], and either is a reserved use where R39 allows none. MODE.SET closes the windows (R52) and then merges under its mask, and is a reserved
use where the result would hold a reserved value. -/
def Obligations.SystemRegisters : Prop :=
  ∀ (s : State) (c : Ctx) (a b d : BitVec 7),
    (Ready s c (.sysr d b) →
      (∀ x, sysValue c b.toNat = some x →
        exec (.sysr d b) s = .next (c.after (.sysr d b) (.front 2) c.s (c.t.writeS d.toNat x)) ∧
        (¬ c.t.Arrives c.fi (c.t.nextPc c.fi) → ∃ n, exec (.sysr d b) s = .next n ∧ ScalarOnly c d.toNat x n)) ∧
      (sysValue c b.toNat = none →
        ∃ n, exec (.sysr d b) s = .next n ∧ Refused c ((encode (.sysr d b)).getD 0) 1 n)) ∧
    (Ready s c (.sysw a b) →
      (∀ t', sysWritten c.t b.toNat (c.t.readS a.toNat) = some t' →
        exec (.sysw a b) s = .next (c.after (.sysw a b) (.front 1) c.s t') ∧
        (¬ c.t.Arrives c.fi (c.t.nextPc c.fi) → ∃ n, exec (.sysw a b) s = .next n ∧ GoneOn c t' n)) ∧
      (sysWritten c.t b.toNat (c.t.readS a.toNat) = none →
        ∃ n, exec (.sysw a b) s = .next n ∧ Refused c ((encode (.sysw a b)).getD 0) 1 n)) ∧
    (Ready s c (.modeSet a b) →
      let m : Word := (c.t.closeAll.readS b.toNat).setWidth 32
      let v : Word := (c.t.mode &&& ~~~m) ||| ((c.t.closeAll.readS a.toNat).setWidth 32 &&& m)
      let t' : Team := { c.t.closeAll with regs.mode := v }
      (modeAllowed v →
        exec (.modeSet a b) s = .next (c.after (.modeSet a b) (.front 1) c.s t') ∧
        (¬ c.t.Arrives c.fi (c.t.nextPc c.fi) → ∃ n, exec (.modeSet a b) s = .next n ∧ GoneOn c t' n)) ∧
      (¬ modeAllowed v → ∃ n, exec (.modeSet a b) s = .next n ∧ Refused c ((encode (.modeSet a b)).getD 0) 1 n))

/-- R130, R137, R142: NOP changes nothing, RECV sets the pending fuse address, PERF the team's request, and YIELD withholds
the team from the front cycle of its issue on (it counts as issued and goes on at the next instruction). -/
def Obligations.PlainFunctions : Prop :=
  ∀ (s : State) (c : Ctx) (i : Instr) (t' : Team), Ready s c i →
    (i = .nop ∧ t' = c.t) ∨
    (∃ off, i = .recv off ∧ t' = { c.t with ctl.pend := some (pcPlus c.pc off.toInt) }) ∨
    (∃ a, i = .perf a ∧ t' = { c.t with sched.level := BitVec.ofNat 2 (c.t.readS a.toNat).toNat }) ∨
    (∃ now, i = .yield ∧ now = ((c.s.clusters[c.t.sched.cluster]?).elim 0 fun k => k.cyclef) ∧
      t' = { c.t with iss.withheld := some (c.fi, .yield now) }) →
    exec i s = .next (c.after i (.front 1) c.s t') ∧
    (¬ c.t.Arrives c.fi (c.t.nextPc c.fi) → ∃ n, exec i s = .next n ∧ GoneOn c t' n)

/-- R34, R127, R135: CALL and CALLR push PC + 4 and go to the target; with 16 entries live the oldest entry is first stored
at LSP, which then rises by 8. The loop stack stays (R133). In a split team, at a misaligned target, with a misaligned LSP and where
the spill cannot be made (0x0F) they trap, and nothing is pushed. It rests on choices or readings of the model: log 54. -/
def Obligations.Calls : Prop :=
  ∀ (s : State) (c : Ctx) (i : Instr) (target : DWord), Ready s c i →
    (∃ off, i = .call off ∧ target = pcPlus c.pc off.toInt) ∨ (∃ a, i = .callr a ∧ target = c.t.readS a.toNat) →
    let back := pcPlus c.pc 1
    let lsp := c.t.sys.lsp
    let spill : List StoreAcc := [(⟨1024 + c.fi, lsp.toNat, 8⟩, toBytes 8 (c.t.ctl.link.getLastD 0).toNat)]
    (c.t.split = true → ∃ n, exec i s = .next n ∧ Trapped c c.t 0x04 3 (.precise c.pc) n) ∧
    (c.t.split = false → target.toNat % 4 ≠ 0 → (∃ a, i = .callr a) →
      ∃ n, exec i s = .next n ∧ Trapped c c.t 0x05 (addr57 target) (.precise c.pc) n) ∧
    (c.t.split = false → (target.toNat % 4 = 0 ∨ ∃ off, i = .call off) →
      (c.t.ctl.link.length < 16 → ¬ c.t.Arrives c.fi (addr57 target) →
        ∃ n u, exec i s = .next n ∧
          GoneTo c c.s { c.t with ctl.link := back :: c.t.ctl.link } (addr57 target) c.t.ctl.loop n u) ∧
      (16 ≤ c.t.ctl.link.length → lsp.toNat % 8 ≠ 0 → ∃ n, exec i s = .next n ∧ Trapped c c.t 0x05 lsp (.precise c.pc) n) ∧
      (16 ≤ c.t.ctl.link.length → lsp.toNat % 8 = 0 → c.s.pathsFull c.t [pathOf lsp.toNat + 1] = false →
        (c.s.xlate c.t (lsp.toNat % 2 ^ 57) needW = .noPerm ∨ c.s.xlate c.t (lsp.toNat % 2 ^ 57) needW = .nonResident →
          ∃ n, exec i s = .next n ∧ Trapped c c.t 0x0F lsp .region n) ∧
        ∀ s' t' x dead, c.s.store c.t false 1 spill = .ok s' (t', some dead) → s'.team? t'.id = some x → t'.id = c.t.id →
          ∃ n, exec i s = .next n ∧ Trapped ⟨s', t', c.fi⟩ t' 0x0F lsp .region n) ∧
      (16 ≤ c.t.ctl.link.length → lsp.toNat % 8 = 0 → c.s.pathsFull c.t [pathOf lsp.toNat + 1] = false →
        ¬ c.t.Arrives c.fi (addr57 target) →
        ∀ s' t' x, c.s.store c.t false 1 spill = .ok s' (t', none) → s'.team? t'.id = some x → t'.id = c.t.id → t'.ctl = c.t.ctl →
          ∃ n u, exec i s = .next n ∧
            GoneTo c s' { t' with ctl.link := back :: c.t.ctl.link.dropLast, ctl.spilled := c.t.ctl.spilled + 1,
                                  sys.lsp := addr57 (t'.sys.lsp + 8) } (addr57 target) c.t.ctl.loop n u))

/-- R34, R135, R44: RET goes to the newest return address and pops it; an empty stack with entries spilled first takes one
back from below LSP, and with none spilled it underflows. A refill traps with a misaligned LSP, where the word cannot be loaded (0x0F)
or is poisoned (0x0A), and at a misaligned entry, and nothing is popped. A pop below the region entry's depth makes the kernel entry
the restart point. It rests on choices or readings of the model: logs 54 and 72. -/
def Obligations.Returns : Prop :=
  ∀ (s : State) (c : Ctx), Ready s c .ret →
    let lost := fun (d : Nat) => c.t.rep.kentry || decide (d < c.t.rep.snap.linkDepth)
    let loops := fun (d : Nat) (target : DWord) => loopsKept c.t.tm (loopsLeft c.t.tm c.t.ctl.loop c.t.linkDepth target) d
    (c.t.split = true → ∃ n, exec .ret s = .next n ∧ Trapped c c.t 0x04 3 (.precise c.pc) n) ∧
    (c.t.split = false →
      (c.t.ctl.link = [] → c.t.ctl.spilled = 0 → ∃ n, exec .ret s = .next n ∧ Trapped c c.t 0x03 1 (.precise c.pc) n) ∧
      (∀ e r, c.t.ctl.link = e :: r → e.toNat % 4 ≠ 0 →
        ∃ n, exec .ret s = .next n ∧ Trapped c c.t 0x05 (addr57 e) (.precise c.pc) n) ∧
      (∀ e r, c.t.ctl.link = e :: r → e.toNat % 4 = 0 → ¬ c.t.Arrives c.fi (addr57 e) →
        ∃ n u, exec .ret s = .next n ∧ GoneTo c c.s
          { c.t with ctl.link := r, rep.kentry := lost (r.length + c.t.ctl.spilled) } (addr57 e)
          (loops (r.length + c.t.ctl.spilled) (addr57 e)) n u) ∧
      (c.t.ctl.link = [] → 0 < c.t.ctl.spilled →
        let lsp := addr57 (c.t.sys.lsp - 8)
        let meets := c.s.xlate c.t (lsp.toNat % 2 ^ 57) needR
        (lsp.toNat % 8 ≠ 0 → ∃ n, exec .ret s = .next n ∧ Trapped c c.t 0x05 lsp (.precise c.pc) n) ∧
        (lsp.toNat % 8 = 0 → meets = .noPerm ∨ meets = .nonResident → ∃ n, exec .ret s = .next n ∧ Trapped c c.t 0x0F lsp .region n) ∧
        (∀ pa cached, lsp.toNat % 8 = 0 → Landed c needR lsp.toNat pa cached → (cached = true → c.s.ms.l1 = []) → pa / 4 * 4 ∈ c.s.ms.poison →
          ∃ n, exec .ret s = .next n ∧ Trapped c c.t 0x0A (BitVec.ofNat 64 (8 + lsp.toNat % 2 ^ 57 / 256 * 256)) .region n) ∧
        (∀ s' a bs, lsp.toNat % 8 = 0 → c.s.load c.t false [⟨1024 + c.fi, lsp.toNat, 8⟩] = .ok s' [(a, .data bs)] →
          let e : DWord := BitVec.ofNat 64 (ofBytes bs)
          e.toNat % 4 ≠ 0 → ∃ n, exec .ret s = .next n ∧ Trapped c c.t 0x05 (addr57 e) (.precise c.pc) n) ∧
        (lsp.toNat % 8 = 0 → ∀ s' a bs, c.s.load c.t false [⟨1024 + c.fi, lsp.toNat, 8⟩] = .ok s' [(a, .data bs)] →
          s'.team? c.t.id ≠ none →
          let e : DWord := BitVec.ofNat 64 (ofBytes bs)
          e.toNat % 4 = 0 → ¬ c.t.Arrives c.fi (addr57 e) →
          ∃ n u, exec .ret s = .next n ∧ GoneTo c s'
            { s'.resync c.t with ctl.spilled := c.t.ctl.spilled - 1, sys.lsp := lsp, rep.kentry := lost (c.t.ctl.spilled - 1) }
            (addr57 e) (loops (c.t.ctl.spilled - 1) (addr57 e)) n u)))

/-- R132, R133: LOOP without a body goes on; with count 0 it goes past the body; else it pushes an entry, and with four
entries live, or in a split team, it traps. The rows of R133 for the issue of an entry's last instruction are shown by NOP: with passes
left the fragment goes to the first address and one pass fewer remains; with one left, or in a split team, the entry is popped and the
fragment goes on past the body. In trap mode, at another address or at another link depth the entry stays and the fragment goes on
at PC + 4. It rests on choices or readings of the model: logs 39 and 54. -/
def Obligations.Loops : Prop :=
  (∀ (s : State) (c : Ctx) (r : BitVec 7) (off : BitVec 19), Ready s c (.loop r off) →
    let i : Instr := .loop r off
    let count := c.t.readS r.toNat
    (off.toInt ≤ 0 → exec i s = .next (c.after i (.front 1) c.s c.t) ∧
      (¬ c.t.Arrives c.fi (c.t.nextPc c.fi) → ∃ n, exec i s = .next n ∧ NothingWritten c n)) ∧
    (0 < off.toInt → count = 0 → exec i s = .next (c.moved c.s c.t c.t.linkDepth (pcPlus c.pc (off.toInt + 1)))) ∧
    (0 < off.toInt → count ≠ 0 → 4 ≤ c.t.ctl.loop.length → ∃ n, exec i s = .next n ∧ Trapped c c.t 0x04 2 (.precise c.pc) n) ∧
    (0 < off.toInt → count ≠ 0 → c.t.ctl.loop.length < 4 → c.t.split = true →
      ∃ n, exec i s = .next n ∧ Trapped c c.t 0x04 3 (.precise c.pc) n) ∧
    (0 < off.toInt → count ≠ 0 → c.t.ctl.loop.length < 4 → c.t.split = false → ¬ c.t.Arrives c.fi (pcPlus c.pc 1) →
      ∃ n u, exec i s = .next n ∧ GoneTo c c.s c.t (pcPlus c.pc 1)
        (⟨pcPlus c.pc 1, pcPlus c.pc off.toInt, count, c.t.linkDepth⟩ :: c.t.ctl.loop) n u)) ∧
  (∀ (s : State) (c : Ctx) (e : LoopEntry) (r : List LoopEntry), Ready s c .nop → c.t.ctl.loop = e :: r →
    ¬ c.t.Arrives c.fi (c.t.nextPc c.fi) →
    let atEnd := c.t.tm = false ∧ e.last = c.pc ∧ e.linkDepth = c.t.linkDepth
    ∃ n u, exec .nop s = .next n ∧ Onward c n u ∧
      (atEnd → c.t.split = false → 1 < e.remaining.toNat →
        (u.frag c.fi).pc = addr57 e.first ∧ u.ctl.loop = { e with remaining := e.remaining - 1 } :: r) ∧
      (atEnd → c.t.split = true → (u.frag c.fi).pc = addr57 (e.last + 4) ∧ u.ctl.loop = r) ∧
      (atEnd → c.t.split = false → e.remaining.toNat ≤ 1 → (∀ e' r', r = e' :: r' → e'.last ≠ c.pc ∨ e'.linkDepth ≠ c.t.linkDepth) →
        (u.frag c.fi).pc = addr57 (e.last + 4) ∧ u.ctl.loop = r) ∧
      (¬ atEnd → (u.frag c.fi).pc = pcPlus c.pc 1 ∧ u.ctl.loop = c.t.ctl.loop))

/-- R36, R131: BRD with no lane, or every lane, on one side branches or goes on and clears the pending address; with lanes on
both it splits the fragment at the next level, which takes the pending address; without a pending address, or without room
in the split table, it traps. It rests on choices or readings of the model: logs 54 and 76. -/
def Obligations.DivergentBranch : Prop :=
  ∀ (s : State) (c : Ctx) (p : BitVec 4) (off : BitVec 19), Ready s c (.brd p off) →
    let i : Instr := .brd p off
    let yes := c.f.mask &&& c.t.stackTop c.f &&& c.t.readP p.toNat
    let no := c.f.mask &&& ~~~yes
    let target := pcPlus c.pc off.toInt
    let t' : Team := { c.t with ctl.pend := none }
    (yes = 0 → exec i s = .next (c.after i (.front 1) c.s t')) ∧
    (yes ≠ 0 → no = 0 → exec i s = .next (c.moved c.s t' c.t.linkDepth target)) ∧
    (yes ≠ 0 → no ≠ 0 → c.t.ctl.pend = none → ∃ n, exec i s = .next n ∧ Trapped c c.t 0x04 1 (.precise c.pc) n) ∧
    (yes ≠ 0 → no ≠ 0 → c.t.ctl.pend ≠ none → ((∀ f ∈ c.t.ctl.frags, f.live = true) ∨ 8 ≤ c.f.level) →
      ∃ n, exec i s = .next n ∧ Trapped c c.t 0x04 0 (.precise c.pc) n) ∧
    (∀ a, yes ≠ 0 → no ≠ 0 → c.t.ctl.pend = some a → (∃ f ∈ c.t.ctl.frags, f.live = false) → c.f.level < 8 →
      a ≠ target → a ≠ pcPlus c.pc 1 →
      ∃ n u k, exec i s = .next n ∧ n.team? c.t.id = some u ∧ SameBut c.t.id c.s n ∧ (∀ x, n.mem.byte x = c.s.mem.byte x) ∧
        (c.t.frag k).live = false ∧ k < c.t.ctl.frags.length ∧
        u.frag c.fi = ⟨yes, target, c.f.depth, c.f.level + 1, .running, (c.t.ctl.splits, c.f.depth) :: c.f.path, false⟩ ∧
        u.frag k = ⟨no, pcPlus c.pc 1, c.f.depth, c.f.level + 1, .running, (c.t.ctl.splits, c.f.depth) :: c.f.path, false⟩ ∧
        (∀ j, j ≠ c.fi → j ≠ k → u.frag j = c.t.frag j) ∧
        u.ctl.fuse = setAt c.t.ctl.fuse c.f.level (some a) ∧ u.ctl.pend = none ∧ u.ctl.link = c.t.ctl.link ∧
        u.ctl.pstk = c.t.ctl.pstk ∧ u.regs = c.t.regs ∧ u.sys = c.t.sys ∧
        u.iss = { c.t.iss with issued := c.t.iss.issued + 1, stalled := none, charge := none, begun := none })

/-- R37: a fragment that comes to the fuse address of its level traps there when its predicate-stack depth is not the
splitter's, waits while another fragment of the split is on its way, and fuses when it is the last. Shown for every
instruction that goes on, with effect s' and t'. -/
def Obligations.FuseArrival : Prop :=
  ∀ (s : State) (c : Ctx) (i : Instr) (time : Time) (s' : State) (t' x : Team) (id d : Nat) (r : List (Nat × Nat)),
    Ready s c i → s'.team? t'.id = some x → (t'.frag c.fi).st = .running → t'.Arrives c.fi (t'.nextPc c.fi) →
    (t'.frag c.fi).path = (id, d) :: r →
    let f := { t'.frag c.fi with pc := t'.nextPc c.fi, replay := false }
    let n := c.after i time s' t'
    ((t'.frag c.fi).depth ≠ d → t'.tm = false → ∃ u v, n.team? t'.id = some u ∧ v.frag c.fi = f ∧ v.regs = t'.regs ∧ v.sys = t'.sys ∧
      TookTrap v c.fi (if d < (t'.frag c.fi).depth then 0x02 else 0x03) 2 (.precise (t'.nextPc c.fi)) u) ∧
    ((t'.frag c.fi).depth = d →
      (∃ k, k ≠ c.fi ∧ k < 8 ∧ (t'.frag k).live = true ∧ (t'.frag k).path.any (·.1 == id) = true ∧ (t'.frag k).st ≠ .waiting) →
      ∃ u, n.team? t'.id = some u ∧ u.frag c.fi = { f with st := .waiting } ∧ (∀ k, k ≠ c.fi → u.frag k = t'.frag k) ∧
        u.regs = t'.regs ∧ u.sys = t'.sys) ∧
    ((t'.frag c.fi).depth = d → c.fi < 8 → r = [] →
      (∀ k, k ≠ c.fi → k < 8 → (t'.frag k).live = true → (t'.frag k).st = .waiting ∧ (t'.frag k).path = (id, d) :: r ∧
        (t'.frag k).level = (t'.frag c.fi).level ∧ (t'.frag k).pc = t'.nextPc c.fi) →
      ∃ u k, n.team? t'.id = some u ∧ (u.frag k).st = .running ∧ (u.frag k).pc = t'.nextPc c.fi ∧ (u.frag k).level = (t'.frag c.fi).level - 1 ∧ (u.frag k).depth = d ∧
        (∀ l, (u.frag k).mask.getLsbD l = (List.range 8).any fun j => (t'.frag j).live && (t'.frag j).mask.getLsbD l) ∧
        (∀ j, j ≠ k → j < 8 → (u.frag j).live = false))

/-- R35, R136: PPUSH, PINV and PPOP act on the entries of the fragment's lanes and on its depth alone; at depth 16 and 0 they
trap. A pop below the region entry's depth makes the kernel entry the restart point (R44). -/
def Obligations.PredicateStack : Prop :=
  ∀ (s : State) (c : Ctx),
    let d := c.f.depth
    let deep := fun (t' : Team) (k : Nat) => t'.ctl = { c.t.ctl with pstk := t'.ctl.pstk, frags := setAt c.t.ctl.frags c.fi { c.f with depth := k } }
    let entry := fun (t' : Team) (e : Nat) (v : Nat → Bool) =>
      (∀ l, l < 1024 → (t'.ctl.pstk.get e).getLsbD l = if c.f.mask.getLsbD l then v l else (c.t.ctl.pstk.get e).getLsbD l) ∧
        ∀ k, k ≠ e → t'.ctl.pstk.get k = c.t.ctl.pstk.get k
    (∀ a, Ready s c (.ppush a) →
      (16 ≤ d → ∃ n, exec (.ppush a) s = .next n ∧ Trapped c c.t 0x02 0 (.precise c.pc) n) ∧
      (d < 16 → ¬ c.t.Arrives c.fi (c.t.nextPc c.fi) → ∃ n t', exec (.ppush a) s = .next n ∧ GoneOn c t' n ∧
        t' = { c.t with ctl := t'.ctl } ∧ deep t' (d + 1) ∧
        entry t' (d + 1) fun l => (c.t.stackTop c.f).getLsbD l && (c.t.readP a.toNat).getLsbD l)) ∧
    (Ready s c .pinv →
      (d = 0 → ∃ n, exec .pinv s = .next n ∧ Trapped c c.t 0x03 0 (.precise c.pc) n) ∧
      (0 < d → ¬ c.t.Arrives c.fi (c.t.nextPc c.fi) → ∃ n t', exec .pinv s = .next n ∧ GoneOn c t' n ∧
        t' = { c.t with ctl.pstk := t'.ctl.pstk } ∧
        entry t' d fun l => (if d = 1 then true else (c.t.ctl.pstk.get (d - 1)).getLsbD l) && !(c.t.ctl.pstk.get d).getLsbD l)) ∧
    (Ready s c .ppop →
      (d = 0 → ∃ n, exec .ppop s = .next n ∧ Trapped c c.t 0x03 0 (.precise c.pc) n) ∧
      (0 < d → ¬ c.t.Arrives c.fi (c.t.nextPc c.fi) → ∃ n t', exec .ppop s = .next n ∧ GoneOn c t' n ∧
        t' = { c.t with ctl := t'.ctl, rep.kentry := c.t.rep.kentry || decide (d - 1 < c.t.rep.snap.depth) } ∧
        deep t' (d - 1) ∧ t'.ctl.pstk = c.t.ctl.pstk))

/-- R137, R259 to R262: TRAP takes trap 0x0E with TPC = PC + 4 and the code in TINFO, BKPT takes 0x0D with TPC = PC; both count as
issued. In trap mode either stops the team and is kept in the double-trap record (R261). It rests on choices or readings of the
model: log 38. -/
def Obligations.TrapInstructions : Prop :=
  ∀ (s : State) (c : Ctx) (i : Instr) (cause : BitVec 8) (tinfo tpc : DWord), Ready s c i →
    (∃ d, i = .trap d ∧ cause = 0x0E ∧ tinfo = d.setWidth 64 ∧ tpc = pcPlus c.pc 1) ∨
      (i = .bkpt ∧ cause = 0x0D ∧ tinfo = 0 ∧ tpc = c.pc) →
    ∃ n u v, exec i s = .next n ∧ n.team? c.t.id = some v ∧ SameBut c.t.id c.s n ∧ (∀ a, n.mem.byte a = c.s.mem.byte a) ∧
      v = { u with iss.issued := u.iss.issued + 1, iss.stalled := none, iss.charge := none, iss.begun := none } ∧
      u.iss.issued = c.t.iss.issued ∧
      (c.t.tm = false → TookTrap c.t c.fi cause tinfo (.precise tpc) u) ∧
      (c.t.tm = true → DoubleTrapped c.t c.fi cause tinfo (.precise tpc) u)

/-- R133, R137, R264 to R266: ERET outside trap mode has no effect; at the last instruction of a loop body the fragment goes
where R133 has any instruction go there. In trap mode it leaves trap mode and releases the other fragments; with RP = 0 the
fragment goes on at TPC; with RP = 1 one fragment restarts at TPC with the snapshot, or with KENTRY = 1 with every present lane
and empty stacks, and the link stack is popped back, LSP falling by 8 for each spilled entry discarded. It rests on choices or
readings of the model: log 80. -/
def Obligations.ReturnFromTrap : Prop :=
  ∀ (s : State) (c : Ctx), Ready s c .eret →
    let sn := c.t.rep.snap
    let kentry := c.t.sys.tinfo.getLsbD 63
    let depth := if kentry then 0 else sn.linkDepth
    let drop := c.t.ctl.link.length + c.t.ctl.spilled - depth
    let hw := min drop c.t.ctl.link.length
    (c.t.tm = false → exec .eret s = .next (c.after .eret (.front 1) c.s c.t)) ∧
    (c.t.tm = true → (c.t.sys.tcause.getLsbD 8 = false → ¬ c.t.Arrives c.fi c.t.sys.tpc) →
      ∃ n u, exec .eret s = .next n ∧ n.team? c.t.id = some u ∧ SameBut c.t.id c.s n ∧ (∀ a, n.mem.byte a = c.s.mem.byte a) ∧
        u.sys.tcause = c.t.sys.tcause &&& ~~~512 ∧ u.iss.trapFrag = none ∧ u.regs = c.t.regs ∧
        u.iss.issued = c.t.iss.issued + 1 ∧
        u.eng = { c.t.eng with q5 := c.t.eng.q5.map fun o => { o with suspended := none } } ∧
        (c.t.sys.tcause.getLsbD 8 = false →
          u.frag c.fi = { c.f with pc := c.t.sys.tpc } ∧ (∀ k, k ≠ c.fi → u.frag k = c.t.frag k) ∧
          u.ctl = { c.t.ctl with frags := u.ctl.frags } ∧ u.rep = c.t.rep ∧ u.iss.bypass = c.t.iss.bypass ∧
          u.sys = { c.t.sys with tcause := u.sys.tcause }) ∧
        (c.t.sys.tcause.getLsbD 8 = true →
          (∀ k, 0 < k → (u.frag k).live = false) ∧ (∀ k, k < 8 → u.ctl.fuse[k]? = some none) ∧ u.iss.bypass = [] ∧
          (u.frag 0).pc = c.t.sys.tpc ∧ (u.frag 0).level = 0 ∧ (u.frag 0).st = .running ∧
          u.ctl.link = c.t.ctl.link.drop hw ∧ u.ctl.spilled = c.t.ctl.spilled - (drop - hw) ∧
          u.sys.lsp = addr57 (c.t.sys.lsp - BitVec.ofNat 64 (8 * (drop - hw))) ∧ u.ctl.pstk = c.t.ctl.pstk ∧
          (kentry = false → (u.frag 0).mask = sn.mask ∧ (u.frag 0).depth = sn.depth ∧ u.ctl.pend = sn.pend ∧
            u.ctl.loop = c.t.ctl.rloop ∧ u.rep = { c.t.rep with consumed := 0 } ∧ u.sys.regpc = c.t.sys.regpc) ∧
          (kentry = true → (∀ l, l < 1024 → (u.frag 0).mask.getLsbD l = decide (l < 32 * c.t.const.h)) ∧ (u.frag 0).depth = 0 ∧
            u.ctl.pend = none ∧ u.ctl.loop = [] ∧ u.ctl.rloop = [] ∧ u.rep.log = [] ∧ u.sys.regpc = c.t.const.entry)))

/-- R43, R44, R141: REGION makes the next instruction the region entry: REGPC, a snapshot of the mask, the depths and the pending
address, an empty log, a copy of the loop stack, an empty bypass; the windows close. In trap mode and in a split team it only closes
the windows. It rests on choices or readings of the model: log 54. -/
def Obligations.RegionEntry : Prop :=
  ∀ (s : State) (c : Ctx), Ready s c .region → ¬ c.t.Arrives c.fi (c.t.nextPc c.fi) →
    ((c.t.tm = true ∨ c.t.split = true) → exec .region s = .next (c.after .region (.front 1) c.s c.t.closeAll) ∧
      ∃ n, exec .region s = .next n ∧ GoneOn c c.t.closeAll n) ∧
    (c.t.tm = false → c.t.split = false →
      ∃ n u, exec .region s = .next n ∧ n.team? c.t.id = some u ∧ SameBut c.t.id c.s n ∧ (∀ a, n.mem.byte a = c.s.mem.byte a) ∧
        u.sys = { c.t.sys with regpc := c.t.nextPc c.fi } ∧ u.rep.log = [] ∧ u.rep.consumed = 0 ∧ u.rep.kentry = false ∧
        u.rep.snap = ⟨c.t.mask, c.f.depth, c.t.linkDepth, c.t.ctl.pend⟩ ∧ u.ctl.rloop = u.ctl.loop ∧
        u.ctl = { c.t.ctl with frags := u.ctl.frags, loop := u.ctl.loop, rloop := u.ctl.rloop } ∧
        u.frag c.fi = { c.f with pc := c.t.nextPc c.fi, replay := false } ∧ (∀ k, k ≠ c.fi → u.frag k = c.t.frag k) ∧
        u.iss.bypass = [] ∧ u.iss.windows = c.t.closeAll.iss.windows ∧ ((∀ w ∈ c.t.iss.windows, w.waits = []) → u.iss.windows = []) ∧
        u.iss.issued = c.t.iss.issued + 1 ∧ u.regs = c.t.closeAll.regs ∧
        u.eng = c.t.eng ∧ u.maps = c.t.maps ∧ u.const = c.t.const ∧ u.sched = c.t.sched)

/-- R36, R37, R141: EXIT closes the windows and ends the issuing fragment; with the last one the team has ended. While others of its
split are on their way, the other fragments stay as they are, and one that is left alone takes entry 0. Where all the others wait at
the fuse address they fuse: the OR of their masks, that address, level n - 1 and the depth the splitting fragment had. -/
def Obligations.ExitEndsFragment : Prop :=
  ∀ (s : State) (c : Ctx), Ready s c .exit →
    let ofSplit := fun (id k : Nat) => k ≠ c.fi ∧ k < 8 ∧ (c.t.frag k).live = true ∧ (c.t.frag k).path.any (·.1 == id) = true
    let others := fun (k : Nat) => k ≠ c.fi ∧ (c.t.frag k).live = true
    ∃ n u, exec .exit s = .next n ∧ n.team? c.t.id = some u ∧ SameBut c.t.id c.s n ∧ (∀ a, n.mem.byte a = c.s.mem.byte a) ∧
      u.iss.windows = c.t.closeAll.iss.windows ∧ u.iss.issued = c.t.iss.issued + 1 ∧ u.regs = c.t.closeAll.regs ∧
      ((∀ k, ¬ others k) → u.sched.life = .ended ∧ ∀ k, (u.frag k).live = false) ∧
      (c.f.path = [] ∨ (∃ id d r k, c.f.path = (id, d) :: r ∧ ofSplit id k ∧ (c.t.frag k).st ≠ .waiting) →
        ((∃ j k, j ≠ k ∧ others j ∧ others k) → u.sched = c.t.sched ∧ u.frag c.fi = freeFrag ∧ ∀ k, k ≠ c.fi → u.frag k = c.t.frag k) ∧
        (∀ k, others k → (∀ j, others j → j = k) → u.sched = c.t.sched ∧ u.frag 0 = c.t.frag k ∧ ∀ j, j ≠ 0 → (u.frag j).live = false)) ∧
      (∀ id d r k₀ (a : DWord), c.f.path = (id, d) :: r → ofSplit id k₀ →
        (∀ k, ofSplit id k → (c.t.frag k).st = .waiting ∧ (c.t.frag k).path = (id, d) :: r ∧ (c.t.frag k).level = c.f.level ∧ (c.t.frag k).pc = a) →
        (r = [] ∨ (2 ≤ c.f.level ∧ c.t.ctl.fuse.getD (c.f.level - 2) none ≠ some a)) →
        ∃ k, u.sched = c.t.sched ∧
          u.frag k = { (u.frag k) with pc := a, depth := d, level := c.f.level - 1, st := .running, path := r, replay := false } ∧
          (∀ l, (u.frag k).mask.getLsbD l = true ↔ ∃ j, ofSplit id j ∧ (c.t.frag j).mask.getLsbD l = true) ∧
          (∀ j, j ≠ k → ofSplit id j ∨ j = c.fi → (u.frag j).live = false) ∧
          (∀ j, j ≠ k → j ≠ c.fi → ¬ ofSplit id j → u.frag j = c.t.frag j) ∧ ((∀ j, others j → ofSplit id j) → k = 0))

/-- R89, R92, R97 to R100: an instruction that names a register beyond the team's budget, tiles or tables is a reserved
encoding, for every encoded instruction, and nothing of it is done. Majors 0x2F to 0x3F are always reserved; a word of major 0x3F traps
whatever PROBE holds, any other has the fate of R99. It rests on choices or readings of the model: log 71. -/
def Obligations.ReservedWords : Prop :=
  (∀ (s : State) (c : Ctx) (i : Instr) (w : Word), encode i = some w → s.ctx? = some c →
    c.t.operandsOk (Instr.operands c.t i) = false → ∃ n, exec i s = .next n ∧ Refused c w 0 n) ∧
  ((∀ w : Word, 0x2F * 2 ^ 26 ≤ w.toNat → ∃ e, decode w = .error e) ∧
  ∀ (s : State) (c : Ctx) (w : Word) (e : DecodeError), s.ctx? = some c → decode w = .error e →
    (w.toNat / 2 ^ 26 = 0x3F → ∃ n, exec (.reservedEncoding w) s = .next n ∧
      Trapped c c.t 0x01 (BitVec.ofNat 64 (w.toNat + 2 * 2 ^ 32)) (.precise c.pc) n) ∧
    (w.toNat / 2 ^ 26 ≠ 0x3F → ∃ n, exec (.reservedEncoding w) s = .next n ∧ Refused c w 0 n))

/-- R52, for every encoded instruction: while a result that an operand waits for is not ready, the instruction stays unissued: no
register, flag, counter or PC changes. -/
def Obligations.InterlockStalls : Prop :=
  ∀ (s : State) (c : Ctx) (i : Instr) (w : Word), encode i = some w → s.ctx? = some c →
    c.t.operandsOk (Instr.operands c.t i) = true →
    c.s.interlocked c.t i (Instr.operands c.t i) = true →
    ∃ n u, exec i s = .next n ∧ n.team? c.t.id = some u ∧ SameBut c.t.id c.s n ∧
      u.iss.stalled = some .interlock ∧ u.regs = c.t.regs ∧ u.sys = c.t.sys ∧ u.ctl = c.t.ctl ∧ u.rep = c.t.rep ∧ u.eng = c.t.eng ∧
      u.iss.issued = c.t.iss.issued ∧ u.iss.flights = c.t.iss.flights ∧ u.iss.windows = c.t.iss.windows ∧
      (∀ a, n.mem.byte a = c.s.mem.byte a)

/-! Fetch, decode, step. -/

/-- A step runs the decoded instruction: where the fragment in the next slot may issue, no window is due, no instruction is under way and
no fault is to be taken, the step fetches the word at its PC, decodes it and executes the instruction in the state that the fetch leaves.
An instruction under way goes on from the word that was decoded for it. -/
def Obligations.StepRunsDecoded : Prop :=
  ∀ (s s' : State) (id fi : Nat) (rest : List (Nat × Nat)) (t : Team) (w : Word) (i : Instr),
    s.slots = (id, fi) :: rest → s.team? id = some t → s.mayIssue t fi = true → dueWindows t = [] → decode w = .ok i →
    (t.iss.begun = none → (t.tm = true ∨ t.iss.faults = []) → s.fetch t (t.frag fi).pc = .word s' w → step s = exec i s') ∧
    (∀ k, t.iss.begun = some (k, w) → step s = exec i s)

/-- R89, R113, R134, R143, R251: a fetch with no word fetched ahead, none in the loop buffer and no copy in the cluster's
instruction cache gives the four bytes at the translated address, least significant first; only the cache and the loop buffer
change, and of a poisoned word the step raises 0x0A, which R275 says of a load and the model of a fetch too. A word fetched
ahead is used up. Where the address does not translate to resident memory with execute permission, the step raises 0x07 with the
address in TINFO, whatever has been fetched ahead. It rests on choices or readings of the model: logs 42 and 64. -/
def Obligations.FetchedWord : Prop :=
  ∀ (s : State) (t : Team) (pc : DWord),
    let raises := fun (cause : BitVec 8) (tinfo : DWord) => ∀ (id fi : Nat) (rest : List (Nat × Nat)),
      s.slots = (id, fi) :: rest → s.team? id = some t → (t.frag fi).pc = pc → s.mayIssue t fi = true → dueWindows t = [] →
      t.iss.begun = none → t.iss.faults = [] → t.tm = false →
      ∃ n u, step s = .next n ∧ n.team? id = some u ∧ TookTrap t fi cause tinfo .region u
    (∀ pa, s.xlate t pc.toNat needX = .ok (.home pa) → t.iss.ahead.find? (·.1 == pc) = none →
      (∀ k c, s.clusters[t.sched.cluster]? = some k → k.cores[t.sched.core]? = some c → ∀ w ∈ c.loopBuf, w.team ≠ t.id ∨ w.va ≠ pc.toNat) →
      (s.ms.icache.find? fun c => c.cluster == t.sched.cluster && c.va == pc.toNat && c.pa == pa) = none →
      (pa / 4 * 4 ∉ s.ms.poison →
        ∃ s' w, s.fetch t pc = .word s' w ∧ s' = { s with ms.icache := s'.ms.icache, clusters := s'.clusters } ∧
          w.toNat = (s.mem.byte pa).toNat + 2 ^ 8 * (s.mem.byte (pa + 1)).toNat + 2 ^ 16 * (s.mem.byte (pa + 2)).toNat +
            2 ^ 24 * (s.mem.byte (pa + 3)).toNat) ∧
      (pa / 4 * 4 ∈ s.ms.poison → raises 0x0A (BitVec.ofNat 64 (8 + pc.toNat % 2 ^ 57 / 256 * 256)))) ∧
    (∀ pa w r, s.xlate t pc.toNat needX = .ok (.home pa) → t.iss.ahead = (pc, w) :: r →
      ∃ s', s.fetch t pc = .word s' w ∧
        s' = { s.setTeam { t with iss.ahead := r.filter fun x => x.1 != pc } with clusters := s'.clusters }) ∧
    ((∀ pa, s.xlate t pc.toNat needX ≠ .ok (.home pa)) → raises 0x07 pc)

/-- The order of a step: in the slot of a fragment its due windows close first (R50), then a pending fault is taken outside trap
mode (R263), then the word at its PC is executed, as a reserved encoding where it does not decode. A slot whose fragment may not
issue is passed over, and what its selection charged is given back: the quanta, the core's class run, and the team has waited
one more cycle. That this is given back, and that an instruction under way goes on before a fault is taken, are readings of the
model. With no slot the next event of the agenda happens, and with none a cluster selects (R321). It rests on choices or
readings of the model: logs 1 and 14. -/
def Obligations.StepOrder : Prop :=
  ∀ (s : State),
    (∀ id fi rest t, s.slots = (id, fi) :: rest → s.team? id = some t →
      (s.mayIssue t fi = false → ∃ n u, step s = .next n ∧ n.team? id = some u ∧ SameBut id { s with slots := rest } n ∧
        (t.iss.charge = none → u = t ∧ n.clusters = s.clusters) ∧
        (∀ ch, t.iss.charge = some ch →
          u = { t with iss.charge := none, sched.waits := ch.waits + 1, sched.boosted := ch.boosted || decide (4096 ≤ ch.waits + 1) } ∧
          (∀ j, j ≠ t.sched.cluster → n.clusters[j]? = s.clusters[j]?) ∧
          ∀ k, s.clusters[t.sched.cluster]? = some k → ∃ k', n.clusters[t.sched.cluster]? = some k' ∧
            k' = { k with aperture := k.aperture + ch.weight, cores := k'.cores } ∧
            (∀ j, j ≠ t.sched.core → k'.cores[j]? = k.cores[j]?) ∧
            ∀ x, k.cores[t.sched.core]? = some x → k'.cores[t.sched.core]? = some { x with lastClass := ch.lastClass, run := ch.run })) ∧
      (s.mayIssue t fi = true → dueWindows t ≠ [] → step s = exec (.windowClose id) s) ∧
      (s.mayIssue t fi = true → dueWindows t = [] → t.iss.begun = none → t.tm = false → t.iss.faults ≠ [] →
        step s = exec (.trapEntry id fi) s) ∧
      (∀ s' w e, s.mayIssue t fi = true → dueWindows t = [] → t.iss.begun = none → (t.tm = true ∨ t.iss.faults = []) →
        s.fetch t (t.frag fi).pc = .word s' w → decode w = .error e → step s = exec (.reservedEncoding w) s')) ∧
    (∀ e r, s.slots = [] → s.agenda = .event e :: r → step s = exec e { s with agenda := r }) ∧
    (s.slots = [] → s.agenda = [] → step s = exec (.issueSelect s.idle) { s with idle := (s.idle + 1) % 32 })

/-! Encoding. -/

/-- R90 to R97: decoding the word of a well-formed instruction gives it back, with every operand at every value that the encoding
admits; for all 217 encoded instructions. -/
def Obligations.DecodeEncode : Prop :=
  ∀ (i : Instr) (w : Word), i.WellFormed → encode i = some w → decode w = .ok i

/-- Words that the spec writes out, by the rules that give them: R117/R118 (S.ADDI S4, S4, -64), R119 (S.AUPC S4, 3), R127, R128,
R130 to R132, R135, R136, R137, R138, R139, R140, R142, and R162 (V.SINR V6, V2). -/
def Obligations.DecodeWords : Prop :=
  decode 0x08204FC0 = .ok (.sAddi 4 4 (-64)) ∧ decode 0x2C400003 = .ok (.sAupc 4 3) ∧
  decode 0x44000100 = .ok (.call 0x100) ∧ decode 0x481FFFFC = .ok (.brz 3 (-4)) ∧
  decode 0x58000005 = .ok (.recv 5) ∧ decode 0x54800003 = .ok (.brd 2 3) ∧ decode 0x5C380002 = .ok (.loop 7 2) ∧
  decode 0x60009000 = .ok (.callr 9) ∧ decode 0x60000002 = .ok .ret ∧ decode 0x60002003 = .ok (.ppush 2) ∧
  decode 0x60280006 = .ok (.pstkGet 5) ∧ decode 0 = .ok .nop ∧ decode 0x00880001 = .ok (.trap 17) ∧
  decode 0x00280083 = .ok (.sysr 5 4) ∧ decode 0x00005084 = .ok (.sysw 5 4) ∧ decode 0x0000408F = .ok (.modeSet 4 4) ∧
  decode 0x00300008 = .ok (.vers 6) ∧ decode 0x00004006 = .ok (.perf 4) ∧ decode 0x70302006 = .ok (.vSinr 6 2)

/-! Invariants and reset. -/

/-- The memory keeps its canonical form over every step, from every state in which it has it. -/
def Obligations.MemoryStaysCanonical : Prop :=
  ∀ s s' : State, s.Canonical → step s = .next s' → s'.Canonical

/-- R4, R357, R376, R381: the state at reset: nothing runs, memory lists nothing, the boot awaits an image, the registers that have reset
values hold them, every port has its four lanes. It rests on choices or readings of the model: logs 5, 6, 7 and 8. -/
def Obligations.ResetState : Prop :=
  let s := State.reset
  let f := fun (x : DWord) (lo n : Nat) => x.toNat / 2 ^ lo % 2 ^ n
  s.Canonical ∧ s.mem = [] ∧ s.teams = [] ∧ s.sched.launches = [] ∧ s.ldr.objects = [] ∧
    s.boot.powered = true ∧ s.boot.reset = false ∧ s.boot.stage = 0 ∧ s.boot.id = false ∧ s.boot.mbseq = 0 ∧
    s.vis.length = 64 ∧ (∀ i ∈ s.vis, i.en = false ∧ i.caplvl = 2 ∧ i.drain = 200) ∧
    f s.pwr.apcfg 24 20 = 16384 ∧ f s.pwr.apcfg 12 12 = 3000 ∧ s.pwr.apcap = 16384 ∧ s.pwr.shut0 = 0x88888642 ∧
    [f s.pwr.aw0 0 16, f s.pwr.aw0 16 16, f s.pwr.aw0 32 16, f s.pwr.aw0 48 16, f s.pwr.aw1 0 16, f s.pwr.aw1 16 16, f s.pwr.aw1 32 16,
      f s.pwr.aw1 48 16] = [4, 16, 24, 20, 12, 8, 4096, 512] ∧
    f s.pwr.shut1 16 12 = 128 ∧ f s.pwr.shut1 0 4 = 2 ∧ f s.pwr.govctl 54 10 = 1000 ∧ f s.pwr.govctl 44 10 = 1000 ∧
    f s.pwr.govctl 34 10 = 50 ∧ f s.pwr.govctl 24 10 = 850 ∧ f s.pwr.govctl 0 16 = 50000 ∧ f s.pwr.govth 10 10 = 700 ∧
    f s.pwr.govth 0 10 = 550 ∧ s.pwr.dcf.length = 16 ∧ s.pwr.dcv.length = 16 ∧
    (∀ x ∈ s.pwr.dcf ++ s.pwr.dcv, f x 32 10 = 1000 ∧ f x 0 16 = 0) ∧
    s.pod.lanes = List.replicate 18 4 ∧ s.clusters.length = 32

/-! Lane instructions. -/

/-- R154, R158, R167 to R169, R180: a type-free lane function sets V[D] in the guarded lanes to the value of the rules, and
changes nothing else. It completes in every state in which it can issue. -/
def Obligations.LaneWords : Prop :=
  ∀ (s : State) (c : Ctx) (i : Instr) (d : Nat) (f : Nat → Word) (time : Time),
    Ready s c i → laneResult c i = some (d, f, time) →
      exec i s = .next (c.after i time c.s (c.t.writeV d ((guardedLanes c).map fun l => (l, f l)))) ∧
      (¬ c.t.Arrives c.fi (c.t.nextPc c.fi) → ∃ n, exec i s = .next n ∧ LaneOnly c d f n)

/-- R156, R171: the predicate functions set P[D] in the guarded lanes, Guard being taken before the write. A comparison that
the type admits sets P[D] in each guarded lane to whether the relation holds for all of the lane's elements; one that the type does not
admit is a reserved use. Nothing else changes. -/
def Obligations.Predicates : Prop :=
  (∀ (s : State) (c : Ctx) (i : Instr) (d : BitVec 7) (f : Nat → Bool),
    Ready s c i → predResult c i = some (d, f) →
      exec i s = .next (c.after i (.lane .lanes 1 2) c.s (c.t.writePIn d.toNat c.guard (maskOf 1024 f))) ∧
      (¬ c.t.Arrives c.fi (c.t.nextPc c.fi) → ∃ n, exec i s = .next n ∧ PredicateOnly c d.toNat f n)) ∧
  (∀ (s : State) (c : Ctx) (i : Instr) (ok : Bool) (d a b : BitVec 7) (r : Nat → Nat → Bool),
    Ready s c i → relation c.t.et (c.t.mode.getLsbD 11) i = some (ok, d, a, b, r) →
      let f := fun (l : Nat) => (List.range (32 / c.t.et.width)).all fun e =>
        r (elemBits c.t.et (c.t.readV a.toNat l) e) (elemBits c.t.et (c.t.readV b.toNat l) e)
      (ok = true →
        exec i s = .next (c.after i (.lane .lanes 1 2) c.s (c.t.writePIn d.toNat c.guard (maskOf 1024 f))) ∧
        (¬ c.t.Arrives c.fi (c.t.nextPc c.fi) → ∃ n, exec i s = .next n ∧ PredicateOnly c d.toNat f n)) ∧
      (ok = false → ∃ n, exec i s = .next n ∧ Refused c ((encode i).getD 0) 1 n))

/-- R169, R171: V.VTOS, V.BALLOT, ANY, ALL and COUNT set S[D] from the guarded lanes, and change nothing else. -/
def Obligations.LaneScalars : Prop :=
  ∀ (s : State) (c : Ctx) (i : Instr) (d : BitVec 7) (x : DWord),
    Ready s c i → laneToScalar c i = some (d, x) →
      exec i s = .next (c.after i (.lane .lanes 1 12) c.s (c.t.writeS d.toNat x)) ∧
      (¬ c.t.Arrives c.fi (c.t.nextPc c.fi) → ∃ n, exec i s = .next n ∧ ScalarOnly c d.toNat x n)

/-- R180, R181: L.WR puts V[A] of lane (g, x) into word x of row (g + S[B]) mod 32, and L.CLR clears every word; nothing else
changes. -/
def Obligations.LoupeWrites : Prop :=
  ∀ (s : State) (c : Ctx), ¬ c.t.Arrives c.fi (c.t.nextPc c.fi) →
    (∀ a b, Ready s c (.lWr a b) → ∃ n u, exec (.lWr a b) s = .next n ∧ Onward c n u ∧ SameSys c.t u ∧
      u.iss.bypass = c.t.iss.bypass ∧ u.regs = { c.t.regs with loupe := u.regs.loupe } ∧
      (∀ l, guarded c l = true →
        u.regs.loupe.get (32 * ((l / 32 + (c.t.readS b.toNat).toNat) % 32) + l % 32) = c.t.readV a.toNat l) ∧
      ∀ y x, y < 32 → x < 32 → (∀ l, guarded c l = true → l % 32 = x → (l / 32 + (c.t.readS b.toNat).toNat) % 32 ≠ y) →
        u.regs.loupe.get (32 * y + x) = c.t.regs.loupe.get (32 * y + x)) ∧
    (Ready s c .lClr → ∃ n u, exec .lClr s = .next n ∧ Onward c n u ∧ SameSys c.t u ∧ u.iss.bypass = c.t.iss.bypass ∧
      u.regs = { c.t.regs with loupe := u.regs.loupe } ∧ ∀ k, u.regs.loupe.get k = 0)

/-- R147, R152, R155, R157, R159 to R166, R170: a lane instruction whose results depend on the element type completes where the
type admits it; it writes the guarded lanes of its destination registers, raises flags, steps the generators of stochastic
rounding, and changes nothing else. Where the type does not admit it, it is a reserved use. Without FTZ: RCP, RSQ, SQRT, EXP2
and LOG2 give the results of special operands with exactly their invalid and division flags, and of other operands the value
rounded once or one beside it (of EXP2 and LOG2 in general only bounds are told); RRED takes the parts of π/2 off in three
roundings up to 2^20; SINR and COSR of an angle within 1 give the sine or the cosine of the quadrant, within bounds; CVT, PACK
and UNPK convert each element to its place. It rests on choices or readings of the model: logs 10 and 67. -/
def Obligations.TypedLanes : Prop :=
  (∀ (s : State) (c : Ctx) (i : Instr) (ok : Bool) (d k : Nat) (time : Time),
    Ready s c i → typedLane c i = some (ok, d, k, time) →
      (ok = true → ∃ t', exec i s = .next (c.after i time c.s t') ∧
        (¬ c.t.Arrives c.fi (c.t.nextPc c.fi) → ∃ n u, exec i s = .next n ∧ LaneWrites c d k n u)) ∧
      (ok = false → ∃ n, exec i s = .next n ∧ Refused c ((encode i).getD 0) 1 n)) ∧
  ∀ (s : State) (c : Ctx), ¬ c.t.Arrives c.fi (c.t.nextPc c.fi) → c.t.mode.getLsbD 11 = false →
    let src := c.t.et
    let word := fun (r l : Nat) => (c.t.readV r l).toNat
    let elem := fun (r l e : Nat) => elemBits src (c.t.readV r l) e
    let flag := fun (u : Team) (b : Nat) => u.sys.tflags.getLsbD b
    (∀ (i : Instr) (d a : BitVec 7) (f : Fmt), Ready s c i → specialFn i = some (d, a) → src.fmt = some f → src.code.toNat ≤ 8 →
      let special := fun (l e : Nat) => specialCase src f c.t.rm i (f.decode (elem a.toNat l e))
      ∃ n u, exec i s = .next n ∧ LaneWrites c d.toNat 1 n u ∧
        (∀ l e, guarded c l = true → e < 32 / f.w →
          let r := elemBits src (written d.toNat u l) e
          (∀ x, special l e = some x → r = x.1) ∧
          (special l e = none → finitePattern f r = true → SpecialValue f c.t.rm i (patternRat f (elem a.toNat l e)) r)) ∧
        ∀ b, b < 2 → (flag u b = true ↔ flag c.t b = true ∨
          ∃ l e x, guarded c l = true ∧ e < 32 / f.w ∧ special l e = some x ∧ x.2.testBit b = true)) ∧
    (∀ (d a : BitVec 7), src = .fp32 → Ready s c (.vRred d a) → ∃ n u, exec (.vRred d a) s = .next n ∧ LaneWrites c d.toNat 2 n u ∧
      ∀ l, guarded c l = true →
        let r := (u.readV d.toNat l).toNat
        let q := (u.readV (d.toNat + 1) l).toNat
        (finitePattern fp32 (word a.toNat l) = true → Reduced (word a.toNat l) r q ∧
          ((2 : ℚ) ^ 20 < |patternRat fp32 (word a.toNat l)| → flag u 4 = true)) ∧
        (finitePattern fp32 (word a.toNat l) = false → r = 0x7FC00000 ∧ q = 0 ∧ flag u 0 = true)) ∧
    (∀ (cosine : Bool) (d a : BitVec 7), src = .fp32 →
      let i : Instr := if cosine then .vCosr d a else .vSinr d a
      Ready s c i → ∃ n u, exec i s = .next n ∧ LaneWrites c d.toNat 1 n u ∧ ∀ l, guarded c l = true →
        let x := word a.toNat l
        let r := (written d.toNat u l).toNat
        let k := (word (a.toNat + 1) l % 4 + cosine.toNat) % 4
        (finitePattern fp32 x = false → r = 0x7FC00000 ∧ (elemNan .fp32 x = false → flag u 0 = true)) ∧
        (finitePattern fp32 x = true → |patternRat fp32 x| ≤ 1 → finitePattern fp32 r = true ∧ SineOf k x r) ∧
        (x % 2 ^ 31 = 0 → k = 0 → cosine = false → r = x)) ∧
    (∀ (d a : BitVec 7) (rnd : RoundOverride) (target : ConvTarget) (dst : ElemType), src.code.toNat ≤ 10 → c.t.convTarget target = some dst →
      let w := dst.width
      let per := 32 / src.width
      let conv := Converted src dst (convMode c rnd target) (convSat c target)
      (Ready s c (.vCvt d a rnd target) → ∃ n u, exec (.vCvt d a rnd target) s = .next n ∧
        LaneWrites c d.toNat (max 1 (per * w / 32)) n u ∧ ∀ l, guarded c l = true →
          (∀ e, e < per → conv (elem a.toNat l e) (elemBits dst (written (d.toNat + e * w / 32) u l) (e % (32 / w)))) ∧
          (per * w < 32 → (written d.toNat u l).toNat < 2 ^ (per * w))) ∧
      (Ready s c (.vPack d a rnd target) → per * w < 32 → ∃ n u, exec (.vPack d a rnd target) s = .next n ∧
        LaneWrites c d.toNat 1 n u ∧ ∀ l e, guarded c l = true → e < 32 / w →
          conv (elem (a.toNat + e / per) l (e % per)) (elemBits dst (written d.toNat u l) e))) ∧
    (∀ (d a : BitVec 7) (half : Half) (dst : ElemType), widened src = some dst → Ready s c (.vUnpk d a half) →
      ∃ n u, exec (.vUnpk d a half) s = .next n ∧ LaneWrites c d.toNat 1 n u ∧ ∀ l e, guarded c l = true → e < 16 / src.width →
        let x := elem a.toNat l ((match half with | .lo => 0 | .hi => 16 / src.width) + e)
        let y := elemBits dst (written d.toNat u l) e
        (elemFinite src x = true → elemFinite dst y = true ∧ elemRat dst y = elemRat src x) ∧
          (elemFinite src x = false → Converted src dst .rne false x y))

/-- R60, R148, R152, R155, R157: under an integer type the element-wise functions give in every guarded lane and element
the exact integer result, wrapped or under SAT saturated; the shifts, the rotation, CLZ and POPC act on the bit pattern of each
element under any type 0 to 8, with the shift count modulo the width. No flag rises and no generator steps. It rests on choices
or readings of the model: log 62. -/
def Obligations.ElementWise : Prop :=
  (∀ (s : State) (c : Ctx) (i : Instr) (d a b : BitVec 7) (f : Nat → Nat → Nat → Nat),
    Ready s c i → ¬ c.t.Arrives c.fi (c.t.nextPc c.fi) → intElement c i = some (d, a, b, f) → c.t.et.code.toNat ≤ 5 →
      ∃ n u, exec i s = .next n ∧ LaneWrites c d.toNat 1 n u ∧ u.sys = c.t.sys ∧ u.regs.sr = c.t.regs.sr ∧
        ∀ l e, guarded c l = true → e < 32 / c.t.et.width →
          let x := fun (r : BitVec 7) => elemBits c.t.et (c.t.readV r.toNat l) e
          elemBits c.t.et (written d.toNat u l) e = f (x a) (x b) (x d)) ∧
  (∀ (s : State) (c : Ctx) (i : Instr) (d a b : BitVec 7) (f : Nat → Nat → Nat),
    Ready s c i → ¬ c.t.Arrives c.fi (c.t.nextPc c.fi) → bitElement c i = some (d, a, b, f) → c.t.et.code.toNat ≤ 8 →
      ∃ n u, exec i s = .next n ∧ LaneWrites c d.toNat 1 n u ∧ u.sys = c.t.sys ∧ u.regs.sr = c.t.regs.sr ∧
        ∀ l e, guarded c l = true → e < 32 / c.t.et.width →
          let x := fun (r : BitVec 7) => elemBits c.t.et (c.t.readV r.toNat l) e
          elemBits c.t.et (written d.toNat u l) e = f (x a) (x b))

/-- R56, R61, R148, R152, R153: under a floating type and without FTZ, the sums, products and fused sums are computed exactly
and rounded once, by MODE.RM; from finite operands no invalid or division flag rises, and inexact rises exactly where some
result is not the exact value. MIN and MAX give the one operand that is no NaN, −0 before +0, ABS and NEG change the sign bit, a
NaN becomes canonical, and no flag rises and no generator steps; that they step none is a choice of the model. DOT2 adds the two
products to the destination in FP32, under any type 0 to 8, with one rounding. It rests on choices or readings of the model: log
67. -/
def Obligations.FloatElements : Prop :=
  (∀ (s : State) (c : Ctx) (i : Instr) (d a b : BitVec 7) (f : Fmt) (g : Nat → Nat → Nat),
    Ready s c i → ¬ c.t.Arrives c.fi (c.t.nextPc c.fi) → c.t.et.fmt = some f → c.t.et.code.toNat ≤ 8 → c.t.mode.getLsbD 11 = false →
    floatPick c.t.et f i = some (d, a, b, g) → ∃ n u, exec i s = .next n ∧ LaneWrites c d.toNat 1 n u ∧ u.sys = c.t.sys ∧
      u.regs.sr = c.t.regs.sr ∧ ∀ l e, guarded c l = true → e < 32 / f.w →
        elemBits c.t.et (written d.toNat u l) e = g (elemBits c.t.et (c.t.readV a.toNat l) e) (elemBits c.t.et (c.t.readV b.toNat l) e)) ∧
  (∀ (s : State) (c : Ctx) (d a b : BitVec 7),
    Ready s c (.vDot2 d a b) → ¬ c.t.Arrives c.fi (c.t.nextPc c.fi) → c.t.et.code.toNat ≤ 8 → c.t.mode.getLsbD 11 = false →
    ∃ n u, exec (.vDot2 d a b) s = .next n ∧ LaneWrites c d.toNat 1 n u ∧ ∀ l, guarded c l = true →
      let half := fun (r : BitVec 7) (h : Nat) => (c.t.readV r.toNat l).toNat / 2 ^ (16 * h) % 2 ^ 16
      let old := (c.t.readV d.toNat l).toNat
      let r := (written d.toNat u l).toNat
      (∀ h, h < 2 → finitePattern bf16 (half a h) = true ∧ finitePattern bf16 (half b h) = true) → finitePattern fp32 old = true →
        finitePattern fp32 r = true → RoundedTo fp32 c.t.rm (patternRat fp32 old + patternRat bf16 (half a 0) * patternRat bf16 (half b 0) +
          patternRat bf16 (half a 1) * patternRat bf16 (half b 1)) r) ∧
  ∀ (s : State) (c : Ctx) (i : Instr) (d a b o : BitVec 7) (g : ℚ → ℚ → ℚ → ℚ) (f : Fmt),
    Ready s c i → ¬ c.t.Arrives c.fi (c.t.nextPc c.fi) → exactFloat i = some (d, a, b, o, g) → c.t.et.fmt = some f →
    c.t.et.code.toNat ≤ 8 → c.t.mode.getLsbD 11 = false →
      let x := fun (r : BitVec 7) (l e : Nat) => elemBits c.t.et (c.t.readV r.toNat l) e
      let exact := fun (l e : Nat) => g (patternRat f (x a l e)) (patternRat f (x b l e)) (patternRat f (x o l e))
      let finite := fun (l e : Nat) => finitePattern f (x a l e) && finitePattern f (x b l e) && finitePattern f (x o l e)
      ∃ n u, exec i s = .next n ∧ LaneWrites c d.toNat 1 n u ∧
        (∀ l e, guarded c l = true → e < 32 / f.w → finite l e = true →
          let r := elemBits c.t.et (written d.toNat u l) e
          finitePattern f r = true → RoundedTo f c.t.rm (exact l e) r) ∧
        ((∀ l e, guarded c l = true → e < 32 / f.w → finite l e = true) →
          u.sys.tflags.getLsbD 0 = c.t.sys.tflags.getLsbD 0 ∧ u.sys.tflags.getLsbD 1 = c.t.sys.tflags.getLsbD 1 ∧
          (u.sys.tflags.getLsbD 4 = true ↔ c.t.sys.tflags.getLsbD 4 = true ∨
            ∃ l e, guarded c l = true ∧ e < 32 / f.w ∧
              (finitePattern f (elemBits c.t.et (written d.toNat u l) e) = false ∨
                patternRat f (elemBits c.t.et (written d.toNat u l) e) ≠ exact l e)))

/-- R170: V.RED combines the elements of the guarded lanes into S[D], extended by the type; where the type is not admitted it is a
reserved use. V.SCAN gives each element of a guarded lane the combination of the elements of the guarded lanes up to and with
it. Shown for the operations whose grouping makes no difference to the value. -/
def Obligations.Reductions : Prop :=
  ∀ (s : State) (c : Ctx) (d a : BitVec 7) (op : RedOp),
    let t := c.t.et
    let p := 32 / t.width
    (Ready s c (.vRed d a op) →
      (t.code.toNat ≤ 8 → ∃ t', exec (.vRed d a op) s = .next (c.after (.vRed d a op) (.lane .lanes 1 12) c.s t') ∧
        (∀ k, k ≠ d.toNat → t'.readS k = c.t.readS k) ∧ t'.readS 0 = 0 ∧ (∃ fl, t'.sys = { c.t.sys with tflags := c.t.sys.tflags ||| fl }) ∧
        t' = { c.t with regs.s := t'.regs.s, sys := t'.sys } ∧
        ∀ r, combined t (c.t.mode.getLsbD 12) op (guardedElems c a.toNat (1024 * p)) = some r → d ≠ 0 → t'.sys = c.t.sys ∧
          t'.readS d.toNat = (if t.signed then BitVec.ofInt 64 (elemInt t r) else BitVec.ofNat 64 r)) ∧
      (8 < t.code.toNat → ∃ n, exec (.vRed d a op) s = .next n ∧ Refused c ((encode (.vRed d a op)).getD 0) 1 n)) ∧
    (Ready s c (.vScan d a op) → t.code.toNat ≤ 8 → ¬ c.t.Arrives c.fi (c.t.nextPc c.fi) →
      ∃ n u, exec (.vScan d a op) s = .next n ∧ LaneWrites c d.toNat 1 n u ∧
        ∀ l e r, guarded c l = true → e < p →
          combined t (c.t.mode.getLsbD 12) op (guardedElems c a.toNat (p * l + e + 1)) = some r →
          elemBits t (written d.toNat u l) e = r)

/-- R26: V127 reads as the transient result of the latest producer while that is one of the three instructions issued last, and
as zero otherwise; a result for V127 is transient, and lanes without Guard hold zero in it. It rests on choices or readings of
the model: log 75. -/
def Obligations.BypassReads : Prop :=
  (∀ (t : Team) (x : Transient) (l : Nat), x ∈ t.iss.bypass → (∀ y ∈ t.iss.bypass, y.producer < x.producer ∨ y = x) →
    t.readV 127 l = if t.iss.issued ≤ x.producer + 3 then x.lanes.get l else 0) ∧
  (∀ (t : Team) (l : Nat), t.iss.bypass = [] → t.readV 127 l = 0) ∧
  (∀ (s : State) (c : Ctx) (a : BitVec 7), Ready s c (.vMov 127 a) → ¬ c.t.Arrives c.fi (c.t.nextPc c.fi) →
    (∀ y ∈ c.t.iss.bypass, y.producer < c.t.iss.issued) →
    ∃ n u, exec (.vMov 127 a) s = .next n ∧ n.team? c.t.id = some u ∧ u.regs = c.t.regs ∧
      ∀ l, l < 1024 → u.readV 127 l = if guarded c l = true then c.t.readV a.toNat l else 0)

/-! Planes. -/

/-- R77, R179: P.GSET sets G[GD] to the pair of scalar registers, P.GGET reads it into them; neither checks the descriptor, and
nothing else changes. -/
def Obligations.PlaneDescriptors : Prop :=
  ∀ (s : State) (c : Ctx) (g : BitVec 3) (b : BitVec 6),
    (Ready s c (.pGset g b) → ∃ t', Completes c (.pGset g b) s (.front 1) c.s t' ∧ t' = { c.t with regs.g := t'.regs.g } ∧
      (t'.readG g.toNat).toNat = (c.t.readS b.toNat).toNat + 2 ^ 64 * (c.t.readS (b.toNat + 1)).toNat ∧
      ∀ k, k ≠ g.toNat → t'.readG k = c.t.readG k) ∧
    (Ready s c (.pGget g b) → ∃ t', Completes c (.pGget g b) s (.front 1) c.s t' ∧ t' = { c.t with regs.s := t'.regs.s } ∧
      (t'.readS b.toNat).toNat = (if b = 0 then 0 else (c.t.readG g.toNat).toNat % 2 ^ 64) ∧
      (t'.readS (b.toNat + 1)).toNat = (c.t.readG g.toNat).toNat / 2 ^ 64 ∧
      ∀ k, k ≠ b.toNat → k ≠ b.toNat + 1 → t'.readS k = c.t.readS k)

/-- R78, R82 to R85, R173 to R178: a movement or fold whose descriptors are legal and agree writes every element in the guarded virtual
lanes with the value of the rules (for a fold of floats only which slots), phantoms with zero or FILL, and nothing else but flags
of a fold; any other descriptors are a reserved use. It rests on choices or readings of the model: log 66. -/
def Obligations.PlaneMoves : Prop :=
  ∀ (s : State) (c : Ctx) (i : Instr) (gd gs : BitVec 3) (agree : Plane → Plane → Bool) (val : Plane → Plane → Nat → Nat → Nat → Option Nat),
    Ready s c i → planeMove c i = some (gd, gs, agree, val) →
      let p := planeOf (c.t.readG gd.toNat)
      let q := planeOf (c.t.readG gs.toNat)
      let legal := p.ok c.t.const.h c.t.const.n && q.ok c.t.const.h c.t.const.n && agree p q
      (legal = true → ∃ s' t', Completes c i s (.front 1) s' t' ∧ s' = { c.s with clusters := s'.clusters } ∧ PlaneWritten c p (val p q) t' ∧
        ((p.code ≤ 5 ∨ ∀ gd gs ax, i ≠ .pFoldAdd gd gs ax) → t'.sys = c.t.sys)) ∧
      (legal = false → ∃ n, exec i s = .next n ∧ Refused c ((encode i).getD 0) 1 n)

/-! Memory accesses of scalar instructions. In these and in the statements on lanes, an access that lands meets a resident,
permitted place of this device. -/

/-- R121 to R123, R184, R244, R247, R275: S.LD and S.LDU trap on a misaligned address; a strong one waits for the previous strong
access; one without a mapping or permission faults 0x07; one on a page that is not resident reads zero, sets the residency
predicate in the mask and the flag; one that meets poison faults 0x0A; else the value read waits in a window for S[D], the
access is counted on its path and a strong one logged. Memory never changes. It rests on choices or readings of the model: logs
18 and 75. -/
def Obligations.ScalarLoads : Prop :=
  ∀ (s : State) (c : Ctx) (i : Instr) (signed : Bool) (d a : BitVec 6) (la : BitVec 4) (w : Strength) (z : Size) (imm : BitVec 7),
    Ready s c i → (i = .sLd d a la w z imm ∧ signed = true) ∨ (i = .sLdu d a la w z imm ∧ signed = false) →
      let n := z.bytes
      let strong := decide (w = .strong)
      let va := (BitVec.ofInt 64 ((c.t.readS a.toNat).toInt + imm.toInt * n)).toNat
      let ad : DWord := BitVec.ofNat 64 (va % 2 ^ 57)
      let flight : Flight := ⟨pathOf va, .load, strong, false, [], [], false, BitVec.ofNat 64 va, c.t.eng.next, none⟩
      let goes := va % n = 0 ∧ (strong = true → Fresh c ∧ c.t.strongDone = true) ∧ c.s.pathsFull c.t [pathOf va] = false
      (va % n ≠ 0 → ∃ m, exec i s = .next m ∧ Trapped c c.t 0x05 ad (.precise c.pc) m) ∧
      (va % n = 0 → strong = true → Fresh c → c.t.strongDone = false → ∃ m, exec i s = .next m ∧ Stalled c .strong m) ∧
      (goes → c.s.xlate c.t (va % 2 ^ 57) needR = .noPerm → ∃ m, exec i s = .next m ∧ Trapped c c.t 0x07 ad .region m) ∧
      (goes → c.s.xlate c.t (va % 2 ^ 57) needR = .nonResident → ∃ s' t', Completes c i s (.front 1) s' t' ∧
        Loading c la [.s d 0] t' ∧ s' = { c.s with pod.reqs := s'.pod.reqs } ∧
        t' = { c.t with
          regs.p := t'.regs.p, sys.tflags := c.t.sys.tflags ||| 64, rep := logged c strong (List.replicate n 0),
          iss.windows := t'.iss.windows, iss.flights := c.t.iss.flights ++ [flight] } ∧
        ∀ k l, l < 1024 → (t'.readP k).getLsbD l =
          ((c.t.readP k).getLsbD l || (decide (k = c.t.mode.toNat / 2 ^ 13 % 16) && c.f.mask.getLsbD l))) ∧
      (∀ pa cached, goes → Landed c needR va pa cached → (strong = true → NothingPending c pa n) → Unpoisoned c pa n →
        ∃ s' t', Completes c i s (.front 1) s' t' ∧
          Loading c la [.s d (loadValue signed (seenBytes c strong cached pa n))] t' ∧
          s' = { c.s with ms.l1 := s'.ms.l1, pod.reqs := s'.pod.reqs } ∧
          t' = { c.t with
            rep := logged c strong (seenBytes c strong cached pa n),
            iss.windows := t'.iss.windows, iss.flights := c.t.iss.flights ++ [flight] }) ∧
      (∀ pa cached, goes → Landed c needR va pa cached → (strong = true → NothingPending c pa n) → strong = true ∨ cached = false →
        pa / 4 * 4 ∈ c.s.ms.poison →
        ∃ m, exec i s = .next m ∧ Trapped c c.t 0x0A (BitVec.ofNat 64 (8 + va % 2 ^ 57 / 256 * 256)) .region m)

/-- R121 to R123, R184, R236, R244: S.ST traps on a misaligned address, a strong one waits for the previous strong access, one without
a mapping or permission faults 0x07 and one on a page that is not resident 0x06; else its bytes are in flight to their home and no
byte of memory changes yet, while the team's own loads see them; tables that watch the bytes become stale, and a strong one is
logged. It rests on choices or readings of the model: log 18. -/
def Obligations.ScalarStores : Prop :=
  ∀ (s : State) (c : Ctx) (d a : BitVec 6) (w : Strength) (z : Size) (imm : BitVec 7),
    let i : Instr := .sSt d a w z imm
    Ready s c i →
      let n := z.bytes
      let strong := decide (w = .strong)
      let va := (BitVec.ofInt 64 ((c.t.readS a.toNat).toInt + imm.toInt * n)).toNat
      let ad : DWord := BitVec.ofNat 64 (va % 2 ^ 57)
      let x := (c.t.readS d.toNat).toNat
      let goes := va % n = 0 ∧ (strong = true → Fresh c ∧ c.t.strongDone = true) ∧ c.s.pathsFull c.t [pathOf va + 1] = false
      (va % n ≠ 0 → ∃ m, exec i s = .next m ∧ Trapped c c.t 0x05 ad (.precise c.pc) m) ∧
      (va % n = 0 → strong = true → Fresh c → c.t.strongDone = false → ∃ m, exec i s = .next m ∧ Stalled c .strong m) ∧
      (goes → c.s.xlate c.t (va % 2 ^ 57) needW = .noPerm → ∃ m, exec i s = .next m ∧ Trapped c c.t 0x07 ad .region m) ∧
      (goes → c.s.xlate c.t (va % 2 ^ 57) needW = .nonResident → ∃ m, exec i s = .next m ∧ Trapped c c.t 0x06 ad .region m) ∧
      (∀ pa cached, goes → Landed c needW va pa cached →
        let bs := (List.range n).map fun k => (pa + k, byteAt x k)
        let flight : Flight := ⟨pathOf va + 1, .store, strong, strong && decide (n = 8), bs, [], false, BitVec.ofNat 64 va, c.t.eng.next, none⟩
        ∃ t', Completes c i s (.front 1) c.s t' ∧
          t' = { c.t with
            rep := logged c strong [], iss.flights := leftInFlight (c.t.iss.flights ++ [flight]),
            eng.k := c.t.eng.k.map (staleTable bs) } ∧
          ∀ k, k < n → seen c.s t' false cached (pa + k) = byteAt x k)

/-- R125, R126, R193, R194, R199: a scalar atomic traps on a misaligned address, waits for the previous strong access and, as a release,
for every store and marked operation of the team; faults 0x07 and 0x06 as a store does; else it is performed at its home at once: S[D]
takes the old value, exactly the eight bytes take the new one, an acquire leaves the core's L1 with owned words only, and the
effect is logged. One that only loads needs the rights of a load. It rests on choices or readings of the model: logs 18 and 63. -/
def Obligations.ScalarAtomics : Prop :=
  ∀ (s : State) (c : Ctx) (i : Instr) (op : AtomOp) (d : Option (BitVec 7)) (va x y : Nat) (o : Order),
    Ready s c i → scalarAtomic c i = some (op, d, va, x, y, o) →
      let ad : DWord := BitVec.ofNat 64 (va % 2 ^ 57)
      let goes := va % 8 = 0 ∧ Fresh c ∧ c.t.strongDone = true ∧ (releasing o = true → c.t.releaseReady = true)
      (va % 8 ≠ 0 → ∃ m, exec i s = .next m ∧ Trapped c c.t 0x05 ad (.precise c.pc) m) ∧
      (va % 8 = 0 → Fresh c → c.t.strongDone = false → ∃ m, exec i s = .next m ∧ Stalled c .strong m) ∧
      (va % 8 = 0 → Fresh c → c.t.strongDone = true → releasing o = true → c.t.releaseReady = false →
        ∃ m, exec i s = .next m ∧ Stalled c .release m) ∧
      (goes → c.s.xlate c.t (va % 2 ^ 57) (atomRights op) = .noPerm → ∃ m, exec i s = .next m ∧ Trapped c c.t 0x07 ad .region m) ∧
      (goes → c.s.xlate c.t (va % 2 ^ 57) (atomRights op) = .nonResident → ∃ m, exec i s = .next m ∧ Trapped c c.t 0x06 ad .region m) ∧
      (∀ pa cached, goes → Landed c (atomRights op) va pa cached → NothingPending c pa 8 → Unpoisoned c pa 8 →
        let r := performed op 8 (fun _ => pa) (fun _ => x) (fun _ => y) [0] c.s.mem.byte
        let old := r.2 0
        ∃ s' t', Completes c i s (.front 1) s' t' ∧ Performed c r.1 (acquiring o) s' ∧
          t' = { c.t with
            regs.s := t'.regs.s, rep := logged c true (if op = .st then [] else (List.range 8).map (byteAt old)),
            eng.k := t'.eng.k, iss.ahead := if acquiring o then [] else c.t.iss.ahead } ∧
          ∀ k, t'.readS k = if k ≠ 0 ∧ d.map BitVec.toNat = some k then BitVec.ofNat 64 old else c.t.readS k)

/-- R48: where the next entry of the replay log is that of the instruction, a strong scalar load, a strong scalar store and a scalar
atomic take their results from the entry: nothing is performed, and the entry is consumed. An effect at another PC than the
entry's waits while another running fragment may come to it. R49: the seventeenth effect of a region, shown by a strong store, makes
its own PC the region entry, and is the new log's first entry. -/
def Obligations.ScalarReplay : Prop :=
  ∀ (s : State) (c : Ctx) (e : LogEntry),
    (∀ i signed d a la z imm, Ready s c i →
      (i = .sLd d a la .strong z imm ∧ signed = true) ∨ (i = .sLdu d a la .strong z imm ∧ signed = false) →
      (BitVec.ofInt 64 ((c.t.readS a.toNat).toInt + imm.toInt * z.bytes)).toNat % z.bytes = 0 → Replays c e → e.data.length = z.bytes →
      ∃ t', Completes c i s (.front 1) c.s t' ∧ Loading c la [.s d (loadValue signed e.data)] t' ∧
        t' = { consumed c with iss.windows := t'.iss.windows }) ∧
    (∀ d a z imm, Ready s c (.sSt d a .strong z imm) →
      (BitVec.ofInt 64 ((c.t.readS a.toNat).toInt + imm.toInt * z.bytes)).toNat % z.bytes = 0 → Replays c e →
      Completes c (.sSt d a .strong z imm) s (.front 1) c.s (consumed c)) ∧
    (∀ i op d va x y o, Ready s c i → scalarAtomic c i = some (op, d, va, x, y, o) → va % 8 = 0 → Replays c e →
      ∃ t', Completes c i s (.front 1) c.s t' ∧ t' = { consumed c with regs.s := t'.regs.s } ∧
        ∀ k, t'.readS k = if k ≠ 0 ∧ d.map BitVec.toNat = some k then BitVec.ofNat 64 (ofBytes e.data) else c.t.readS k) ∧
    (∀ i op d va x y o, Ready s c i → scalarAtomic c i = some (op, d, va, x, y, o) → va % 8 = 0 → c.t.tm = false →
      c.t.rep.log[c.t.rep.consumed]? = some e → e.pc ≠ c.pc →
      (∃ k, k ≠ c.fi ∧ (c.t.frag k).st = .running ∧ (c.t.frag k).replay = false) →
      ∃ n u, exec i s = .next n ∧ n.team? c.t.id = some u ∧ SameBut c.t.id c.s n ∧ (∀ a, n.mem.byte a = c.s.mem.byte a) ∧
        u.iss.stalled = some .replay ∧ u.frag c.fi = { c.f with replay := true } ∧ (∀ k, k ≠ c.fi → u.frag k = c.t.frag k) ∧
        u.regs = c.t.regs ∧ u.sys = c.t.sys ∧ u.rep = c.t.rep ∧ u.iss.issued = c.t.iss.issued) ∧
    (∀ d a z imm pa cached, Ready s c (.sSt d a .strong z imm) → c.t.tm = false → c.t.split = false → c.t.rep.consumed = 16 →
      c.t.rep.log.length = 16 → c.t.strongDone = true →
      let va := (BitVec.ofInt 64 ((c.t.readS a.toNat).toInt + imm.toInt * z.bytes)).toNat
      va % z.bytes = 0 → c.s.pathsFull c.t [pathOf va + 1] = false → Landed c needW va pa cached →
      ∃ t', Completes c (.sSt d a .strong z imm) s (.front 1) c.s t' ∧ t'.sys = { c.t.sys with regpc := c.pc } ∧ t'.regs = c.t.regs ∧
        t'.ctl = { c.t.ctl with rloop := c.t.ctl.loop } ∧ t'.rep.log = [⟨c.pc, c.f.mask, [], false, 0, none⟩] ∧ t'.rep.consumed = 1 ∧
        t'.rep.kentry = false ∧ t'.rep.snap = ⟨c.t.mask, c.f.depth, c.t.linkDepth, c.t.ctl.pend⟩)

/-! Memory accesses of lane instructions. -/

/-- R183 to R188: V.LD, V.LDU and V.LDX check every guarded lane's address before any access; the lowest misaligned one traps, and the
lowest without permission faults 0x07. Else each guarded lane reads at S[A] plus its offset, and the values wait in a window for
V[D] (and V[D+1]); lanes on pages that are not resident read zero and set their bit of the residency predicate. Memory never
changes. It rests on choices or readings of the model: logs 34 and 75. -/
def Obligations.LaneLoads : Prop :=
  ∀ (s : State) (c : Ctx) (i : Instr) (signed strong : Bool) (d : BitVec 7) (a : BitVec 6) (b : BitVec 7) (la : BitVec 4) (z : Size),
    Ready s c i →
    (i = .vLd d a b la z ∧ signed = true ∧ strong = false) ∨ (i = .vLdu d a b la z ∧ signed = false ∧ strong = false) ∨
      (i = .vLdx d a b la z ∧ signed = true ∧ strong = true) →
      let n := z.bytes
      let g := guardedLanes c
      let va := laneAddr c a b
      let goes := (∀ l ∈ g, va l % n = 0) ∧ (strong = true → Fresh c ∧ c.t.strongDone = true) ∧ c.s.pathsFull c.t (pathsOf (g.map va)) = false
      (∀ l ∈ g, va l % n ≠ 0 → (∀ k ∈ g, k < l → va k % n = 0) →
        ∃ m, exec i s = .next m ∧ Trapped c c.t 0x05 (BitVec.ofNat 64 (va l % 2 ^ 57)) (.precise c.pc) m) ∧
      (∀ l ∈ g, goes → c.s.xlate c.t (va l % 2 ^ 57) needR = .noPerm →
        (∀ k ∈ g, k < l → c.s.xlate c.t (va k % 2 ^ 57) needR ≠ .noPerm) →
        ∃ m, exec i s = .next m ∧ Trapped c c.t 0x07 (BitVec.ofNat 64 (va l % 2 ^ 57)) .region m) ∧
      (∀ (miss cached : Nat → Bool) (pa : Nat → Nat), goes →
        (∀ l ∈ g, if miss l = true then c.s.xlate c.t (va l % 2 ^ 57) needR = .nonResident
          else Landed c needR (va l) (pa l) (cached l) ∧ (strong = true → NothingPending c (pa l) n) ∧ Unpoisoned c (pa l) n) →
        ∃ bytes : Nat → List Byte, (∀ l ∈ g, (bytes l).length = n ∧
          ∀ k, k < n → if miss l = true then (bytes l).getD k 0 = 0 else MaySee c.s c.t strong (cached l) (pa l + k) ((bytes l).getD k 0)) ∧
        let writes : List WinWrite := (if d = 127 then [.v 127 0 0 0] else []) ++ g.flatMap fun l =>
          if n = 8 then [.v d.toNat l (BitVec.allOnes 32) (BitVec.ofNat 32 (ofBytes (bytes l))),
            .v (d.toNat + 1) l (BitVec.allOnes 32) (BitVec.ofNat 32 (ofBytes (bytes l) / 2 ^ 32))]
          else [.v d.toNat l (BitVec.allOnes 32) ((loadValue signed (bytes l)).setWidth 32)]
        ∃ s' t' data, Completes c i s (.front 1) s' t' ∧ Loading c la writes t' ∧
          s' = { c.s with ms.l1 := s'.ms.l1, pod.reqs := s'.pod.reqs, clusters := s'.clusters } ∧
          t' = { c.t with
            regs.p := t'.regs.p, sys.tflags := if g.any miss then c.t.sys.tflags ||| 64 else c.t.sys.tflags,
            rep := logged c strong data, iss.windows := t'.iss.windows,
            iss.flights := c.t.iss.flights ++ (pathsOf (g.map va)).map fun p =>
              ⟨p, .load, strong, false, [], [], false, BitVec.ofNat 64 (va (g.headD 0)), c.t.eng.next, none⟩ } ∧
          (∀ l ∈ g, (data.drop (n * l)).take n = bytes l) ∧
          ∀ k l, l < 1024 → (t'.readP k).getLsbD l =
            ((c.t.readP k).getLsbD l || (decide (k = c.t.mode.toNat / 2 ^ 13 % 16) && decide (l ∈ g) && miss l)))

/-- R183 to R188: V.ST and V.STX check every guarded lane before any is performed; the lowest misaligned one traps, else the lowest without
permission faults 0x07, else the lowest that is not resident 0x06. Else the low bytes of each guarded lane's V[D] (and V[D+1])
are in flight to S[A] plus the lane's offset, and no byte of memory changes yet. -/
def Obligations.LaneStores : Prop :=
  ∀ (s : State) (c : Ctx) (i : Instr) (strong : Bool) (d : BitVec 7) (a : BitVec 6) (b : BitVec 7) (z : Size),
    Ready s c i → (i = .vSt d a b z ∧ strong = false) ∨ (i = .vStx d a b z ∧ strong = true) →
      let n := z.bytes
      let g := guardedLanes c
      let va := laneAddr c a b
      let x := fun (l : Nat) => (c.t.readV d.toNat l).toNat + (if n = 8 then 2 ^ 32 * (c.t.readV (d.toNat + 1) l).toNat else 0)
      let meets := fun (l : Nat) => c.s.xlate c.t (va l % 2 ^ 57) needW
      let goes := (∀ l ∈ g, va l % n = 0) ∧ (strong = true → Fresh c ∧ c.t.strongDone = true) ∧
        c.s.pathsFull c.t ((pathsOf (g.map va)).map (· + 1)) = false
      (∀ l ∈ g, va l % n ≠ 0 → (∀ k ∈ g, k < l → va k % n = 0) →
        ∃ m, exec i s = .next m ∧ Trapped c c.t 0x05 (BitVec.ofNat 64 (va l % 2 ^ 57)) (.precise c.pc) m) ∧
      (∀ l ∈ g, goes → meets l = .noPerm → (∀ k ∈ g, k < l → meets k ≠ .noPerm) →
        ∃ m, exec i s = .next m ∧ Trapped c c.t 0x07 (BitVec.ofNat 64 (va l % 2 ^ 57)) .region m) ∧
      (∀ l ∈ g, goes → (∀ k ∈ g, meets k ≠ .noPerm) → meets l = .nonResident → (∀ k ∈ g, k < l → meets k ≠ .nonResident) →
        ∃ m, exec i s = .next m ∧ Trapped c c.t 0x06 (BitVec.ofNat 64 (va l % 2 ^ 57)) .region m) ∧
      (∀ (cached : Nat → Bool) (pa : Nat → Nat), goes → (∀ l ∈ g, Landed c needW (va l) (pa l) (cached l)) →
        let at_ := fun (l : Nat) => (List.range n).map fun k => (pa l + k, byteAt (x l) k)
        ∃ s', Completes c i s (.front 1) s' (storing c strong (strong && decide (n = 8)) (va (g.headD 0))
            ((g.filter cached).flatMap at_) ((g.filter fun l => !cached l).flatMap at_)) ∧
          s' = { c.s with clusters := s'.clusters })

/-- R183, R184, R189 to R191: a lane atomic, V.ATOM.ST too, waits as a scalar one; the lowest misaligned guarded lane traps, else the
lowest without permission faults 0x07, else the lowest that is not resident 0x06. Else it is performed lane by lane in ascending order, each seeing what the ones
before it left in memory; V[D] takes the old values in the guarded lanes. V.ATOM.ST does not wait for its stores: they are in
flight as strong ones. It rests on choices or readings of the model: logs 34 and 63. -/
def Obligations.LaneAtomics : Prop :=
  (∀ (s : State) (c : Ctx) (i : Instr) (op : AtomOp) (d : BitVec 7) (a : BitVec 6) (b : BitVec 7) (o : Order),
    Ready s c i → laneAtomic i = some (op, d, a, b, o) →
      let g := guardedLanes c
      let va := laneAddr c a b
      let x := fun (l : Nat) => if op = .ld then 0 else (c.t.readV d.toNat l).toNat
      let y := fun (l : Nat) => if op = .cas then (c.t.readV (d.toNat + 1) l).toNat else 0
      let aligned := ∀ l ∈ g, va l % 4 = 0
      (∀ l ∈ g, va l % 4 ≠ 0 → (∀ k ∈ g, k < l → va k % 4 = 0) →
        ∃ m, exec i s = .next m ∧ Trapped c c.t 0x05 (BitVec.ofNat 64 (va l % 2 ^ 57)) (.precise c.pc) m) ∧
      (aligned → Fresh c → c.t.strongDone = false → ∃ m, exec i s = .next m ∧ Stalled c .strong m) ∧
      (aligned → Fresh c → c.t.strongDone = true → releasing o = true → c.t.releaseReady = false →
        ∃ m, exec i s = .next m ∧ Stalled c .release m) ∧
      (let goes := aligned ∧ Fresh c ∧ c.t.strongDone = true ∧ (releasing o = true → c.t.releaseReady = true)
        let meets := fun (l : Nat) => c.s.xlate c.t (va l % 2 ^ 57) (atomRights op)
        (∀ l ∈ g, goes → meets l = .noPerm → (∀ k ∈ g, k < l → meets k ≠ .noPerm) →
          ∃ m, exec i s = .next m ∧ Trapped c c.t 0x07 (BitVec.ofNat 64 (va l % 2 ^ 57)) .region m) ∧
        (∀ l ∈ g, goes → (∀ k ∈ g, meets k ≠ .noPerm) → meets l = .nonResident → (∀ k ∈ g, k < l → meets k ≠ .nonResident) →
          ∃ m, exec i s = .next m ∧ Trapped c c.t 0x06 (BitVec.ofNat 64 (va l % 2 ^ 57)) .region m)) ∧
      (∀ (cached : Nat → Bool) (pa : Nat → Nat), aligned → Fresh c → c.t.strongDone = true → (releasing o = true → c.t.releaseReady = true) →
        (∀ l ∈ g, Landed c (atomRights op) (va l) (pa l) (cached l) ∧ NothingPending c (pa l) 4 ∧ Unpoisoned c (pa l) 4) →
        let r := performed op 4 pa x y g c.s.mem.byte
        ∃ s' t' data, Completes c i s (.front 1) s' t' ∧ Performed c r.1 (acquiring o) s' ∧
          t' = { c.t with
            regs.v := t'.regs.v, sys := t'.sys, rep := logged c true data, eng.k := t'.eng.k,
            iss.bypass := t'.iss.bypass, iss.ahead := if acquiring o then [] else c.t.iss.ahead } ∧
          (op ≠ .addf → op ≠ .addbf → t'.sys = c.t.sys) ∧ (∃ fl, t'.sys = { c.t.sys with tflags := c.t.sys.tflags ||| fl }) ∧
          (d ≠ 127 → t'.iss.bypass = c.t.iss.bypass) ∧
          (∀ l ∈ g, written d.toNat t' l = BitVec.ofNat 32 (r.2 l) ∧ ofBytes ((data.drop (4 * l)).take 4) = r.2 l) ∧
          ∀ k l, k < 127 → l < 1024 → ¬ (k = d.toNat ∧ l ∈ g) → t'.readV k l = c.t.readV k l)) ∧
  (∀ (s : State) (c : Ctx) (d : BitVec 7) (a : BitVec 6) (b : BitVec 7) (o : Order), Ready s c (.vAtomSt d a b o) →
    let i : Instr := .vAtomSt d a b o
    let g := guardedLanes c
    let va := laneAddr c a b
    let aligned := ∀ l ∈ g, va l % 4 = 0
    let ad := fun (l : Nat) => (BitVec.ofNat 64 (va l % 2 ^ 57) : DWord)
    let meets := fun (n : Need) (l : Nat) => c.s.xlate c.t (va l % 2 ^ 57) n
    let goes := aligned ∧ Fresh c ∧ c.t.strongDone = true ∧ (releasing o = true → c.t.releaseReady = true)
    let room := (∀ l ∈ g, ∀ dev x, meets needRW l ≠ .ok (.remote dev x) ∧ meets needRW l ≠ .dead dev) ∧
      c.s.pathsFull c.t ((pathsOf (g.map va)).map (· + 1)) = false
    (∀ l ∈ g, va l % 4 ≠ 0 → (∀ k ∈ g, k < l → va k % 4 = 0) → ∃ m, exec i s = .next m ∧ Trapped c c.t 0x05 (ad l) (.precise c.pc) m) ∧
    (aligned → Fresh c → c.t.strongDone = false → ∃ m, exec i s = .next m ∧ Stalled c .strong m) ∧
    (aligned → Fresh c → c.t.strongDone = true → releasing o = true → c.t.releaseReady = false →
      ∃ m, exec i s = .next m ∧ Stalled c .release m) ∧
    (∀ l ∈ g, goes → room → meets needRW l = .noPerm → (∀ k ∈ g, k < l → meets needRW k ≠ .noPerm) →
      ∃ m, exec i s = .next m ∧ Trapped c c.t 0x07 (ad l) .region m) ∧
    (∀ l ∈ g, goes → room → (∀ k ∈ g, meets needRW k ≠ .noPerm ∧ meets needW k ≠ .noPerm) → meets needW l = .nonResident →
      (∀ k ∈ g, k < l → meets needW k ≠ .nonResident) → ∃ m, exec i s = .next m ∧ Trapped c c.t 0x06 (ad l) .region m) ∧
    ∀ (cached : Nat → Bool) (pa : Nat → Nat), goes → room →
      (∀ l ∈ g, meets needRW l ≠ .noPerm ∧ Landed c needW (va l) (pa l) (cached l)) →
      let at_ := fun (l : Nat) => (List.range 4).map fun k => (pa l + k, byteAt (c.t.readV d.toNat l).toNat k)
      ∃ s', Completes c i s (.front 1) s'
          (storing c true false (va (g.headD 0)) ((g.filter cached).flatMap at_) ((g.filter fun l => !cached l).flatMap at_)) ∧
        s' = { c.s with clusters := s'.clusters })

/-- R86, R87, R184, R192: P.LD and P.ST access every element in a guarded virtual lane at the address of its layout, ascending in
(o, r, c). A loaded element waits in a window for its sheet slot, with the phantoms' values; one on a page that is not resident reads zero
and sets the residency predicate in its virtual lane, and the flag; a stored one is in flight. An illegal descriptor, and a strong P.LD of
more than 8 KiB, is a reserved use; a misaligned element, base or pitch traps. The first element without permission faults 0x07, else the
first of a store that is not resident 0x06, and the first of a load that meets poison 0x0A. It rests on choices or readings of
the model: logs 66, 69 and 75. -/
def Obligations.PlaneMemory : Prop :=
  ∀ (s : State) (c : Ctx) (i : Instr) (load : Bool) (g : BitVec 3) (a b : BitVec 6) (lay : Layout) (la : BitVec 4) (w : Strength),
    Ready s c i → (i = .pLd g a b lay la w ∧ load = true) ∨ (i = .pSt g a b lay w ∧ load = false) →
      let p := planeOf (c.t.readG g.toNat)
      let strong := decide (w = .strong)
      let base := (c.t.readS a.toNat).toNat
      let pitch := (c.t.readS b.toNat).toInt
      let n := p.bytes
      let es := guardedElements c p
      let va := fun (e : Nat × Nat × Nat) => planeAddr lay base pitch n p.rows p.cols e.1 e.2.1 e.2.2
      let meets := fun (e : Nat × Nat × Nat) => c.s.xlate c.t (va e % 2 ^ 57) (if load then needR else needW)
      let legal := p.ok c.t.const.h c.t.const.n = true ∧ ¬ (load = true ∧ strong = true ∧ 8192 < es.length * n)
      let goes := legal ∧ (∀ e ∈ es, va e % n = 0) ∧ layoutFits lay base pitch ∧ (strong = true → Fresh c ∧ c.t.strongDone = true) ∧
        c.s.pathsFull c.t ((pathsOf (es.map va)).map fun k => if load then k else k + 1) = false
      (¬ legal → ∃ m, exec i s = .next m ∧ Refused c ((encode i).getD 0) 1 m) ∧
      (legal → ¬ ((∀ e ∈ es, va e % n = 0) ∧ layoutFits lay base pitch) →
        ∃ m ti, exec i s = .next m ∧ Trapped c c.t 0x05 ti (.precise c.pc) m ∧
          ∀ e r, es = e :: r → va e % n ≠ 0 → ti = BitVec.ofNat 64 (va e % 2 ^ 57)) ∧
      (∀ before e rest, goes → es = before ++ e :: rest → meets e = .noPerm → (∀ x ∈ before, meets x ≠ .noPerm) →
        ∃ m, exec i s = .next m ∧ Trapped c c.t 0x07 (BitVec.ofNat 64 (va e % 2 ^ 57)) .region m) ∧
      (∀ before e rest, goes → load = false → es = before ++ e :: rest → (∀ x ∈ es, meets x ≠ .noPerm) → meets e = .nonResident →
        (∀ x ∈ before, meets x ≠ .nonResident) →
        ∃ m, exec i s = .next m ∧ Trapped c c.t 0x06 (BitVec.ofNat 64 (va e % 2 ^ 57)) .region m) ∧
      (∀ (cached : Nat × Nat × Nat → Bool) (pa : Nat × Nat × Nat → Nat) before e rest, goes → load = true → es = before ++ e :: rest →
        (∀ x ∈ es, Landed c needR (va x) (pa x) (cached x) ∧ (strong = true → NothingPending c (pa x) n)) →
        (∀ x ∈ before, Unpoisoned c (pa x) n) → ¬ Unpoisoned c (pa e) n → strong = true ∨ cached e = false →
        ∃ m, exec i s = .next m ∧ Trapped c c.t 0x0A (BitVec.ofNat 64 (8 + va e % 2 ^ 57 / 256 * 256)) .region m) ∧
      (∀ (miss cached : Nat × Nat × Nat → Bool) (pa : Nat × Nat × Nat → Nat), goes → load = true →
        (∀ e ∈ es, if miss e = true then c.s.xlate c.t (va e % 2 ^ 57) needR = .nonResident
          else Landed c needR (va e) (pa e) (cached e) ∧ (strong = true → NothingPending c (pa e) n) ∧ Unpoisoned c (pa e) n) →
        let at_ := fun (e : Nat × Nat × Nat) (x : Nat) => p.slotWrite (p.lane e.2.1 e.2.2) (p.sheet e.1 e.2.1 e.2.2) x
        ∃ bytes : Nat × Nat × Nat → List Byte, (∀ e ∈ es, (bytes e).length = n ∧
          ∀ k, k < n → if miss e = true then (bytes e).getD k 0 = 0 else MaySee c.s c.t strong (cached e) (pa e + k) ((bytes e).getD k 0)) ∧
        let writes := (guardedPhantoms c p).map (fun e => at_ e (if p.edge = 3 then (c.t.readS p.fills).toNat % 2 ^ p.w else 0)) ++
          es.map fun e => at_ e (ofBytes (bytes e))
        ∃ s' t', Completes c i s (.front 1) s' t' ∧ Loading c la writes t' ∧
          s' = { c.s with ms.l1 := s'.ms.l1, pod.reqs := s'.pod.reqs, clusters := s'.clusters } ∧
          t' = { c.t with
            regs.p := t'.regs.p, sys.tflags := if es.any miss then c.t.sys.tflags ||| 64 else c.t.sys.tflags,
            rep := logged c strong (es.flatMap bytes), iss.windows := t'.iss.windows,
            iss.flights := t'.iss.flights } ∧
          (t'.iss.flights = c.t.iss.flights ++ (pathsOf (es.map va)).map fun k =>
            ⟨k, .load, strong, false, [], [], false, BitVec.ofNat 64 ((es.head?.map va).getD 0), c.t.eng.next, none⟩) ∧
          ∀ k l, l < 1024 → (t'.readP k).getLsbD l =
            ((c.t.readP k).getLsbD l || (decide (k = c.t.mode.toNat / 2 ^ 13 % 16) && es.any fun e => miss e && decide (p.lane e.2.1 e.2.2 = l)))) ∧
      (∀ (cached : Nat × Nat × Nat → Bool) (pa : Nat × Nat × Nat → Nat), goes → load = false →
        (∀ e ∈ es, Landed c needW (va e) (pa e) (cached e)) →
        let at_ := fun (e : Nat × Nat × Nat) => (List.range n).map fun k => (pa e + k, byteAt (c.t.planeElem p e.1 e.2.1 e.2.2) k)
        ∃ s', Completes c i s (.front 1) s' (storing c strong (strong && decide (n = 8)) ((es.head?.map va).getD 0)
            ((es.filter cached).flatMap at_) ((es.filter fun e => !cached e).flatMap at_)) ∧
          s' = { c.s with clusters := s'.clusters })

/-! Fences, barriers and requests. -/

/-- R193 to R197, R203, R341: FENCE.REL stalls until the release is done; FENCE.ACQ waits for every earlier load and then
acquires; FENCE closes the windows and is both; WAIT completes as an acquire when the path's counter is at or below S[A], and
otherwise withholds the team; QFENCE adds a mark and does not stall; WALKSYNC completes once the stores are done and no walker
keeps an entry: R203 asks this of the lines that the team has stored, R341 has WALKSYNC drop them all. -/
def Obligations.Fences : Prop :=
  ∀ (s : State) (c : Ctx),
    let loaded := fun (t : Team) => ∀ f ∈ t.iss.flights, f.kind = .load → f.done = true
    (Ready s c .fenceRel →
      (ReleaseDone c.t → Completes c .fenceRel s (.front 1) c.s c.t) ∧
      (¬ ReleaseDone c.t → ∃ n, exec .fenceRel s = .next n ∧ Stalled c .release n)) ∧
    (Ready s c .fenceAcq →
      (loaded c.t → Completes c .fenceAcq s (.front 1) (acquiredIn c.s c.t) { c.t with iss.ahead := [] }) ∧
      (¬ loaded c.t → ∃ n, exec .fenceAcq s = .next n ∧ Held c c.t (.fenceAcq false) n)) ∧
    (Ready s c .fence →
      (ReleaseDone c.t → loaded c.t →
        Completes c .fence s (.front 1) (acquiredIn c.s c.t) { c.t.closeAll with iss := { c.t.closeAll.iss with ahead := [] } }) ∧
      (ReleaseDone c.t → ¬ loaded c.t → ∃ n, exec .fence s = .next n ∧ Held c c.t.closeAll (.fenceAcq true) n) ∧
      (¬ ReleaseDone c.t → ∃ n u, exec .fence s = .next n ∧ n.team? c.t.id = some u ∧ SameBut c.t.id c.s n ∧
        u.iss.stalled = some .release ∧ u.regs = c.t.closeAll.regs ∧ u.iss.windows = c.t.closeAll.iss.windows ∧ u.ctl = c.t.ctl ∧ u.iss.issued = c.t.iss.issued)) ∧
    (∀ path a, Ready s c (.wait path a) →
      let live := (c.t.iss.flights.filter fun f => f.path == path.toNat).length
      (live ≤ (c.t.readS a.toNat).toNat →
        Completes c (.wait path a) s (.front 1) (acquiredIn c.s c.t) { c.t with iss.ahead := [] }) ∧
      ((c.t.readS a.toNat).toNat < live → ∃ n, exec (.wait path a) s = .next n ∧ Held c c.t (.wait path.toNat (c.t.readS a.toNat)) n)) ∧
    (∀ a, Ready s c (.qfence a) → ∃ old, Completes c (.qfence a) s (.front 1) c.s
        { c.t with eng.qfences := old ++ [((c.t.readS a.toNat).extractLsb' 0 7, c.t.eng.next)] } ∧
      ∀ m n, (m, n) ∈ old ↔ (m, n) ∈ c.t.eng.qfences ∧ ∃ q, q < 7 ∧ m.getLsbD q = true ∧ ∃ k ∈ c.t.queued q, k < n) ∧
    (Ready s c .walksync →
      ((∀ f ∈ c.t.iss.flights, f.kind = .store → f.done = true ∨ (f.bytes = [] ∧ f.remote = [])) ∧ c.s.ms.walk = [] →
        Completes c .walksync s (.front 1) c.s c.t) ∧
      (¬ ((∀ f ∈ c.t.iss.flights, f.kind = .store → f.done = true ∨ (f.bytes = [] ∧ f.remote = [])) ∧ c.s.ms.walk = []) →
        ∃ n, exec .walksync s = .next n ∧ Held c c.t .walksync n))

/-- R198 to R201, R365: a barrier operation on an object in resident memory is performed at once on all its fields, and no other byte of
memory changes; BAR.ARRIVE is a release and gives the phase before it; an overflow traps precisely with the object unchanged; a
misaligned object traps. BAR.WAIT completes as an acquire where the phase differs from S[B][0], and otherwise withholds the team; of
a shed power class BAR.WAIT is held and BAR.ARRIVE withholds after it. -/
def Obligations.Barriers : Prop :=
  ∀ (s : State) (c : Ctx) (pa : Nat) (cached : Bool),
    let b := barObj c.s.mem.byte pa
    let lands := fun (a : BitVec 7) => (c.t.readS a.toNat).toNat % 16 = 0 ∧ Fresh c ∧ c.t.strongDone = true ∧
      Landed c needRW (c.t.readS a.toNat).toNat pa cached ∧ NothingPending c pa 16 ∧ Unpoisoned c pa 16 ∧ pa % 16 = 0 ∧
      (∀ r ∈ c.s.pod.reqs, r.team ≠ c.t.id)
    (∀ i a d r, Ready s c i → barResult c i b = some (a, d, r) →
      ((c.t.readS a.toNat).toNat % 16 ≠ 0 →
        ∃ n, exec i s = .next n ∧ Trapped c c.t 0x05 (BitVec.ofNat 64 ((c.t.readS a.toNat).toNat % 2 ^ 57)) (.precise c.pc) n) ∧
      (∀ k, r = .error k → lands a → (d.isSome = true → ReleaseDone c.t) →
        ∃ n, exec i s = .next n ∧ Trapped c c.t 0x10 (BitVec.ofNat 64 k) (.precise c.pc) n) ∧
      (∀ b', r = .ok b' → lands a → (d.isSome = true → ReleaseDone c.t) →
        ∃ s' t', Completes c i s (.front 1) s' t' ∧ Performed c s'.mem.byte false s' ∧ barObj s'.mem.byte pa = b' ∧
          (∀ x, x < pa ∨ pa + 16 ≤ x → s'.mem.byte x = c.s.mem.byte x) ∧
          (∀ k, t'.readS k = if k ≠ 0 ∧ d.map BitVec.toNat = some k then (if b.phase then 1 else 0) else c.t.readS k) ∧
          t' = { c.t with
            regs.s := t'.regs.s, eng.k := t'.eng.k, rep := logged c true (if d.isSome then [if b.phase then 1 else 0] else []),
            iss.withheld := if d.isSome && c.t.sched.shedPark then some (c.fi, .shed) else c.t.iss.withheld })) ∧
    (∀ a x, Ready s c (.barWait a x) →
      let i : Instr := .barWait a x
      ((c.t.readS a.toNat).toNat % 16 ≠ 0 →
        ∃ n, exec i s = .next n ∧ Trapped c c.t 0x05 (BitVec.ofNat 64 ((c.t.readS a.toNat).toNat % 2 ^ 57)) (.precise c.pc) n) ∧
      ((c.t.readS a.toNat).toNat % 16 = 0 → c.t.sched.shedPark = true → ∃ n, exec i s = .next n ∧ Held c c.t .shed n) ∧
      (lands a → c.t.sched.shedPark = false → b.phase ≠ (c.t.readS x.toNat).getLsbD 0 →
        Completes c i s (.front 1) (acquiredIn c.s c.t) { c.t with rep := logged c true [], iss.ahead := [] }) ∧
      (lands a → c.t.sched.shedPark = false → b.phase = (c.t.readS x.toNat).getLsbD 0 →
        ∃ n l1, exec i s = .next n ∧ (∀ w ∈ l1, w ∈ c.s.ms.l1) ∧
          Held { c with s := { c.s with ms.l1 := l1 } } c.t (.barWait (c.t.readS a.toNat) (c.t.readS x.toNat |>.getLsbD 0)) n))

/-- R143 to R145, R204, R309, R310, R343: ICINV waits for the team's stores and then holds it until the caches have answered,
free of the range's lines; PGREQ counts on path 6 and asks for a page that is not resident, by a record in the page-request ring
unless one asks already; LAUNCH claims a slot of the queue, copies its record into it and, once every record before it is
published, advances the write index, and nothing else in memory changes; SC.WB and SC.DROP do nothing for a length of zero,
fault outside a region, and act on the dirty mapped words of the range alone: SC.WB sends them as weak stores to their global
addresses, marks them clean and goes on until they have registered, and a LAUNCH that has claimed a slot until the records
before its own are published: either is then under way, and nothing else of the team issues. It rests on choices or readings of
the model: logs 14, 22, 23, 31, 40 and 57. -/
def Obligations.Requests : Prop :=
  ∀ (s : State) (c : Ctx),
    let drained := ∀ f ∈ c.t.iss.flights, f.kind = .store → f.done = true ∨ (f.bytes = [] ∧ f.remote = [])
    (∀ a b, Ready s c (.icinv a b) →
      let lo := (c.t.readS a.toNat).toNat % 2 ^ 57
      let hit := fun (x : Nat) => ∃ y, y / 128 = x / 128 ∧ lo ≤ y ∧ y < min (lo + (c.t.readS b.toNat).toNat) (2 ^ 57)
      (drained → ∃ n, exec (.icinv a b) s = .next n ∧ Held c c.t (.icinv (c.t.readS a.toNat) (c.t.readS b.toNat)) n ∧
        (¬ c.t.Arrives c.fi (c.t.nextPc c.fi) → ∃ m u, exec (.icinvComplete c.t.id) n = .next m ∧ m.team? c.t.id = some u ∧
          u.iss.withheld = none ∧ u.iss.issued = c.t.iss.issued + 1 ∧ u.frag c.fi = { c.t.frag c.fi with pc := c.t.nextPc c.fi, replay := false } ∧
          (∀ k, k ≠ c.fi → u.frag k = c.t.frag k) ∧ u.regs = c.t.regs ∧ u.sys = c.t.sys ∧ u.rep = c.t.rep ∧ u.eng = c.t.eng ∧
          (∀ k, k ≠ c.t.id → m.team? k = c.s.team? k) ∧ (∀ x, m.mem.byte x = c.s.mem.byte x) ∧
          (∀ x, x ∈ m.ms.icache ↔ x ∈ c.s.ms.icache ∧ ¬ hit x.va) ∧
          ∀ k ∈ m.clusters, ∀ x ∈ k.cores, ∀ w ∈ x.loopBuf, ¬ hit w.va)) ∧
      (¬ drained → ∃ n, exec (.icinv a b) s = .next n ∧ Stalled c .release n)) ∧
    (∀ a, Ready s c (.pgreq a) → Fresh c → c.t.counterFull [6] = false →
      let va := (c.t.readS a.toNat).toNat % 2 ^ 57
      let ended := decide (va / 2 ^ 48 = 0x1FF) || c.s.walkPage c.t.const.asid va needNone != .waiting
      let vi := c.t.const.vi
      let asked := ∃ r ∈ c.s.prq, r.asid = c.t.const.asid ∧ r.page = va / 65536
      ∃ s' t', Completes c (.pgreq a) s (.front 1) s' t' ∧ (ended = true ∨ asked → s' = c.s) ∧
        (ended = false → ¬ asked → (∀ r ∈ c.s.prq, r.sent = true) → ∀ i, c.s.vis[vi]? = some i →
          let slot := i.prqbase + 32 * (i.prqwr.toNat % 2 ^ i.prqlogn)
          (2 ^ i.prqlogn ≤ (i.prqwr - i.prqrd).toNat →
            s' = { c.s with prq := c.s.prq ++ [⟨vi, c.t.const.asid, va / 65536, 0, false, false⟩] }) ∧
          ((i.prqwr - i.prqrd).toNat < 2 ^ i.prqlogn → (∀ x, x < 32 → populated (slot + x) = true) →
            wordAt s'.mem.byte slot 8 = va / 65536 * 65536 ∧ wordAt s'.mem.byte (slot + 8) 2 = c.t.const.asid.toNat ∧
            wordAt s'.mem.byte (slot + 10) 1 = 0 ∧ wordAt s'.mem.byte (slot + 12) 4 = i.seq.toNat ∧
            (∀ x, x < slot ∨ slot + 32 ≤ x → s'.mem.byte x = c.s.mem.byte x) ∧
            (∀ k u, k ≠ c.t.id → c.s.team? k = some u → ∃ v, s'.team? k = some v ∧ v = { u with eng.k := v.eng.k }) ∧
            s' = { c.s with
              mem := s'.mem, ms := s'.ms, teams := s'.teams, vis := setAt c.s.vis vi { i with prqwr := i.prqwr + 1, seq := i.seq + 1 },
              boot.msix := c.s.boot.msix ++ [(vi + 1, 1)], prq := c.s.prq ++ [⟨vi, c.t.const.asid, va / 65536, i.seq, false, true⟩] })) ∧
        t' = { c.t with
          rep := logged c true [], eng.k := t'.eng.k,
          iss.flights := leftInFlight (c.t.iss.flights ++
            [⟨6, .page (BitVec.ofNat 64 va), false, false, [], [], ended, BitVec.ofNat 64 va, 0, none⟩]) }) ∧
    (∀ a b, Ready s c (.launch a b) →
      let va := (c.t.readS a.toNat).toNat
      let q := (c.t.readS b.toNat).toNat % 1024
      let owned := (c.s.cfgNow q).vi = c.t.const.vi ∧ c.s.ringPopulated q = true
      let qcb := c.s.boot.qcbbase + 256 * q
      let i := (c.s.home8 (qcb + 128)).toNat
      let slot := c.s.qring q + 256 * (i % 2 ^ (c.s.cfgNow q).logn)
      (va % 256 ≠ 0 → ∃ n, exec (.launch a b) s = .next n ∧ Trapped c c.t 0x05 (BitVec.ofNat 64 (va % 2 ^ 57)) (.precise c.pc) n) ∧
      (va % 256 = 0 → Fresh c → c.t.iss.claim = none → ¬ owned →
        ∃ n, exec (.launch a b) s = .next n ∧ Trapped c c.t 0x07 (BitVec.ofNat 64 (va % 2 ^ 57)) .region n) ∧
      (∀ k j, va % 256 = 0 → Fresh c → c.t.iss.claim = some (c.fi, k, j) →
        let at_ := c.s.boot.qcbbase + 256 * k + 136
        (c.s.home8 at_ ≠ j → ∃ n, exec (.launch a b) s = .next n ∧ Stalled c .ringFull n) ∧
        (c.s.home8 at_ = j → (∀ x, x < 8 → populated (at_ + x) = true) → ∃ s' t', Completes c (.launch a b) s (.front 1) s' t' ∧
          Performed c (withBytes c.s.mem.byte at_ ((List.range 8).map (byteAt (j + 1).toNat))) false s' ∧
          t' = { c.t with eng.k := t'.eng.k, rep := logged c true [], iss.claim := none })) ∧
      (∀ pa cached, va % 256 = 0 → Fresh c → c.t.iss.claim = none → owned → Landed c needR va pa cached →
        Landed c needR (va + 128) (pa + 128) cached → Unpoisoned c pa 256 → ReleaseDone c.t →
        seenBytes c true cached (pa + 128) 128 = seenBytes c false cached (pa + 128) 128 → c.s.ringFull q = false →
        (∀ x, x < 256 → populated (slot + x) = true ∧ populated (qcb + x) = true) → slot + 256 ≤ qcb ∨ qcb + 256 ≤ slot →
        let record := seenBytes c false cached pa 256
        let next := byteAt ((i + 1) % 2 ^ 64)
        let m := fun (x : Nat) =>
          if qcb + 136 ≤ x ∧ x < qcb + 144 then next (x - (qcb + 136))
          else if slot ≤ x ∧ x < slot + 256 then record.getD (x - slot) 0
          else if qcb + 128 ≤ x ∧ x < qcb + 136 then next (x - (qcb + 128))
          else c.s.mem.byte x
        (c.s.home8 (qcb + 136) = c.s.home8 (qcb + 128) →
          ∃ s' t', Completes c (.launch a b) s (.front 1) s' t' ∧ Performed c m false s' ∧
            t' = { c.t with eng.k := t'.eng.k, rep := logged c true [] }) ∧
        (c.s.home8 (qcb + 136) ≠ c.s.home8 (qcb + 128) →
          ∃ n u, exec (.launch a b) s = .next n ∧ n.team? c.t.id = some u ∧ u.iss.stalled = none ∧
            u.iss.begun = some (c.fi, (encode (.launch a b)).getD 0) ∧
            u.iss.claim = some (c.fi, q, c.s.home8 (qcb + 128)) ∧ u.regs = c.t.regs ∧ u.ctl = c.t.ctl ∧ u.rep = c.t.rep ∧
            u.iss.issued = c.t.iss.issued ∧ n.mem.bytes slot 256 = record ∧ n.home8 (qcb + 128) = c.s.home8 (qcb + 128) + 1 ∧
            ∀ x, x < slot ∨ slot + 256 ≤ x → x < qcb + 128 ∨ qcb + 136 ≤ x → n.mem.byte x = c.s.mem.byte x))) ∧
    (∀ i a b, Ready s c i → i = .scWb a b ∨ i = .scDrop a b →
      let range := c.s.scratchRange c.t ((c.t.readS a.toNat).toNat % 2 ^ 57) (c.t.readS b.toNat).toNat
      (c.t.readS b.toNat = 0 → Completes c i s (.front 1) c.s c.t) ∧
      (∀ va, range = .outside va → ∃ n, exec i s = .next n ∧ Trapped c c.t 0x07 (BitVec.ofNat 64 (va % 2 ^ 57)) .region n) ∧
      (range = .unstarted → ∃ n, exec i s = .next n ∧ Stalled c .sibling n) ∧
      (∀ u offs, range = .words u offs → u.dirtyWords offs = [] → i = .scWb a b →
        (drained → Completes c i s (.front 1) c.s c.t) ∧ (¬ drained → ∃ n, exec i s = .next n ∧ Stalled c .drain n)) ∧
      (∀ u offs, range = .words u offs → u.dirtyWords offs ≠ [] → i = .scWb a b → c.s.pathsFull c.t [1] = false →
        let ws := u.dirtyWords offs
        let meets := fun (x : Nat × Nat) => c.s.xlate c.t (x.2 % 2 ^ 57) needW
        (∀ pa : Nat → Nat, (∀ x ∈ ws, meets x = .ok (.home (pa x.1))) →
          let bytes := ws.flatMap fun x => (List.range 4).map fun k => (pa x.1 + k, seen c.s c.t true false (u.sched.scratch + x.1 + k))
          let flight : Flight := ⟨1, .store, false, false, bytes, [], false, BitVec.ofNat 64 ((ws.head?.map (·.2)).getD 0), c.t.eng.next, none⟩
          leftInFlight c.t.iss.flights = c.t.iss.flights →
          ∃ n v x, exec i s = .next n ∧ n.team? c.t.id = some x ∧ x.iss.stalled = none ∧
            x.iss.begun = some (c.fi, (encode i).getD 0) ∧ x.iss.issued = c.t.iss.issued ∧
            x.iss.flights = leftInFlight (c.t.iss.flights ++ [flight]) ∧ x.regs = c.t.regs ∧ x.sys = c.t.sys ∧ x.ctl = c.t.ctl ∧ x.rep = c.t.rep ∧
            n.team? u.id = some v ∧ (v.maps = u.maps.map fun (m : ScratchMap) => { m with
              dirty := m.dirty.filter fun w => !(ws.map (·.1)).contains w }) ∧
            (∀ k, k ≠ c.t.id → k ≠ u.id → n.team? k = c.s.team? k) ∧ n = { c.s with teams := n.teams, clusters := n.clusters }) ∧
        (∀ x r, ws = x :: r →
          let t' : Team := { c.t with iss.flights := leftInFlight c.t.iss.flights }
          (meets x = .noPerm → ∃ n, exec i s = .next n ∧ Trapped c t' 0x07 (BitVec.ofNat 64 (x.2 % 2 ^ 57)) .region n) ∧
          (meets x = .nonResident → ∃ n, exec i s = .next n ∧ Trapped c t' 0x06 (BitVec.ofNat 64 (x.2 % 2 ^ 57)) .region n))) ∧
      (∀ u offs, range = .words u offs → i = .scDrop a b →
        ∃ s' t' v, Completes c i s (.front 1) s' t' ∧ s' = { c.s with teams := s'.teams } ∧ s'.team? u.id = some v ∧
          (∀ k w, k ≠ c.t.id → k ≠ u.id → c.s.team? k = some w → ∃ w', s'.team? k = some w' ∧ w' = { w with eng.k := w'.eng.k }) ∧
          t' = { c.t with maps := t'.maps, eng.k := t'.eng.k } ∧
          v.maps = u.maps.map fun (m : ScratchMap) => { m with
            dirty := m.dirty.filter fun w => !((u.dirtyWords offs).map (·.1)).contains w,
            filled := m.filled.filter fun w => !((u.dirtyWords offs).map (·.1)).contains w }))

/-! Engine, copy and chain operations at issue. -/

/-- R211, R212, R220 to R222, R224, R227, R228, R231, R234, R237: an MX or TBL operation with legal operands enters its queue with what it
captures at issue, and is logged; it stalls while the queue holds 32. A misaligned address traps, a reserved save header is a
reserved use. Of the products this is the operation alone; a gang-flagged one with a legal gang arrives at the latch. It rests
on choices or readings of the model: logs 33, 40 and 69. -/
def Obligations.EngineQueues : Prop :=
  ∀ (s : State) (c : Ctx), Fresh c →
    let room := fun (q6 : Bool) => (if q6 then c.t.eng.q6 else c.t.eng.q5).length < 32
    let subs := c.t.eng.subs
    let at_ := fun (a : BitVec 6) => (c.t.readS a.toNat).toNat % 2 ^ 57
    (∀ i q6 mis addr pitch, Ready s c i → plainOp c i = some (q6, mis, addr, pitch) →
      (mis ≠ 0 → ∃ n, exec i s = .next n ∧ Trapped c c.t 0x05 (BitVec.ofNat 64 (addr.toNat % 2 ^ 57)) (.precise c.pc) n) ∧
      (mis = 0 → room q6 → ∃ s' o, Completes c i s (.front 1) s' (queueing c o q6 none subs) ∧ NewOp c i o ∧ o.addr = addr ∧
        o.pitch = pitch ∧ s' = { c.s with clusters := s'.clusters }) ∧
      (mis = 0 → ¬ room q6 → ∃ n, exec i s = .next n ∧ Stalled c .queueFull n)) ∧
    (∀ a h, Ready s c (.mxResume a) → at_ a % 256 = 0 → room false → DescAt c (at_ a) 256 h →
      (c.t.headerReserved h = true → ∃ n, exec (.mxResume a) s = .next n ∧ Refused c ((encode (.mxResume a)).getD 0) 1 n) ∧
      (c.t.headerReserved h = false → ∃ s' o, Completes c (.mxResume a) s (.front 1) s' (queueing c o false none subs) ∧
        NewOp c (.mxResume a) o ∧ o.adesc = h ∧ o.addr.toNat = at_ a ∧ ReadOnly c s')) ∧
    (∀ k sl a d, Ready s c (.tblKbuild k sl a) → at_ a % 32 = 0 → room true → DescAt c (at_ a) 32 d →
      let ty := (slotTypeA (c.t.slot sl)).getD .bf16
      slotLegal (c.t.slot sl) (fun x => decide (6 ≤ x) && decide (x ≤ 10)) anyType = true →
      (opDesc d).reserved ty = false → inWindow (opDesc d).base = true → (opDesc d).rows ≤ 32 → (opDesc d).kgn ≤ 8 →
      (opDesc d).misaligned ty = false →
      ∃ s' o, Completes c (.tblKbuild k sl a) s (.front 1) s' (queueing c o true (some k.toNat) subs) ∧
        NewOp c (.tblKbuild k sl a) o ∧ o.adesc = d ∧ ReadOnly c s') ∧
    (∀ t sl a b acc gang ta tb da db st subs', let i : Instr := .mxMma t sl a b acc gang ta tb
      Ready s c i → at_ a % 32 = 0 → room false → DescAt c (at_ a) 32 da → OperandB c (c.t.readS b.toNat) db st subs' →
      let fa := (slotTypeA (c.t.slot sl)).getD .bf16
      let fb := (slotTypeB (c.t.slot sl)).getD .bf16
      slotLegal (c.t.slot sl) denseType denseType = true → isStream (c.t.readS a.toNat) = false → ¬ (fa = .bx8 ∧ ta = true) →
      ¬ (fb = .bx8 ∧ tb = false) → (opDesc da).reserved fa = false → (opDesc db).reserved fb = false →
      (opDesc da).misaligned fa = false → (opDesc db).misaligned fb = false →
      (gang = false → ∃ o, Queued c i s o subs' ∧ NewOp c i o ∧ o.adesc = da ∧ o.bdesc = db ∧ o.stream = st) ∧
      (gang = true → 2 ≤ gangN c.t.regs.gang → gangN c.t.regs.gang ≤ 6 → c.s.gangOk c.t = true →
        ∃ n s', exec i s = .next n ∧ ReadOnly c s' ∧
          Held { c with s := s' } c.t (.gang ((encode i).getD 0) true da (if st = none then db else [])) n)) ∧
    (∀ t sl a b acc gang hi db st subs', let i : Instr := .mxKmma t sl a b acc gang hi
      Ready s c i → room false → OperandB c (c.t.readS b.toNat) db st subs' → slotLegal (c.t.slot sl) anyType (· == 12) = true →
      let w := opDesc db
      w.reserved .bx4 = false → w.kgn = 4 ∨ w.kgn = 8 → 8 * (w.kg0 + w.kgn) ≤ w.cols → w.misaligned .bx4 = false →
      (gang = false → ∃ o, Queued c i s o subs' ∧ NewOp c i o ∧ o.bdesc = db ∧ o.stream = st) ∧
      (gang = true → 2 ≤ gangN c.t.regs.gang → gangN c.t.regs.gang ≤ 6 → c.s.gangOk c.t = true →
        ∃ n s', exec i s = .next n ∧ ReadOnly c s' ∧
          Held { c with s := s' } c.t (.gang ((encode i).getD 0) true [] (if st = none then db else [])) n))

/-- R205, R206, R209, R219, R220, R225, R229, R239: MX.FENCE closes the open batch and gives its number; MX.WAIT completes as an acquire
where every batch up to the number is done, and otherwise withholds the team; MX.SETGANG sets GANG; TBL.KTEST tells a table's
state; a stream opens and is subscribed to; a copy or chain with a legal descriptor enters its queue and counts on path 4 or 5.
It rests on choices or readings of the model: logs 33, 35, 40, 69 and 70. -/
def Obligations.EngineControl : Prop :=
  ∀ (s : State) (c : Ctx),
    let at_ := fun (a : BitVec 6) => (c.t.readS a.toNat).toNat % 2 ^ 57
    (∀ a, Ready s c (.mxFence a) → Fresh c → ∃ t', Completes c (.mxFence a) s (.front 1) c.s t' ∧
      t' = { c.t with
        regs.s := t'.regs.s, eng.closed := c.t.eng.opened, eng.opened := c.t.eng.opened + 1,
        rep := logged c true ((List.range 8).map (byteAt (c.t.eng.opened % 2 ^ 64))) } ∧
      ∀ k, t'.readS k = if k ≠ 0 ∧ k = a.toNat then BitVec.ofNat 64 c.t.eng.opened else c.t.readS k) ∧
    (∀ a, Ready s c (.mxWait a) →
      let done := ∀ o ∈ c.t.eng.q5 ++ c.t.eng.q6, min (c.t.readS a.toNat).toNat c.t.eng.closed < o.batch
      (done → Completes c (.mxWait a) s (.front 1) (acquiredIn c.s c.t) { c.t with iss.ahead := [] }) ∧
      (¬ done → ∃ n, exec (.mxWait a) s = .next n ∧ Held c c.t (.mxWait (c.t.readS a.toNat)) n)) ∧
    (∀ a, Ready s c (.mxSetgang a) →
      let g := (c.t.readS a.toNat).toNat
      let bad := 2 ^ 56 ≤ g ∨ g / 8 % 32 ≠ 0 ∨ g % 8 = 1 ∨ g % 8 = 7
      (bad → ∃ n, exec (.mxSetgang a) s = .next n ∧ Refused c ((encode (.mxSetgang a)).getD 0) 1 n) ∧
      (¬ bad → Completes c (.mxSetgang a) s (.front 1) c.s { c.t with regs.gang := c.t.readS a.toNat })) ∧
    (∀ k a, Ready s c (.tblKtest k a) →
      let tab := c.t.eng.k.getD k.toNat ⟨.empty, 0, 0, 0, [], 0, 0, 0, []⟩
      let code := match tab.st with | .empty => 0 | .attached => 1 | .stale => 2 | .detached => 3
      ((∃ o ∈ c.t.eng.q6, o.table = some k.toNat) → ∃ n, exec (.tblKtest k a) s = .next n ∧ Stalled c .tables n) ∧
      ((∀ o ∈ c.t.eng.q6, o.table ≠ some k.toNat) → Completes c (.tblKtest k a) s (.front 1) c.s
        (c.t.writeS a.toNat (BitVec.ofNat 64 (if tab.st = .empty then 0 else code + 2 ^ 8 * tab.rows + 2 ^ 16 * tab.groups))))) ∧
    (∀ a b d, Ready s c (.mxStreamOpen a b) → Fresh c → (c.t.readS b.toNat).toNat ≤ 15 → at_ a % 64 = 0 → DescAt c (at_ a) 64 d →
      let bad := (opDesc d).reservedBase || !allZero d 48 16 || streamCount d == 0 || streamSubs d == 0 || decide (16 < streamSubs d)
      (bad = true → ∃ n, exec (.mxStreamOpen a b) s = .next n ∧ Refused c ((encode (.mxStreamOpen a b)).getD 0) 1 n) ∧
      (∀ k, bad = false → c.s.stream? c.t (c.t.readS b.toNat).toNat = none → c.s.clusters[c.t.sched.cluster]? = some k → (k.streams.filter (!·.closed)).length < 16 →
        ∃ s' id, (∀ x ∈ k.streams, x.id ≠ id) ∧ Completes c (.mxStreamOpen a b) s (.front 1) s' { c.t with rep := logged c true [] } ∧ ReadOnly c s' ∧
          s'.clusters[c.t.sched.cluster]? = some { k with
            streams := k.streams ++ [⟨id, c.t.const.launch, c.t.const.placeNo, (c.t.readS b.toNat).toNat, d, 0, 0, [], false⟩] })) ∧
    (∀ a b, Ready s c (.mxSub a b) → Fresh c →
      let n := (c.t.readS a.toNat).toNat
      let w := (c.t.readS b.toNat).toNat
      (15 < n ∨ w = 0 ∨ 16 < w → ∃ m, exec (.mxSub a b) s = .next m ∧ Refused c ((encode (.mxSub a b)).getD 0) 1 m) ∧
      (n ≤ 15 → 0 < w → w ≤ 16 → c.s.stream? c.t n = none → ∃ m, exec (.mxSub a b) s = .next m ∧ Stalled c .streamBusy m) ∧
      (∀ st, n ≤ 15 → 0 < w → w ≤ 16 → c.s.stream? c.t n = some st →
        ∃ s' t', Completes c (.mxSub a b) s (.front 1) s' t' ∧ s' = { c.s with clusters := s'.clusters } ∧
          t' = { c.t with eng.subs := t'.eng.subs, rep := logged c true [] } ∧
          t'.sub? n = some (w, ((c.t.sub? n).map (·.2)).getD 0) ∧ ∀ k, k ≠ n → t'.sub? k = c.t.sub? k)) ∧
    (∀ (i : Instr) (a : BitVec 7) (q n : Nat) (chain : Bool) (d : List Byte), Ready s c i → Fresh c →
      (∃ b, i = .cpy a b ∧ q = (c.t.readS b.toNat).toNat ∧ q ≤ 3 ∧ n = 80 ∧ chain = false ∧ copyReserved d = false ∧
        copyMisaligned (copyDesc d) = none) ∨
      (i = .chain a ∧ q = 4 ∧ n = 64 ∧ chain = true ∧ chainReserved d = false ∧ chainMisaligned (chainDesc d) = none) →
      (c.t.readS a.toNat).toNat % 2 ^ 57 % 16 = 0 → DescAt c ((c.t.readS a.toNat).toNat % 2 ^ 57) n d →
      c.t.counterFull [if chain then 5 else 4] = false →
      let serial := c.t.eng.next
      ∃ s', ReadOnly c s' ∧ Completes c i s (.front 1) s'
        { c.t with
          iss.flights := c.t.iss.flights ++ [⟨if chain then 5 else 4, .copy serial, false, false, [], [], false, 0, serial, none⟩],
          eng.next := serial + 1, eng.copies := c.t.eng.copies ++ [⟨serial, q, chain, d, 0, false, false, none, 0⟩],
          rep := loggedOp c none })

/-! The events of a team. -/

/-- R26, R38, R50 to R52, R137, R236, R244, R259, R263, R321: the first due window closes and writes what its load brought; a transient
result that no instruction can read is gone; a result that is ready holds nothing back; a load's value returns and the counters
fall in issue order; a word of a store registers, its bytes alone change, its core owns it, and a table that watches it becomes
stale, but for the team's own, against which the store was checked at its issue; a pending fault is taken; a team that has waited 4,096 front cycles is boosted; a YIELD is over after 16 front cycles or
when no other team can issue. It rests on choices or readings of the model: logs 16, 18 and 79. -/
def Obligations.TeamEvents : Prop :=
  ∀ (s : State) (t : Team), s.team? t.id = some t →
    (∀ w r, t.iss.windows = w :: r → w.closeAt ≤ t.iss.issued → w.waits = [] →
      ∃ u, exec (.windowClose t.id) s = .next (s.setTeam u) ∧
        u = { t with regs.s := u.regs.s, regs.v := u.regs.v, iss.windows := r, iss.bypass := u.iss.bypass } ∧
        (∀ d x, w.writes = [.s d x] → ∀ k, u.readS k = if k ≠ 0 ∧ k = d.toNat then x else t.readS k) ∧
        (∀ a l, a < 127 → l < 1024 → (∀ x ∈ w.writes, ∀ b k m y, x = .v b k m y → k < 1024 ∧ ¬ (b = a ∧ k = l)) →
          u.readV a l = t.readV a l) ∧
        (∀ pre post a l m y, w.writes = pre ++ .v a l m y :: post → a < 127 → l < 1024 →
          (∀ x ∈ pre ++ post, ∀ b k m' y', x = .v b k m' y' → k < 1024 ∧ ¬ (b = a ∧ k = l)) →
          u.readV a l = (t.readV a l &&& ~~~m) ||| (y &&& m))) ∧
    ((∃ x ∈ t.iss.bypass, x.producer + 3 < t.iss.issued) → exec (.transientExpire t.id) s = .next (s.setTeam
      { t with iss.bypass := t.iss.bypass.filter fun x => decide (t.iss.issued ≤ x.producer + 3) })) ∧
    (∀ n b k, t.iss.busy[n]? = some b → s.clusters[t.sched.cluster]? = some k →
      b.readyAt ≤ (if b.lane then k.lane2 / 2 else k.cyclef) →
        exec (.resultReady t.id n) s = .next (s.setTeam { t with iss.busy := t.iss.busy.eraseIdx n })) ∧
    (∀ n f, t.iss.flights[n]? = some f → f.kind = .load → f.done = false → f.remote = [] →
      exec (.loadReturn t.id n) s = .next (s.setTeam
        { t with iss.flights := leftInFlight (setAt t.iss.flights n { f with done := true }) })) ∧
    (∀ n f w, t.iss.flights[n]? = some f →
      let unit := fun (b : Nat × Byte) => if f.whole then b.1 / 8 == w / 8 else b.1 / 4 == w / 4
      (∃ b ∈ f.bytes, b.1 / 4 * 4 = w) →
      (∀ g ∈ t.iss.flights.take n, ∀ b ∈ g.bytes, ∀ x ∈ f.bytes, unit x = true → b.1 / 4 ≠ x.1 / 4) →
      ∃ m u, exec (.storeRegister t.id n w) s = .next m ∧ m.team? t.id = some u ∧
        (∀ a, (∀ b ∈ f.bytes, unit b = true → b.1 ≠ a) → m.mem.byte a = s.mem.byte a) ∧
        (∀ b ∈ f.bytes, unit b = true → (∀ x ∈ f.bytes, x.1 = b.1 → x = b) → m.mem.byte b.1 = b.2) ∧
        (∀ b ∈ f.bytes, unit b = true → lookupKey (b.1 / 4 * 4) m.ms.owner = some t.coreId) ∧
        (let rest := f.bytes.filter (fun b => !unit b);
          u = { t with
            iss.flights := leftInFlight (setAt t.iss.flights n { f with bytes := rest, done := rest.isEmpty && f.remote.isEmpty }) }) ∧
        (∀ j v, j ≠ t.id → s.team? j = some v → m.team? j = some { v with eng.k := v.eng.k.map fun (k : KTable) =>
          if k.st = .attached ∧ (f.bytes.any fun b => unit b && decide (k.watchAt ≤ b.1) && decide (b.1 < k.watchAt + k.watchLen)) = true
          then { k with st := .stale } else k }) ∧
        m = { s with mem := m.mem, ms := m.ms, teams := m.teams }) ∧
    (∀ fi f r, t.iss.faults = f :: r → s.mayIssue t fi = true → t.tm = false → t.iss.begun = none →
      ∃ n u, exec (.trapEntry t.id fi) s = .next n ∧ n.team? t.id = some u ∧
        TookTrap { t with iss.faults := r } fi f.cause f.tinfo
          (if f.tinfo.getLsbD 61 then .resumable (t.frag fi).pc else .region) u ∧
        (∀ k, k ≠ t.id → n.team? k = s.team? k) ∧ n = { s with teams := n.teams, slots := n.slots }) ∧
    (4096 ≤ t.sched.waits → t.sched.boosted = false →
      exec (.teamBoost t.id) s = .next (s.setTeam { t with sched.boosted := true })) ∧
    (∀ fi n k, t.iss.withheld = some (fi, .yield n) → s.clusters[t.sched.cluster]? = some k →
      (n + 16 ≤ k.cyclef ∨ s.othersEligible t = false) →
        exec (.yieldExpire t.id) s = .next (s.setTeam { t with iss.withheld := none }))

/-- R143, R194 to R196, R201, R203, R225, R226, R229, R349, R368: an instruction for which a team is withheld completes when
what it waits for has happened, the waits as acquires, and the end of one team's BAR.WAIT is that of every team of the cluster
that waits on the object; until a remote phase turns it is read again. A gang whose members are all recorded and match leaves
the latch (no more is told of it here); otherwise each recorded member takes the mismatch trap with its detail. It rests on
choices or readings of the model: logs 3, 22 and 59. -/
def Obligations.WaitsEnd : Prop :=
  ∀ (s : State) (t : Team) (fi : Nat), s.team? t.id = some t → (t.frag fi).st = .running →
    let resting := { t with iss := { t.iss with ahead := [] } }
    (∀ p x, t.iss.withheld = some (fi, .wait p x) → (t.iss.flights.filter fun f => f.path == p).length ≤ x.toNat →
      ∃ m, exec (.waitComplete t.id) s = .next m ∧ Continued t fi (acquiredIn s t) resting m) ∧
    (∀ x, t.iss.withheld = some (fi, .mxWait x) → (∀ o ∈ t.eng.q5 ++ t.eng.q6, min x.toNat t.eng.closed < o.batch) →
      ∃ m, exec (.mxWaitComplete t.id) s = .next m ∧ Continued t fi (acquiredIn s t) resting m) ∧
    (∀ b, t.iss.withheld = some (fi, .fenceAcq b) → (∀ f ∈ t.iss.flights, f.kind = .load → f.done = true) →
      ∃ m, exec (.fenceAcqComplete t.id) s = .next m ∧ Continued t fi (acquiredIn s t) resting m) ∧
    (t.iss.withheld = some (fi, .walksync) →
      (∀ f ∈ t.iss.flights, f.kind = .store → f.done = true ∨ (f.bytes = [] ∧ f.remote = [])) →
      ∃ m, exec (.walksyncComplete t.id) s = .next m ∧ Continued t fi { s with ms.walk := [] } t m) ∧
    (∀ va len, t.iss.withheld = some (fi, .icinv va len) →
      let hit := fun (a : Nat) => ∃ b, b / 128 = a / 128 ∧ va.toNat % 2 ^ 57 ≤ b ∧ b < min (va.toNat % 2 ^ 57 + len.toNat) (2 ^ 57)
      ∃ (m : State) (keep : Nat → Bool), exec (.icinvComplete t.id) s = .next m ∧ (∀ a, keep a = true ↔ ¬ hit a) ∧
        let s' := { s with
          ms.icache := s.ms.icache.filter fun c => keep c.va
          clusters := s.clusters.map fun (c : Cluster) => { c with
            cores := c.cores.map fun (k : Core) => { k with loopBuf := k.loopBuf.filter fun w => keep w.va } } }
        Continued t fi s' { t with iss := { t.iss with ahead := t.iss.ahead.filter fun x => keep x.1.toNat } } m) ∧
    (∀ addr par place pa, t.iss.withheld = some (fi, .barWait addr par) → t.sched.shedPark = false → (∀ u ∈ s.teams, s.team? u.id = some u) →
      (place = .ok (.home pa) ∨ ∃ id off, place = .ok (.scratch id off pa)) → s.xlate t (addr.toNat % 2 ^ 57) needRW = place →
      (∀ i, i < 16 → (pa + i) / 4 * 4 ∉ s.ms.poison) → (barObj s.mem.byte pa).phase ≠ par →
      ∃ m, exec (.barWaitComplete t.id) s = .next m ∧ m = { s with teams := m.teams, ms.l1 := m.ms.l1, pod.reqs := m.pod.reqs } ∧
        (∀ w ∈ m.ms.l1, w.core = t.coreId → w.own = true) ∧
        ∀ v ∈ s.teams, ∀ k a q, v.iss.withheld = some (k, .barWait a q) → v.sched.cluster = t.sched.cluster → v.sched.shedPark = false →
          s.xlate v (a.toNat % 2 ^ 57) needRW = place → (barObj s.mem.byte pa).phase ≠ q →
          ∃ u, m.team? v.id = some u ∧ u.iss.withheld = none ∧ Turned s v k u) ∧
    (∀ addr par d pa, t.iss.withheld = some (fi, .barWait addr par) → s.xlate t (addr.toNat % 2 ^ 57) needRW = .ok (.remote d pa) →
      let sees := fun (p : Bool) => ∀ r ∈ s.pod.reqs, r.team = t.id → r.use = .poll → ∃ bs, r.ans = some (.data bs) ∧ (bs.getD 4 0).getLsbD 0 = p
      (s.portsHeld = false → sees par →
        ∃ m, exec (.remoteBarrierPoll t.id) s = .next m ∧ m = { s with pod := m.pod, ms.l1 := m.ms.l1 } ∧
          m.pod.nextReq = s.pod.nextReq + 1 ∧ ∃ r ∈ m.pod.reqs, r.id = s.pod.nextReq ∧ r.team = t.id ∧ r.use = .poll ∧ r.dev = d ∧ r.pa = pa ∧
            r.kind = .read 16 ∧ r.ans = none ∧ r.dead = false) ∧
      (t.sched.shedPark = false → (∃ r ∈ s.pod.reqs, r.team = t.id ∧ r.use = .poll) → sees (!par) →
        ∃ m u, exec (.barWaitComplete t.id) s = .next m ∧ m = { s with teams := m.teams, ms.l1 := m.ms.l1, pod.reqs := m.pod.reqs } ∧
          (∀ w ∈ m.ms.l1, w.core = t.coreId → w.own = true) ∧ m.team? t.id = some u ∧ u.iss.withheld = none ∧ Turned s t fi u)) ∧
    (∀ w live da db, t.iss.withheld = some (fi, .gang w live da db) → (∀ u ∈ s.teams, s.team? u.id = some u) →
      (s.clusters[t.sched.cluster]?).any (·.halted) = false →
      let n := t.regs.gang.toNat % 8
      let members := (gangSlots t.regs.gang).eraseDups.filterMap (s.siblingAt t)
      let match_ := fun (u : Team) => match u.latched with
        | some y => y.2.1 && sameMembers u.regs.gang t.regs.gang && gangMatch t u (w, live, db) y
        | none => false
      (n < 2 ∨ 6 < n → ∃ m u, exec (.gangRendezvous t.id) s = .next m ∧ m.team? t.id = some u ∧ Mismatched t u 2 ∧
        ∀ k, k ≠ t.id → m.team? k = s.team? k) ∧
      (2 ≤ n → n ≤ 6 → s.gangOk t = false → ∃ m, exec (.gangRendezvous t.id) s = .next m ∧
        ∀ v ∈ s.teams, v.id = t.id ∨ v.latchedWith t = true → ∃ u, m.team? v.id = some u ∧ Mismatched v u 1) ∧
      (2 ≤ n → n ≤ 6 → s.gangOk t = true → (∀ u ∈ members, u.latchedWith t = true) →
        (∃ u ∈ members, (u.latched.map (·.2.1)) = some true) → (∃ u ∈ members, match_ u = false) →
        ∃ m, exec (.gangRendezvous t.id) s = .next m ∧
          ∀ v ∈ members, ∃ u, m.team? v.id = some u ∧ Mismatched v u 0) ∧
      (2 ≤ n → n ≤ 6 → s.gangOk t = true → (∀ u ∈ members, u.latchedWith t = true ∧ (u.latched.map (·.2.1)) = some false) →
        ∃ m, exec (.gangRendezvous t.id) s = .next m ∧
          ∀ v ∈ members, ∃ u, m.team? v.id = some u ∧ u.iss.withheld = none ∧ ProbeDone v u) ∧
      (2 ≤ n → n ≤ 6 → s.gangOk t = true → (∀ u ∈ members, u.latchedWith t = true ∧ match_ u = true ∧ u.mode.getLsbD 21 = false) →
        ∃ m, exec (.gangRendezvous t.id) s = .next m ∧
          ∀ v ∈ members, ∃ u, m.team? v.id = some u ∧ u.iss.withheld = none))

/-! The clusters, the engines and the governor. -/

/-- R321, R354 to R366, R369: a front cycle advances the cluster's clocks, lets the operations that are ready ask for their start, and lets
each live core in ascending order choose at most one issue, by R321, beside the instructions under way, which go on; a unit without work for 64 lane cycles powers down and wakes
when its time has come; the level is the highest that a team on the cluster's cores asks for within its cap; the shutter stops at
most DN idle engines, the earliest ended first, runs filler in the others and charges for it, and grants pending starts in the order
of their requests up to the ramp limit; a shelf frame counts, or sets P and sheds, after the loss of frames that is
due before it; the loss sets P; the refill takes up P; a
class that has been good for 20 ms before the frames were lost is restored. It rests on choices or readings of the model: logs
9, 14, 15 and 16. -/
def Obligations.ClusterEvents : Prop :=
  (∀ (k n : Nat) (cov : Cand → Bool) (e : List Cand) (f : Cand), chooseFrag k n cov e = some f →
    f ∈ e ∧ cov f = true ∧ (∀ g ∈ e, g.boosted = true → f.boosted = true ∧ f.order ≤ g.order) ∧
      (f.boosted = false → ∀ g ∈ e, cov g = true → g.prio ≤ f.prio ∧
        (g.prio = f.prio → (if n < 16 then g.cls = k ∧ f.cls ≠ k else g.cls ≠ k ∧ f.cls = k) → False) ∧
        (g.prio = f.prio → (g.cls = k ↔ f.cls = k) → f.order ≤ g.order))) ∧
  ∀ (s : State) (cl : Nat) (c : Cluster), s.clusters[cl]? = some c →
    let half : Nat := if c.level = 3 then 4 else if c.level = 2 then 2 else 1
    let refill : Nat := min 4095 (s.pwr.apcfg.toNat / 2 ^ 12 % 2 ^ 12 * s.pwr.used * (if c.level = 1 ∨ c.level = 2 then 1 else 2) / 1000)
    let cap : Int := (s.pwr.apcap.toNat % 2 ^ 20 : Nat)
    (s.boot.powered = true → s.boot.reset = false →
      ∃ (m n : State) (d : Cluster) (new : List (Nat × Nat)) (mids : List (State × State)), exec (.issueSelect cl) s = .next n ∧ m.clusters[cl]? = some d ∧ d.cyclef = c.cyclef + 1 ∧ d.lane2 = c.lane2 + half ∧
        d.level = c.level ∧ d.cores.length = c.cores.length ∧ m.slots = s.slots ∧ m = { s with teams := m.teams, clusters := m.clusters } ∧
        ((c.cyclef + 1) % 4 ≠ 0 → d.aperture = min (c.aperture + refill) cap) ∧
        (∀ t q o, s.engineHead t.id q = some (t, o) → t ∈ s.teams → t.sched.cluster = cl → t.sched.core < c.cores.length → s.opReady t q o = true →
          ∃ u, m.team? t.id = some u ∧ ∀ x ∈ u.getQ q, x.serial = o.serial → x.asked = true) ∧
        mids.head? = some (m, m) ∧ (∃ y, mids.getLast? = some (n, y)) ∧ mids.length = c.cores.length + 1 ∧
        (∀ j a b, mids[j]? = some a → mids[j + 1]? = some b → Selected cl j c.halted a b) ∧
        n.slots = s.slots ++ new ∧
        (∀ k, k ≠ cl → n.clusters[k]? = s.clusters[k]?) ∧ n = { s with slots := n.slots, teams := n.teams, clusters := n.clusters }) ∧
    (∀ k x u, c.cores[k]? = some x → s.unitQueued cl k u = false →
      (∃ since, since + 64 ≤ c.lane2 / 2 ∧ (x.units[unitIndex u]? = some (.awake since) ∨ ∃ a, a ≤ c.lane2 / 2 ∧ x.units[unitIndex u]? = some (.waking a since))) →
        exec (.unitPowerDown cl k u) s = .next { s with
          clusters := setAt s.clusters cl { c with cores := setAt c.cores k { x with units := setAt x.units (unitIndex u) .down } } }) ∧
    (∀ k x u a e, c.cores[k]? = some x → x.units[unitIndex u]? = some (.waking a e) → a ≤ c.lane2 / 2 →
        exec (.unitWake cl k u) s = .next { s with
          clusters := setAt s.clusters cl { c with cores := setAt c.cores k { x with units := setAt x.units (unitIndex u) (.awake e) } } }) ∧
    (∃ l : BitVec 2,
      let rank := fun (x : BitVec 2) => if x = 2 then 3 else if x = 3 then 2 else x.toNat
      let asked := fun (t : Team) =>
        let top := (s.vis.getD t.const.vi State.resetVi).caplvl
        if rank top < rank t.sched.level then top else t.sched.level
      let here := fun (t : Team) => t ∈ s.teams ∧ (t.sched.life = .resident ∨ t.sched.life = .stopped ∨ t.sched.life = .ended) ∧ t.sched.cluster = cl
      (∀ t, here t → rank (asked t) ≤ rank l) ∧ (l = 0 ∨ ∃ t, here t ∧ asked t = l) ∧
        (c.level ≠ l → exec (.clockLevelChange cl) s = .next { s with clusters := setAt s.clusters cl { c with level := l } })) ∧
    ((c.cyclef + 1) % 4 = 0 → c.shutAt ≠ c.cyclef + 1 →
      (∀ t q o, s.engineHead t.id q = some (t, o) → s.opReady t q o = true → o.asked = true) →
      let engine := fun (j : Nat) => ((c.cores[j]?).map (·.engine)).getD ⟨false, false, none, 0⟩
      let active := (List.range c.cores.length).filter fun j => (engine j).active
      let idle := active.filter fun j => !s.engineWorks cl j
      let asking := (List.range c.cores.length).filter fun j => (engine j).request.isSome
      let k := if active = [] then 0 else (c.ramp.elim 0 (· + 1))
      let limit := s.pwr.shut0.toNat / 2 ^ (4 * min k 7) % 16
      ∃ (n : State) (d : Cluster) (stops grants : List Nat), exec (.shutterStep cl) s = .next n ∧ n = { s with teams := n.teams, clusters := n.clusters } ∧ n.clusters[cl]? = some d ∧
        (∀ k, k ≠ cl → n.clusters[k]? = s.clusters[k]?) ∧ d.shutAt = c.cyclef + 1 ∧ d.ramp = some k ∧
        d = { c with cores := d.cores, ramp := d.ramp, shutAt := d.shutAt, aperture := d.aperture } ∧ d.cores.length = c.cores.length ∧
        Earliest (fun j => (engine j).ended) (s.pwr.shut1.toNat % 16) idle stops ∧
        Earliest (fun j => (engine j).request.getD 0) (limit - (active.length - stops.length)) asking grants ∧
        (∀ j x, d.cores[j]? = some x →
          (x.engine.active = true ↔ j ∈ grants ∨ (j ∈ active ∧ j ∉ stops)) ∧
          (x.engine.filler = true ↔ j ∈ idle ∧ j ∉ stops ∧ j ∉ grants) ∧
          x.engine.request = if j ∈ grants then none else (engine j).request) ∧
        d.aperture = min (c.aperture + refill) cap - ((idle.length - stops.length : Nat) : Int) * ((s.pwr.shut1.toNat / 2 ^ 16 % 2 ^ 12 : Nat) : Int)) ∧
    (∀ frame, s.boot.powered = true → s.boot.reset = false →
      (frameGood frame = false → exec (.shelfFrame frame) s = .next { s with pwr.badf := s.pwr.badf + 1 }) ∧
      (∀ a n, frameGood frame = true → s.pwr.lastValid = some a → s.pwr.lost = false → a + 500 * Config.ticksPerUs ≤ s.now →
        exec .frameLoss s = .next n → exec (.shelfFrame frame) s = exec (.shelfFrame frame) n) ∧
      (frameGood frame = true → (∀ a, s.pwr.lastValid = some a → s.pwr.lost = true ∨ s.now < a + 500 * Config.ticksPerUs) →
        ∃ n, exec (.shelfFrame frame) s = .next n ∧ n = { s with pwr := n.pwr, teams := n.teams } ∧
        n.pwr.lastSeq = some (frame.extractLsb' 48 8) ∧
        (∀ l, s.pwr.lastSeq = some l → n.pwr.gaps = s.pwr.gaps + (frame.extractLsb' 48 8 - l - 1).setWidth 16) ∧
        (frame.getLsbD 8 = false → n.pwr.p = s.pwr.p ∧ n.pwr.shed = s.pwr.shed ∧ n.teams = s.teams) ∧
        (frame.getLsbD 8 = true → n.pwr.p = s.pwr.capOf frame ∧ n.pwr.lastValid = some s.now ∧ n.pwr.lost = false ∧
          (s.pwr.shed.length = 3 → ∀ k, 1 ≤ k → k ≤ 3 →
            (n.pwr.shed.getD (k - 1) false = true ↔ s.pwr.shed.getD (k - 1) false = true ∨ n.pwr.p < s.pwr.threshold k)) ∧
          ∀ t, s.team? t.id = some t → t.sched.life = .resident → n.shedClass t.sched.pclass = true →
            n.team? t.id = some { t with sched.shedPark := true }))) ∧
    (∀ a, s.pwr.lastValid = some a → s.pwr.lost = false → a + 500 * Config.ticksPerUs ≤ s.now →
      ∃ n, exec .frameLoss s = .next n ∧ n.pwr.p = s.pwr.govctl.toNat / 2 ^ 44 % 2 ^ 10 ∧ n.pwr.lost = true ∧
        (∀ x ∈ n.pwr.okSince, x = none) ∧ n = { s with pwr := n.pwr, teams := n.teams }) ∧
    (s.pwr.used ≠ s.pwr.p → exec .capUpdate s = .next { s with pwr.used := s.pwr.p }) ∧
    (∀ (k : BitVec 2) (a : Nat), k ≠ 0 → s.pwr.okSince.getD (k.toNat - 1) none = some a → s.pwr.shed.getD (k.toNat - 1) false = true →
      a + 20000 * Config.ticksPerUs ≤ s.now → (∃ v, s.pwr.lastValid = some v ∧ a + 20000 * Config.ticksPerUs < v + 500 * Config.ticksPerUs) →
      ∃ n, exec (.classRestore k) s = .next n ∧ n = { s with pwr := n.pwr, teams := n.teams } ∧ n.pwr.p = s.pwr.p ∧
        n.pwr.shed = setAt s.pwr.shed (k.toNat - 1) false ∧
        (∀ t, s.team? t.id = some t → t.sched.pclass ≠ k.toNat → n.team? t.id = some t) ∧
        ∀ t, s.team? t.id = some t → t.sched.pclass = k.toNat → ∃ u, n.team? t.id = some u ∧ u.sched.shedPark = false ∧
          (∀ fi, t.iss.withheld = some (fi, .shed) → u.iss.withheld = none))

/-- R212 to R214, R217, R220, R222, R225, R227, R228, R231, R234, R235, R237, R238, R361: an operation that is ready asks for
its start; when its engine is granted it starts, a lookup product with a table that does not serve ends in its fault, and a
build arms its watch range; the fetch unit and the stream distributor bring lines, for several teams once none of the others has
a store to the line on its way; an operation completes with the result of its rule, its flags and nothing else. It rests on
choices or readings of the model: logs 16, 30, 33, 36, 58, 59, 68 and 77. -/
def Obligations.EngineEvents : Prop :=
  (∀ (s : State) (t : Team) (q : EngineQueue) (o : EngineOp), s.engineHead t.id q = some (t, o) →
    let lines := if o.stream.isSome then s.tileLines t o else o.lines
    let begun := { o with
      started := true
      paused := false
      begun := s.clock t true }
    let next := s.clock t false + 1
    let passed := decide (next % 4 = 0) && (s.clusters[t.sched.cluster]?).any fun c => c.shutAt == next
    (s.opReady t q o = true → o.asked = false →
      ∃ n, exec (.engineReady t.id q) s = .next n ∧ n.team? t.id = some (t.setOp q { o with asked := true }) ∧
        n = { s with teams := n.teams, clusters := n.clusters } ∧ (∀ k, k ≠ t.id → n.team? k = s.team? k) ∧
        ∀ k, s.core? t.sched.cluster t.sched.core = some k → ∃ k', n.core? t.sched.cluster t.sched.core = some k' ∧
          k' = { k with engine := if k.engine.active then { k.engine with filler := false }
            else { k.engine with request := some (k.engine.request.getD (if passed then next + 1 else next)) } }) ∧
    (s.opReady t q o = true → o.asked = true → (s.engineOf t).active = true → s.engineTaken t = false →
      (o.started = true → exec (.engineOpStart t.id q) s = .next (s.setTeam (t.setOp q begun))) ∧
      (o.started = false → (∀ c sl a b acc gang hi, o.op ≠ .mxKmma c sl a b acc gang hi) → (∀ k sl a, o.op ≠ .tblKbuild k sl a) →
        exec (.engineOpStart t.id q) s = .next (s.setTeam (t.setOp q begun))) ∧
      (∀ c sl a b acc gang hi, o.started = false → o.op = .mxKmma c sl a b acc gang hi →
        let tab := t.table a.toNat
        let need := (opDesc o.bdesc).kgn
        let useless := tab.st = .empty ∨ tab.st = .stale
        let small := o.alone = false ∧ (tab.rows < 32 ∨ tab.groups < need)
        let faulted := fun (cause : BitVec 8) => ∃ n u, exec (.engineOpStart t.id q) s = .next n ∧ n.team? t.id = some u ∧
          n = { s with teams := n.teams, clusters := n.clusters } ∧ (∀ k, k ≠ t.id → n.team? k = s.team? k) ∧
          (n.engineOf t).ended = s.clock t false ∧
          (∀ x ∈ u.eng.q5 ++ u.eng.q6, x.serial ≠ o.serial) ∧ u.regs = t.regs ∧ ∃ f ∈ u.iss.faults, f.cause = cause
        (useless → faulted 0x08) ∧ (¬ useless → small → faulted 0x09) ∧
        (¬ useless → ¬ small → exec (.engineOpStart t.id q) s = .next (s.setTeam (t.setOp q begun)))) ∧
      (∀ k sl a p, o.started = false → o.op = .tblKbuild k sl a → s.window t (opDesc o.adesc).base = .ok p → k.toNat < t.eng.k.length →
        let range := watchRange (opDesc o.adesc) ((slotTypeA (t.slot sl)).getD .bf16)
        ∃ u, exec (.engineOpStart t.id q) s = .next (s.setTeam u) ∧ (u.table k.toNat).st = .attached ∧ (u.table k.toNat).entries = [] ∧
          (u.table k.toNat).desc = o.adesc ∧ (u.table k.toNat).slot = sl ∧ (u.table k.toNat).watchVa = range.1 ∧
          (u.table k.toNat).watchLen = range.2 ∧
          (∀ id off pa, p = .scratch id off pa → (u.table k.toNat).watchAt = pa + range.1 - (opDesc o.adesc).base) ∧
          (∀ j, j ≠ k.toNat → u.table j = t.table j) ∧ u.regs = t.regs ∧ u.getQ q = (t.setOp q begun).getQ q)) ∧
    (∀ (va : DWord) bs, o.started = true → o.paused = false → o.page = none → va.toNat ∈ linesOf (t.opNeeds o (t.totalSteps o)) →
      lookupKey va.toNat o.lines = none → Brings s t va.toNat 128 bs →
      (va.toNat ∈ linesOf (t.sharedNeeds o) → s.othersPending t va.toNat (fun u => (u.getQ q).any fun x => x.joint == o.joint) = false) →
        let shared := fun (v : Team) (x : EngineOp) => va.toNat ∈ linesOf (t.sharedNeeds o) ∧ x.joint = o.joint ∧ va.toNat ∈ linesOf (v.sharedNeeds x)
        ∃ n, exec (.tileFetch t.id q va) s = .next n ∧ n = { s with teams := n.teams, ms := { s.ms with l1 := n.ms.l1 } } ∧
          ∀ k v, s.team? k = some v → ∃ v', n.team? k = some v' ∧ v' = { v with eng := v'.eng } ∧
            ((v'.getQ q).length = (v.getQ q).length ∧ ∀ (j : Nat) x, (v.getQ q)[j]? = some x →
              ((k = t.id ∧ x.serial = o.serial) ∨ shared v x → lookupKey va.toNat x.lines = none →
                (v'.getQ q)[j]? = some { x with lines := (va.toNat, bs) :: x.lines }) ∧
              (¬ ((k = t.id ∧ x.serial = o.serial) ∨ shared v x) ∨ lookupKey va.toNat x.lines ≠ none → (v'.getQ q)[j]? = some x))) ∧
    (o.started = true → o.paused = false → o.page = none → s.opFetched t o (t.totalSteps o) = true →
      let doneFrom := fun (s' : State) (flags : DWord) (n : State) (u : Team) =>
        exec (.engineOpComplete t.id q) s = .next n ∧ EngineDone s' t q o flags n u
      let done := doneFrom s
      let alone := NoRequests s t o.serial
      (∀ c, o.op = .mxZero c → ∃ n u, done 0 n u ∧ u.eng.k = t.eng.k ∧
        ∀ j, u.regs.c.get j = if 4096 * c.toNat ≤ j ∧ j < 4096 * c.toNat + 4096 then 0 else t.regs.c.get j) ∧
      (∀ c sl a b acc gang ta tb m, o.op = .mxMma c sl a b acc gang ta tb → o.step = 0 → o.pend = [] → o.nans = [] → t.mmaOf o = some m →
        t.opShape o.op o.bdesc = some (m.k / 16, 4) →
        let at_ := fun (r l : Nat) => 4096 * c.toNat + 64 * r + l
        let position := fun (r l k : Nat) => r < 64 ∧ l < 64 ∧ k < m.k ∧ m.meets r k l = true
        ∃ (n : State) (u : Team) (fl : DWord) (f : Nat → Nat → Nat → Nat), done fl n u ∧ u.eng.k = t.eng.k ∧
          (∀ j, ¬ (4096 * c.toNat ≤ j ∧ j < 4096 * c.toNat + 4096) → u.regs.c.get j = t.regs.c.get j) ∧
          (∀ r l, r < 64 → l < 64 → f r l 0 = (if acc then (t.regs.c.get (at_ r l)).toNat else 0) ∧
            (u.regs.c.get (at_ r l)).toNat = f r l (m.k / 16)) ∧
          (∀ r l k, r < 64 → l < 64 → k < m.k / 16 → RoundsOnce (denseStep m o.lines lines r l (f r l) k)) ∧
          (∀ r l k, position r l k → (m.aVal o.lines r k).1 = .nan ∨ (m.bVal lines k l).1 = .nan → f r l (m.k / 16) = fp32.nan) ∧
          (∀ r l k, r < 64 → l < 64 → k < m.k → (m.aVal o.lines r k).2 = true ∨ (m.bVal lines k l).2 = true → fl.getLsbD 0 = true) ∧
          StepFlags fl fun p => ∃ r l k, r < 64 ∧ l < 64 ∧ k < m.k / 16 ∧ (p = denseStep m o.lines lines r l (f r l) k ∨
            p = (false, 0, 0) ∧ ∃ j, j < 16 ∧ ((m.aVal o.lines r (16 * k + j)).2 = true ∨ (m.bVal lines (16 * k + j) l).2 = true))) ∧
      (∀ c sl a b acc gang hi, o.op = .mxKmma c sl a b acc gang hi → o.step = 0 →
        t.opShape o.op o.bdesc = some ((opDesc o.bdesc).kgn, 2) → (opDesc o.bdesc).kgn % 4 = 0 → 0 < (opDesc o.bdesc).kgn →
        let w := opDesc o.bdesc
        let at_ := fun (r l : Nat) => 4096 * c.toNat + (if hi then 2048 else 0) + 64 * r + l
        let inTile := fun (r l : Nat) => r < 32 ∧ l < 64 ∧ l < w.rows
        ∃ (n : State) (u : Team) (fl : DWord) (k : Nat → Nat → LookupSums), done fl n u ∧ u.eng.k = t.eng.k ∧
          (∀ j, (∀ r l, inTile r l → j ≠ at_ r l) → u.regs.c.get j = t.regs.c.get j) ∧
          (∀ r l, inTile r l →
            LooksUp (t.table a.toNat).entries w lines r l (if acc then (t.regs.c.get (at_ r l)).toNat else 0) (k r l) ∧
            (u.regs.c.get (at_ r l)).toNat = (k r l).out (w.kgn / 4) ∧ ∀ b, b < w.kgn / 4 → ∀ p ∈ (k r l).steps b, RoundsOnce p) ∧
          (∀ r l b, inTile r l → b < w.kgn / 4 → (k r l).e0 b = 255 ∨ (k r l).e1 b = 255 → fl.getLsbD 0 = true) ∧
          ((∀ r l b, inTile r l → b < w.kgn / 4 → (k r l).e0 b ≠ 255 ∧ (k r l).e1 b ≠ 255) →
            StepFlags fl fun p => ∃ r l b, inTile r l ∧ b < w.kgn / 4 ∧ p ∈ (k r l).steps b)) ∧
      (∀ c a b, o.op = .mxAccwr c a b → alone → (∀ i, o.step ≤ i → i < 4096 → ∃ bs, Brings s t (o.wordAt i % 2 ^ 57) 4 bs) →
        ∃ n u l1, doneFrom { s with ms.l1 := l1 } 0 n u ∧ u.eng.k = t.eng.k ∧
          (∀ j, ¬ (4096 * c.toNat ≤ j ∧ j < 4096 * c.toNat + 4096) → u.regs.c.get j = t.regs.c.get j) ∧
          (∀ i, i < 4096 → i < o.step → u.regs.c.get (4096 * c.toNat + i) = o.partials.get i) ∧
          ∀ i bs, i < 4096 → o.step ≤ i → Brings s t (o.wordAt i % 2 ^ 57) 4 bs →
            u.regs.c.get (4096 * c.toNat + i) = BitVec.ofNat 32 (ofBytes bs)) ∧
      (∀ c a b (pa : Nat → Nat), o.op = .mxAccrd c a b → alone →
        (∀ i, o.step ≤ i → i < 4096 → Writable s t (o.wordAt i % 2 ^ 57) 4 (pa i) ∧ Settled s t (o.wordAt i % 2 ^ 57)) →
        ∃ n u, exec (.engineOpComplete t.id q) s = .next n ∧ n.team? t.id = some u ∧ u.regs = t.regs ∧
          u.sys = { t.sys with tflags := t.sys.tflags ||| flagsSoFar o } ∧ u.getQ q = (t.getQ q).filter (·.serial != o.serial) ∧
          Wrote s t.id (afterWrites s.mem.byte ((List.range' o.step (4096 - o.step)).map fun i =>
            (pa i, toBytes 4 (t.regs.c.get (4096 * c.toNat + i)).toNat))) n) ∧
      (∀ a (pa : Nat → Nat), o.op = .mxSave a → alone →
        let words := 64 + 4096 * t.const.tiles
        (∀ i, o.step ≤ i → i < words → Writable s t (saveAddr o.addr.toNat i % 2 ^ 57) 4 (pa i) ∧
          Settled s t (saveAddr o.addr.toNat i % 2 ^ 57)) →
        ∃ n u, exec (.engineOpComplete t.id q) s = .next n ∧ n.team? t.id = some u ∧ u.regs = t.regs ∧
          u.sys = { t.sys with tflags := t.sys.tflags ||| flagsSoFar o } ∧ u.getQ q = (t.getQ q).filter (·.serial != o.serial) ∧
          Wrote s t.id (afterWrites s.mem.byte ((List.range' o.step (words - o.step)).map fun i =>
            (pa i, toBytes 4 (t.saveWord i).toNat))) n) ∧
      (∀ a, o.op = .mxResume a → o.step = 0 → alone →
        let h := o.adesc
        let tiles := 4096 * leField h 87 1
        let word := fun (i : Nat) => resumeAddr h o.addr.toNat i % 2 ^ 57
        let shape := fun (i : Instr) => t.opShape i ((h.drop 48).take 32)
        (∀ i, i < resumeWords h → ∃ bs, Brings s t (word i) 4 bs) →
        ∃ n u, exec (.engineOpComplete t.id q) s = .next n ∧ n.team? t.id = some u ∧
          (∀ i bs, i < tiles → Brings s t (word i) 4 bs → u.regs.c.get i = BitVec.ofNat 32 (ofBytes bs)) ∧
          (∀ i, tiles ≤ i → u.regs.c.get i = t.regs.c.get i) ∧
          ((∀ i, headerOp h = some i → shape i = none) → ∃ l1, EngineDone { s with ms.l1 := l1 } t q o 0 n u) ∧
          (∀ i sh, headerOp h = some i → shape i = some sh →
            n = { s with teams := n.teams, clusters := n.clusters, ms := { s.ms with l1 := n.ms.l1 } } ∧
            (∀ k, k ≠ t.id → n.team? k = s.team? k) ∧ ∃ o' ∈ u.getQ q, u = { t.setOp q o' with regs.c := u.regs.c } ∧ o' = { o with
              op := i
              word := BitVec.ofNat 32 (leField h 0 4)
              mode := BitVec.ofNat 32 (leField h 4 4)
              gang := BitVec.ofNat 64 (leField h 8 8)
              adesc := (h.drop 16).take 32
              bdesc := (h.drop 48).take 32
              step := headerStep h sh.2
              partials := o'.partials
              pv := decide (leField h 86 1 = 1)
              flags := BitVec.ofNat 5 (leField h 96 8)
              lines := []
              stream := none
              alone := true
              joint := none
              kept := none
              started := false
              asked := true } ∧
            ∀ j bs, leField h 86 1 ≠ 0 → j < 4096 → Brings s t (word (tiles + j)) 4 bs → o'.partials.get j = BitVec.ofNat 32 (ofBytes bs))) ∧
      (∀ k sl a, o.op = .tblKbuild k sl a → k.toNat < t.eng.k.length → (t.table k.toNat).st = .attached →
        let d := opDesc o.adesc
        let ty := (slotTypeA (t.slot sl)).getD .bf16
        let x := fun (r g j : Nat) => if d.cols ≤ 8 * (d.kg0 + g) + j then FVal.fin false 0 0 else (d.value ty o.lines r (8 * (d.kg0 + g) + j)).1
        let inTable := fun (r g i : Nat) => r < d.rows ∧ g < d.kgn ∧ i < 128
        ∃ (n : State) (u : Team) (fl : DWord) (f : Nat → Nat → Nat → Nat → Nat), done fl n u ∧ u.regs.c = t.regs.c ∧
          (∀ j, j ≠ k.toNat → u.table j = t.table j) ∧
          (u.table k.toNat).st = .attached ∧ (u.table k.toNat).rows = d.rows ∧ (u.table k.toNat).groups = d.kgn ∧
          (∀ r g i, inTable r g i → d.kgn ≤ 8 → ((u.table k.toNat).entries.get ((8 * r + g) * 128 + i)).toNat = f r g i 7) ∧
          (∀ r g i, inTable r g i →
            (finiteVal (x r g 0) = true → patternRat fp32 (f r g i 0) = (if i % 2 = 1 then -1 else 1) * ratOf (x r g 0)) ∧
            ∀ j, j < 7 → RoundsOnce (buildStep (x r g) i (f r g i) j)) ∧
          StepFlags fl fun p => ∃ r g i j, inTable r g i ∧ j < 7 ∧ p = buildStep (x r g) i (f r g i) j) ∧
      (∀ k, o.op = .tblKinv k → k.toNat < t.eng.k.length → ∃ n u, done 0 n u ∧ u.regs.c = t.regs.c ∧ (u.table k.toNat).st = .empty ∧
        ∀ j, j ≠ k.toNat → u.table j = t.table j) ∧
      (∀ k, o.op = .tblKdetach k → k.toNat < t.eng.k.length → ∃ n u, done 0 n u ∧ u.regs.c = t.regs.c ∧
        (∀ j, j ≠ k.toNat → u.table j = t.table j) ∧
        ((t.table k.toNat).st = .attached → (u.table k.toNat).st = .detached ∧ (u.table k.toNat).entries = (t.table k.toNat).entries) ∧
        ((t.table k.toNat).st = .stale → (u.table k.toNat).st = .empty) ∧
        ((t.table k.toNat).st ≠ .attached → (t.table k.toNat).st ≠ .stale → u.table k.toNat = t.table k.toNat)))) ∧
  ∀ (s : State) (cl k : Nat) (c : Cluster) (st : Stream), s.clusters[cl]? = some c → c.streams[k]? = some st →
    let put := fun (st : Stream) (n : State) => n.clusters = setAt s.clusters cl { c with streams := setAt c.streams k st }
    let due := st.next < streamCount st.desc ∧ streamSubs st.desc ≤ st.joined ∧ ∀ x ∈ s.subsOf st, st.next < x.2 + x.1
    let lacks := fun (t : Team) (o : EngineOp) (j l : Nat) => t ∈ s.teams ∧ t.const.launch = st.launch ∧ t.const.placeNo = st.place ∧
      t.sched.life.holds = true ∧ t.eng.q5.head? = some o ∧ o.started = true ∧ o.paused = false ∧ o.page = none ∧
      o.stream = some (st.id, j) ∧ l ∈ linesOf (t.tileNeeds o) ∧ ∃ ls, lookupKey j st.tiles = some ls ∧ lookupKey l ls = none
    (due → ∃ n, exec (.streamTileFetch cl k) s = .next n ∧ n = { s with clusters := n.clusters } ∧
      put { st with next := st.next + 1, tiles := st.tiles ++ [(st.next, [])] } n) ∧
    (¬ due → (∃ t o j l, lacks t o j l) → ∃ t o j l, lacks t o j l ∧ ∀ bs, s.team? t.id = some t → Brings s t l 128 bs →
      s.othersPending t l (fun v => v.eng.q5.any fun x => x.stream == some (st.id, j)) = false →
      ∃ n, exec (.streamTileFetch cl k) s = .next n ∧ n = { s with clusters := n.clusters, ms := { s.ms with l1 := n.ms.l1 } } ∧
        put { st with tiles := st.tiles.map fun x => if x.1 = j then (j, (l, bs) :: x.2) else x } n)

/-- R202, R207 to R210: a queued copy or chain writes its elements in order, each from its source, and reads what it has
written; when every byte is written its counter falls; the credit subtracts the bytes from the pending count of the barrier
object with the completion check; a chain raises its flags as it completes. It rests on choices or readings of the model: logs
3, 30 and 32. -/
def Obligations.CopyEvents : Prop :=
  ∀ (s : State) (t : Team) (q : Nat) (o : CopyOp),
    let left := fun (u : Team) => ∀ x ∈ u.eng.copies, x.serial ≠ o.serial
    let heads := fun (u : Team) => ∀ p g, (u.iss.flights.filter fun x => x.path == p).head? = some g → g.done = false
    let kept := fun (u : Team) => ∀ f ∈ t.iss.flights, f.kind ≠ .copy o.serial → f.done = false → f ∈ u.iss.flights
    (s.copyReady t.id q = some (t, o) → NoRequests s t o.serial → o.pos ≤ o.count →
      let c := copyDesc o.desc
      let h := chainDesc o.desc
      let todo := fun (i : Nat) => o.pos ≤ i ∧ i < o.count
      let sees := fun (m : Nat → Byte) (pa n : Nat) => (List.range n).map fun j => (t.pendingByte (pa + j)).getD (m (pa + j))
      let source := fun (va n pa : Nat) => (∃ cached, va < 2 ^ 57 ∧ Landed ⟨s, t, 0⟩ needR va pa cached ∧ Unpoisoned ⟨s, t, 0⟩ pa n) ∧ Settled s t va
      let target := fun (va n pa : Nat) => Writable s t va n pa ∧ Settled s t va
      let all := fun (m : Nat → Nat → Byte) (fl : BitVec 5) => m o.pos = s.mem.byte ∧ ∃ n u, exec (.copyOpStart t.id q) s = .next n ∧
        Wrote s t.id (m o.count) n ∧ n.team? t.id = some u ∧ u = { t with eng := u.eng } ∧
        ∃ x ∈ u.eng.copies, x.serial = o.serial ∧ x.written = true ∧ x.pos = o.count ∧ x.flags = fl
      (∀ (spa dpa : Nat → Nat), o.chain = false → (∀ i, todo i → target (c.dstOf i % 2 ^ 57) c.b (dpa i)) →
        (∀ i va, todo i → c.srcOf i = some va → source va c.b (spa i)) →
        ∃ m, all m o.flags ∧ ∀ i, todo i →
          m (i + 1) = withBytes (m i) (dpa i) (if (c.srcOf i).isSome then sees (m i) (spa i) c.b else c.pad)) ∧
      (∀ (spa dpa : Nat → Nat), o.chain = true →
        (∀ i, todo i → target ((h.dst + i * (h.dt.width / 8)) % 2 ^ 57) (h.dt.width / 8) (dpa i) ∧
          source ((h.src + i * (h.st.width / 8)) % 2 ^ 57) (h.st.width / 8) (spa i)) →
        ∃ (m : Nat → Nat → Byte) (fl : BitVec 5) (v : Nat → Nat → Nat) (y : Nat → Nat), all m fl ∧
          let x := fun (i : Nat) => ofBytes (sees (m i) (spa i) (h.st.width / 8))
          (∀ i, todo i → m (i + 1) = withBytes (m i) (dpa i) (toBytes (h.dt.width / 8) (y i)) ∧ ChainOf h (x i) (v i) (y i)) ∧
          (∀ k, o.flags.getLsbD k = true → fl.getLsbD k = true) ∧
          (∀ i j op k e, todo i → h.ops[j]? = some (op, k) → stageFinite op k (v i j) (v i 0) = true →
            finitePattern fp32 (v i (j + 1)) = true → stageExact op k (v i j) (v i 0) = some e → patternRat fp32 (v i (j + 1)) ≠ e →
              fl.getLsbD 4 = true) ∧
          ((∀ i, todo i → ChainExact h (x i) (v i) (y i)) → fl = o.flags))) ∧
    (s.copyWritten t.id q = some (t, o) → o.chain = false → o.fallen = false → ¬ (o.credits = true ∧ o.count = 0) →
      ∃ n u, exec (.copyComplete t.id q) s = .next n ∧ n = { s with teams := n.teams, clusters := n.clusters } ∧ n.team? t.id = some u ∧
        u.regs = t.regs ∧ u.sys = t.sys ∧ heads u ∧ kept u ∧ (∀ f ∈ u.iss.flights, f.kind = .copy o.serial → f.done = true) ∧
        (o.credits = false → left u) ∧ (o.credits = true → ∃ x ∈ u.eng.copies, x.serial = o.serial ∧ x.fallen = true)) ∧
    (∀ pa cached, s.creditDue t.id q = some (t, o) → NoRequests s t o.serial →
      let c := copyDesc o.desc
      let b := barObj s.mem.byte pa
      c.bara < 2 ^ 57 → Landed ⟨s, t, 0⟩ needRW c.bara pa cached → Unpoisoned ⟨s, t, 0⟩ pa 16 →
        ∃ n u, exec (.copyCredit t.id q) s = .next n ∧ n.team? t.id = some u ∧ left u ∧ heads u ∧ kept u ∧ u.regs = t.regs ∧
          barObj n.mem.byte pa = phaseCheck (if c.bytes ≤ b.pend then { b with pend := b.pend - c.bytes }
            else { b with credit := min (b.credit + (c.bytes - b.pend)) (2 ^ 28 - 1), pend := 0 }) ∧
          Wrote s t.id n.mem.byte n ∧ ∀ a, a < pa ∨ pa + 16 ≤ a → n.mem.byte a = s.mem.byte a) ∧
    (s.copyWritten t.id 4 = some (t, o) →
      ∃ n u, exec (.chainComplete t.id) s = .next n ∧ n = { s with teams := n.teams, clusters := n.clusters } ∧ n.team? t.id = some u ∧
        u.regs = t.regs ∧ u.sys = { t.sys with tflags := t.sys.tflags ||| o.flags.setWidth 64 } ∧ left u ∧ heads u ∧ kept u)

/-! Translation. -/

/-- R268, R329, R331, R335 to R337, R340 to R343, R378: a walk of five levels ends in the leaf that the tables hold, and leaves
its translation in the TLBs; a load of an unfilled word of a mapped line, shown by S.LD, fills the line's unfilled words with
their global words, and with what another member answers to it, unless it was asked for before an acquire; the runtime's answer
to a page request lets what waited go on, or ends it in error, and lowers the path-6 counter that a parked team has in memory;
an invalidation of a range, an ASID or an interface starts unless it is ignored, and completes with the matching entries gone
and the allotments that no TLB translates any more in force. The home of a line is the L2 slice that Home(a) numbers. It rests
on choices or readings of the model: logs 19, 20, 21, 23, 28, 46, 49 and 74. -/
def Obligations.Translations : Prop :=
  (∀ (s : State) (asid : BitVec 12) (va : Nat) (t : Nat → Nat) (i : VirtIf),
    let ctx := s.boot.ctxbase + 16 * asid.toNat
    let e := (s.home8 ctx).toNat
    let index := fun (k : Nat) => match k with
      | 0 => va / 2 ^ 48 % 512 | 1 => va / 2 ^ 39 % 512 | 2 => va / 2 ^ 30 % 512 | 3 => va / 2 ^ 21 % 512 | _ => va / 2 ^ 16 % 32
    let p := fun (k : Nat) => s.home8 (t k + 8 * index k)
    s.ms.walk = [] → va / 2 ^ 48 % 512 ≠ 0x1FF → e % 2 = 1 → t 0 = e / 2 ^ 12 % 2 ^ 40 * 4096 →
    (∀ k, k < 4 → (p k).toNat % 4 = 1 ∧ (p k).getLsbD 6 = false ∧ (p k).getLsbD 52 = false ∧
      t (k + 1) = (p k).toNat / 2 ^ 8 % 2 ^ 44 * 256 ∧ t (k + 1) % (if k < 3 then 4096 else 256) = 0) →
    (p 4).toNat % 4 = 3 → (p 4).getLsbD 6 = false → (p 4).getLsbD 7 = false → (p 4).getLsbD 52 = false → (p 4).toNat / 2 ^ 8 % 2 ^ 8 = 0 →
    s.vis[(s.mem.byte (ctx + 8)).toNat % 64]? = some i → i.s2en = false →
    let pa := (p 4).toNat / 2 ^ 16 % 2 ^ 36 * 65536
    populated (pa + va % 65536) = true → inVault (pa + va % 65536) = false →
      s.walk asid va none = some ⟨(p 4).getLsbD 2, (p 4).getLsbD 3, (p 4).getLsbD 4, (p 4).getLsbD 5, 65536, pa, none⟩) ∧
  ∀ (s : State),
    (∀ core asid (va : DWord) leaf, let a := va.toNat % 2 ^ 57
      pathOf a = 0 → s.tlb? core asid a = none → core < 256 →
      ∃ n, exec (.pageWalk core asid va leaf) s = .next n ∧ n = { s with ms.walk := n.ms.walk, ms.tlb := n.ms.tlb } ∧
        ((∀ l, s.walk asid a leaf = some l → l.res = false) → n.ms.tlb = s.ms.tlb) ∧
        (∀ l, s.walk asid a leaf = some l → l.res = true → 0 < l.size → n.tlb? core asid a =
          some ⟨.core core, asid, a / l.size * l.size, l.size, l.pa, l.r, l.w, l.x, l.dev, ((s.context asid).map (·.1)).getD 0⟩)) ∧
    (∀ (c : Ctx) (d a : BitVec 6) (la : BitVec 4) (imm : BitVec 7) off pa gpa (m : ScratchMap), Ready s c (.sLd d a la .weak .b32 imm) →
      let va := (BitVec.ofInt 64 ((c.t.readS a.toNat).toInt + imm.toInt * 4)).toNat
      let line := m.off + (off - m.off) / 128 * 128
      let new := fun (x : Nat) => ∃ w i, w ∈ m.unfilled off ∧ i < 4 ∧ x = c.t.sched.scratch + w + i
      va % 4 = 0 → c.s.pathsFull c.t [pathOf va] = false → c.s.xlate c.t (va % 2 ^ 57) needR = .ok (.scratch c.t.id off pa) →
      c.t.mapOf off = some m → off / 4 * 4 ∉ m.filled → m.unfilled off ≠ [] → (∀ x, c.t.pendingByte x = none) →
      c.s.global c.t.coreId c.t.const.asid (m.gva + (line - m.off)) needR = .ok (.home gpa) → Unpoisoned c gpa 128 → Unpoisoned c pa 4 →
      ∃ s' t', Completes c (.sLd d a la .weak .b32 imm) s (.front 1) s' t' ∧
        s' = { c.s with mem := s'.mem, teams := s'.teams, ms := { c.s.ms with poison := s'.ms.poison } } ∧
        t' = { c.t with maps := t'.maps, iss.windows := t'.iss.windows, iss.flights := t'.iss.flights } ∧
        t'.mapOf off = some { m with filled := m.filled ++ m.unfilled off } ∧
        Loading c la [.s d (loadValue true ((List.range 4).map fun k => s'.mem.byte (pa + k)))] t' ∧
        (∀ x i, x ∈ m.unfilled off → i < 4 → s'.mem.byte (c.t.sched.scratch + x + i) = seen c.s c.t false true (gpa + (x + i - line))) ∧
        ∀ x, ¬ new x → s'.mem.byte x = c.s.mem.byte x) ∧
    (∀ (t : Team) off m, s.team? t.id = some t → t.mapOf off = some m → off / 4 * 4 ∉ m.filled →
      let line := m.off + (off - m.off) / 128 * 128
      let new := fun (x : Nat) => ∃ w i, w ∈ m.unfilled off ∧ i < 4 ∧ x = t.sched.scratch + w + i
      let asked := s.fillReq t (m.gva + (line - m.off))
      (asked = none → exec (.scratchMapFill t.id off) s = .refused (.notEnabled "SCRATCH_MAP_FILL")) ∧
      (∀ r, asked = some r → r.stale = true → exec (.scratchMapFill t.id off) s = .refused (.notEnabled "SCRATCH_MAP_FILL")) ∧
      (∀ r bs, asked = some r → r.stale = false → r.ans = some (.data bs) → t.mapLineAt (m.gva + (line - m.off)) = some (m, line) →
        ∃ n u, exec (.scratchMapFill t.id off) s = .next n ∧ n.team? t.id = some u ∧
          n = { s with mem := n.mem, teams := n.teams, ms := { s.ms with poison := n.ms.poison }, pod := { s.pod with reqs := n.pod.reqs } } ∧
          u = { t with maps := u.maps } ∧ u.mapOf off = some { m with filled := m.filled ++ m.unfilled off } ∧
          (∀ x i, x ∈ m.unfilled off → i < 4 → n.mem.byte (t.sched.scratch + x + i) = bs.getD (x + i - line) 0) ∧
          ∀ x, ¬ new x → n.mem.byte x = s.mem.byte x)) ∧
    (s.boot.guestsOpen = false → ∀ vi i (seq : Word) (res : BitVec 2) asid (va len : DWord), s.vis[vi]? = some i →
      exec (.prqdoneWrite vi seq res) s = .next s ∧ exec (.tlbiRange vi asid va len) s = .next s ∧ exec (.tlbiAsid vi asid) s = .next s ∧
        exec (.tlbiInterface vi) s = .next s) ∧
    (∀ vi i (seq : Word) (res : BitVec 2) r, s.vis[vi]? = some i → s.boot.guestsOpen = true → (∀ x ∈ s.prq, x.sent = true) →
      (s.prq.filter fun x => x.vi == vi && x.seq == seq) = [r] →
      let here := fun (va : DWord) => va.toNat / 65536 = r.page
      let counts := fun (t : Team) => t.const.asid = r.asid ∧ t.sched.life = .parked
      let apart := fun (t : Team) (a : Nat) => a < t.sched.parking + 0x39C ∨ t.sched.parking + 0x39E ≤ a
      ∃ n, exec (.prqdoneWrite vi seq res) s = .next n ∧
        n = { s with vis := n.vis, prq := n.prq, teams := n.teams, mem := n.mem, clusters := n.clusters, pod := { s.pod with reqs := n.pod.reqs } } ∧
        n.vis = setAt s.vis vi { i with prqdone := BitVec.ofNat 64 (seq.toNat + 2 ^ 32 * res.toNat) } ∧
        (2 ≤ res.toNat → n.prq = s.prq ∧ n.teams = s.teams) ∧
        (res.toNat < 2 → n.prq = s.prq.filter fun x => x != r) ∧
        (∀ a, (∀ t ∈ s.teams, counts t → apart t a) → n.mem.byte a = s.mem.byte a) ∧
        (∀ t u, s.team? t.id = some t → n.team? t.id = some u → counts t → res.toNat < 2 →
          (∀ v ∈ s.teams, counts v → v = t ∨ ∀ i, i < 2 → apart v (t.sched.parking + 0x39C + i)) →
          n.mem.le (t.sched.parking + 0x39C) 2 = (u.iss.flights.filter (·.path == 6)).length % 2 ^ 16) ∧
        (∀ (t : Team), s.team? t.id = some t → t.const.asid ≠ r.asid → n.team? t.id = some t) ∧
        ∀ (t : Team), s.team? t.id = some t → t.const.asid = r.asid → res.toNat < 2 → ∃ u, n.team? t.id = some u ∧
          (∀ f ∈ u.iss.flights, ∀ va, f.kind = .page va → here va → f.done = true) ∧
          (∀ o ∈ u.eng.copies, ∀ va, o.page = some va → ¬ here va) ∧
          (res = 0 → s.walkPage r.asid (65536 * r.page) needNone = .resident → u.iss.faults = t.iss.faults ∧ u.regs = t.regs ∧
            u.eng.copies.map (·.serial) = t.eng.copies.map (·.serial)) ∧
          (res = 1 → (∃ o ∈ t.eng.copies, ∃ va, o.page = some va ∧ here va) → ∃ f ∈ u.iss.faults, f.cause = 0x06)) ∧
    (∀ vi i, s.vis[vi]? = some i →
      let owns := fun (asid : BitVec 12) => i.first ≤ asid.toNat ∧ asid.toNat < i.first + i.count
      s.boot.guestsOpen = true →
      (∀ asid (va len : DWord), (i.tlbi2.getLsbD 31 = false → owns asid → exec (.tlbiRange vi asid va len) s = .next { s with
          vis := setAt s.vis vi { i with tlbi0 := addr57 va, tlbi1 := len, tlbi2 := BitVec.ofNat 32 (2 ^ 31 + asid.toNat) } }) ∧
        (i.tlbi2.getLsbD 31 = true ∨ ¬ owns asid → exec (.tlbiRange vi asid va len) s = .next s)) ∧
      (∀ asid, (i.tlbi2.getLsbD 31 = false → owns asid → exec (.tlbiAsid vi asid) s = .next { s with
          vis := setAt s.vis vi { i with tlbi2 := BitVec.ofNat 32 (2 ^ 31 + 2 ^ 16 + asid.toNat) } }) ∧
        (i.tlbi2.getLsbD 31 = true ∨ ¬ owns asid → exec (.tlbiAsid vi asid) s = .next s)) ∧
      (i.tlbi2.getLsbD 31 = false → 0 < i.count → i.first < 4096 → exec (.tlbiInterface vi) s = .next { s with
          vis := setAt s.vis vi { i with tlbi2 := BitVec.ofNat 32 (2 ^ 31 + 2 ^ 17 + i.first) } }) ∧
      (i.tlbi2.getLsbD 31 = true → exec (.tlbiInterface vi) s = .next s) ∧
      (i.tlbi2.getLsbD 31 = true →
        let scope := i.tlbi2.toNat / 2 ^ 16 % 4
        let covers := fun (asid : BitVec 12) => if scope = 2 then owns asid else asid.toNat = i.tlbi2.toNat % 2 ^ 12
        let hit := fun (e : TlbEntry) => covers e.asid ∧
          (scope ≠ 0 ∨ (e.vbase < i.tlbi0.toNat + i.tlbi1.toNat ∧ i.tlbi0.toNat < e.vbase + e.size))
        (∀ t ∈ s.teams, covers t.const.asid → s.accessesDone t = true) →
        (∀ r ∈ s.pod.reqs, r.ans = none → r.dead = false →
          (∀ l e x, r.use = .gate l e → x ∈ s.sched.launches → x.id = l → ¬ covers x.asid) ∧ (r.use = .gone → s.team? r.team ≠ none)) →
        ∃ n j, exec (.tlbiComplete vi) s = .next n ∧ n.vis = setAt s.vis vi j ∧ n.ms.walk = [] ∧
          (∀ x, x ∈ n.sched.allotHeld ↔ x ∈ s.sched.allotHeld ∧ n.translated x.1 = true) ∧
          (s.sched.allotHeld = [] → n = { s with vis := setAt s.vis vi j, ms.tlb := n.ms.tlb, ms.walk := [] }) ∧
          j = { i with tlbi2 := j.tlbi2 } ∧ j.tlbi2.toNat = i.tlbi2.toNat - 2 ^ 31 ∧ ∀ e, e ∈ n.ms.tlb ↔ e ∈ s.ms.tlb ∧ ¬ hit e)) ∧
  (∀ (pa k : Nat), k < 6 → (homeSlice pa).getLsbD k =
    (List.range 7).foldl (fun b i => b ^^ pa.testBit (6 * i + 7 + k)) (decide (k < 3) && pa.testBit (49 + k)))

/-! Launches and the lives of teams. -/

/-- R42, R306, R307, R310 to R316, R319, R322, R365, R373: a record is taken from the ring's read index, and becomes a launch or
a status record with its reason, which is signalled; a changed configuration is read again; a launch is distributed once its
gates are open, and none of a shed class is; a place is admitted with all its siblings at once, in the state of R42; a finished
grid is freed and arrives once at its completion barrier. It rests on choices or readings of the model: logs 2, 24, 25, 26 and
57. -/
def Obligations.Launches : Prop :=
  ∀ (s : State),
    (∀ q, s.mayTake q = true → s.sched.reports = [] →
      let c := s.cfgRead q
      let i := s.qrd q
      let slot := s.qslot q i
      let r := s.mem.bytes slot 256
      let v := s.vis.getD c.vi State.resetVi
      let qcb := s.qcb q
      let bad := if populated slot && populated (slot + 255) then s.rejection c.vi r else some 1
      (∀ x, x < 256 → populated (qcb + x) = true) → c.vi < s.vis.length →
      (∀ o, bad = none → s.object? c.vi (BitVec.ofNat 64 (leField r 0 8)) = some o →
        ∃ n, exec (.recordTake q) s = .next n ∧ n.home8 (qcb + 24) = i + 1 ∧ n.vis[c.vi]? = some { v with serial := v.serial + 1 } ∧
          n.sched.launches = s.sched.launches ++
            [⟨s.sched.nextLaunch, q, c.vi, v.serial, i, r, o.asid, BitVec.ofNat 64 o.text, false, 0, false⟩] ∧
          n.sched.nextLaunch = s.sched.nextLaunch + 1 ∧ (∀ a, a < qcb + 24 ∨ qcb + 32 ≤ a → n.mem.byte a = s.mem.byte a)) ∧
      (∀ k, bad = some k →
        let ring := s.qstat q + 32 * ((s.qstwr q).toNat % 2 ^ (s.cfgNow q).slogn)
        (∀ x, x < 32 → populated (ring + x) = true) → ring + 32 ≤ qcb ∨ qcb + 256 ≤ ring → (s.cfgNow q) = c →
        ∃ n, exec (.recordTake q) s = .next n ∧ n.home8 (qcb + 24) = i + 1 ∧ n.home8 (qcb + 48) = s.qstwr q + 1 ∧
          n.mem.bytes ring 32 = statusRecord (if k = 2 then 2 else 1) v.serial (recTag r) k i.toNat ∧
          n.sched.launches = s.sched.launches ∧ n.boot.msix = s.boot.msix ++ [(c.vi + 1, 0)])) ∧
    (∀ q, s.boot.powered = true → s.boot.reset = false → q < 1024 → lookupKey q s.sched.cfg ≠ some (s.home8 (s.qcb q + 8)) → s.sched.reports = [] →
      ∃ n, exec (.queueCfgReload q) s = .next n ∧ n = { s with sched.cfg := n.sched.cfg } ∧
        lookupKey q n.sched.cfg = some (s.home8 (s.qcb q + 8)) ∧ ∀ k, k ≠ q → lookupKey k n.sched.cfg = lookupKey k s.sched.cfg) ∧
    (∀ l, s.launch? l.id = some l → s.shedClass (s.cfgRead l.q).pclass = true →
      exec (.launchDistribute l.id) s = .refused (.notEnabled "LAUNCH_DISTRIBUTE")) ∧
    (∀ l, s.launch? l.id = some l → l.began = false → s.firstOfQueue l = true → s.shedClass (s.cfgRead l.q).pclass = false →
      let phase := fun (va pa : Nat) => pathOf va = 0 ∧ s.global 0 l.asid va needR = .ok (.home pa)
      let opened := fun (flag at_ past : Nat) => recFlag l.record flag = false ∨
        ∃ pa, phase (leField l.record at_ 8) pa ∧ (barObj s.mem.byte pa).phase ≠ recFlag l.record past
      let shut := fun (flag at_ past : Nat) => recFlag l.record flag = true ∧ (pathOf (leField l.record at_ 8) ≠ 0 ∨
        ∃ pa, phase (leField l.record at_ 8) pa ∧ (barObj s.mem.byte pa).phase = recFlag l.record past)
      (opened 1 64 3 → opened 2 72 4 → exec (.launchDistribute l.id) s = .next (s.setLaunch { l with began := true })) ∧
      (shut 1 64 3 → (opened 2 72 4 ∨ shut 2 72 4) → exec (.launchDistribute l.id) s = .next s) ∧
      (opened 1 64 3 → shut 2 72 4 → exec (.launchDistribute l.id) s = .next s)) ∧
    (∀ l c areas regions, s.launch? l.id = some l → s.clusterFor l = some c → s.placeRegions c (recScr l.record) areas s.taken = some regions →
      areas.length = recNrole l.record → s.grantee.map (·.id) = some l.id → s.areasFree c areas s.parkingTaken (s.slotsTaken c) = true →
      ∃ n new, exec (.placeAdmit l.id areas) s = .next n ∧ n.teams = s.teams ++ new ∧ new.length = areas.length ∧
        n.launch? l.id = some { l with place := l.place + 1 } ∧ n.clusters = s.clusters ∧
        (∀ a, (∀ x ∈ regions, ¬ (x ≤ a ∧ a < x + 4096 * scratchPages (recScr l.record))) → n.mem.byte a = s.mem.byte a) ∧
        ∀ i t, new[i]? = some t →
          t.id = s.sched.nextTeam + i ∧ t.sched.life = .admitted ∧ t.sched.started = false ∧ t.sched.cluster = c ∧
          t.sched.order = s.sched.order + i ∧ (areas[i]?.map (·.slot)) = some t.sched.slot ∧
          (areas[i]?.map (·.parking)) = some t.sched.parking ∧ regions[i]? = some t.sched.scratch ∧
          t.const.launch = l.id ∧ t.const.role = i ∧ t.const.nrole = recNrole l.record ∧ t.const.scr = recScr l.record ∧
          t.const.h = recRole l.record i / 2 ^ 32 % 2 ^ 8 ∧ t.const.n = recRole l.record i / 2 ^ 40 % 2 ^ 8 ∧
          (t.const.z * t.const.ey + t.const.y) * t.const.ex + t.const.x = l.place ∧
          (∀ k, t.readS k = 0) ∧ (∀ r j, t.readV r j = 0) ∧ (∀ k, k ≠ 0 → t.readP k = 0) ∧ t.mode = 0 ∧ t.regs.gang = 0 ∧
          t.frag 0 = ⟨lanesUpTo (32 * t.const.h), t.const.entry, 0, 0, .running, [], false⟩ ∧ (∀ k, k ≠ 0 → (t.frag k).st = .free) ∧
          t.sys.regpc = t.const.entry ∧ t.sys.tflags = 0 ∧ t.sys.lsp = 0 ∧ t.sys.seed.toNat < 2 ^ 32 ∧ t.ctl.link = [] ∧ t.ctl.loop = [] ∧
          t.iss.flights = [] ∧ t.rep.log = [] ∧ (∀ k, (t.table k).st = .empty)) ∧
    (∀ l, s.launch? l.id = some l → s.gridOver l = true →
      let va := leField l.record 80 8
      let freed := fun (n : State) => (∀ t ∈ n.teams, t.const.launch ≠ l.id) ∧ ∀ x : Launch, x ∈ n.sched.launches ↔ x ∈ s.sched.launches ∧ x.id ≠ l.id
      (recFlag l.record 0 = false → ∃ n, exec (.gridComplete l.id) s = .next n ∧ freed n ∧ n.mem = s.mem ∧
        ∀ t, t ∈ n.teams ↔ t ∈ s.teams ∧ t.const.launch ≠ l.id) ∧
      (∀ pa, recFlag l.record 0 = true → pathOf va = 0 → s.global 0 l.asid va needRW = .ok (.home pa) →
        let b := barObj s.mem.byte pa
        (b.arr ≠ b.exp → ∃ n, exec (.gridComplete l.id) s = .next n ∧ freed n ∧
          barObj n.mem.byte pa = phaseCheck { b with arr := (b.arr + 1) % 2 ^ 16 } ∧
          ∀ a, a < pa ∨ pa + 16 ≤ a → n.mem.byte a = s.mem.byte a)))

/-- R137, R141, R267 to R272, R313, R317, R318, R365: an admitted team starts on the lowest core with room; a ready team of a higher priority
pre-empts, which bars lower ones from the cluster, and when a pre-emption's drain limit has run out the teams below it are to be saved; a withheld, stopped or drained team is saved into its parking area and comes
back from it; an ended or discarded team retires; a place moves with its scratch. It rests on choices or readings of the model:
logs 3, 25, 26, 27, 28 and 73. -/
def Obligations.TeamLives : Prop :=
  (∀ (s : State) (t : Team), s.team? t.id = some t →
    (∀ k, t.sched.life = .admitted → s.roomyCore t = some k → s.mayReside t = true → s.outranked t = false →
      ∃ n u, exec (.teamResident t.id) s = .next n ∧ n.team? t.id = some u ∧ (∀ j, j < k → s.coreRoom t j = false) ∧
        u = { t with sched := u.sched, sys.tvec := (s.vis.getD t.const.vi State.resetVi).vitvec } ∧ u.sched.life = .resident ∧
        u.sched.started = true ∧ u.sched.rests = none ∧ u.sched.core = k ∧ u.sched.prio = (s.cfgOf t).prio ∧ u.sched.pclass = (s.cfgOf t).pclass ∧
        u.sched.waits = 0 ∧ u.sched.cluster = t.sched.cluster ∧ (∀ j, j ≠ t.id → n.team? j = s.team? j) ∧
        n = { s with
          ms.l1 := n.ms.l1
          pod.reqs := n.pod.reqs
          sched.lastRes := n.sched.lastRes
          teams := n.teams
          clusters := n.clusters }) ∧
    (let p : Nat := (s.cfgOf t).prio
      let c : Nat := t.sched.cluster
      ∀ k : Cluster, s.clusters[c]? = some k → t.sched.life = .admitted ∨ (t.sched.life = .parked ∧ t.iss.dtrap.cause = 0) →
        s.restOver t = true → s.mayReside t = true → s.roomyCore t = none →
        (∃ u ∈ s.teams, u.sched.life = .resident ∧ u.sched.cluster = c ∧ u.sched.prio < p) → (∀ x ∈ s.preempts c, x.1 < p) →
          exec (.clusterPreempt t.id) s = .next { s with clusters := setAt s.clusters c { k with preempt := s.preempts c ++ [(p, s.now)] } }) ∧
    ((∃ x ∈ s.preempts t.sched.cluster, (s.cfgOf t).prio < x.1) →
      exec (.teamResident t.id) s = .refused (.notEnabled "TEAM_RESIDENT") ∧
      ∀ k, exec (.teamUnpark t.id k) s = .refused (.notEnabled "TEAM_UNPARK")) ∧
    (∀ cl,
      let due := fun (v : Team) => v.sched.life = .resident ∧ v.sched.cluster = cl ∧ v.sched.saveDue = none ∧
        ∃ x ∈ s.preempts cl, v.sched.prio < x.1 ∧ x.2 + (s.vis.getD v.const.vi State.resetVi).drain.toNat * 1500 ≤ s.now
      (∃ v ∈ s.teams, due v) → ∃ n, exec (.drainExpire cl) s = .next n ∧ n = { s with teams := n.teams } ∧
        (due t → n.team? t.id = some { t with sched.saveDue := some t.iss.issued }) ∧ (¬ due t → n.team? t.id = some t)) ∧
    (∀ step, Saveable t → s.saveReady t step = true →
      (t.sched.life = .stopped ∨ (t.sched.life = .resident ∧ t.iss.withheld = none ∧ t.iss.stalled = some .streamBusy) ∨
        (t.sched.life = .resident ∧ ∃ fi w, t.iss.withheld = some (fi, w) ∧
          match w with | .yield _ | .wait _ _ | .barWait _ _ | .mxWait _ | .shed => True | _ => False) →
        ∃ n u, exec (.teamPark t.id step) s = .next n ∧ Saved s t n u) ∧
      (t.sched.life = .resident → s.atRest t = true → ∃ n u, exec (.forcedSave t.id step) s = .next n ∧ Saved s t n u)) ∧
    (∀ step, t.sched.life = .resident → 1 ≤ t.sched.pclass → s.pwr.shed.getD (t.sched.pclass - 1) false = true →
      s.pwr.shedAt.getD (t.sched.pclass - 1) 0 + 1500 * 1500 ≤ s.now →
      (Saveable t → s.saveReady t step = true → t.iss.withheld.isSome = true → ∃ n u, exec (.shedForceSave t.id step) s = .next n ∧ Saved s t n u) ∧
      (s.saveReady t step = false → t.sched.saveDue = none →
        exec (.shedForceSave t.id step) s = .next (s.setTeam { t with sched.saveDue := some t.iss.issued }))) ∧
    (∀ k, t.sched.life = .parked → s.mayReside t = true → s.outranked t = false → s.coreRoom t k = true →
      ∃ n u, exec (.teamUnpark t.id k) s = .next n ∧ n.team? t.id = some u ∧ n = { s with
          ms.l1 := n.ms.l1
          pod.reqs := n.pod.reqs
          sched.lastRes := n.sched.lastRes
          teams := n.teams
          clusters := n.clusters } ∧ (∀ j, j ≠ t.id → n.team? j = s.team? j) ∧
        (∀ w ∈ n.ms.l1, w.core = 8 * t.sched.cluster + k → w.own = true) ∧
        u.const = t.const ∧ u.maps = t.maps ∧ u.sched.life = .resident ∧ u.sched.core = k ∧ u.sched.cluster = t.sched.cluster ∧
        u.sched.prio = (s.cfgOf t).prio ∧ (∀ j, 1 ≤ j → j < 64 → u.readS j = s.home8 (t.sched.parking + 8 * j)) ∧
        u.mode.toNat = s.mem.le (t.sched.parking + 0x380) 4 ∧ u.regs.gang = s.home8 (t.sched.parking + 0x388) ∧
        (∀ r j, r < 127 → r < t.const.n → j < 1024 → j < 32 * t.const.h →
          (u.readV r j).toNat = s.mem.le (t.sched.parking + 0xD0000 + 128 * t.const.h * r + 4 * j) 4) ∧
        u.sys.tvec = s.home8 (t.sched.parking + 0x280) ∧ u.sys.tpc = s.home8 (t.sched.parking + 0x290) ∧
        u.sys.regpc = s.home8 (t.sched.parking + 0x2A8)) ∧
    (let gone := fun (n : State) (u : Team) => n.team? t.id = some u ∧ u.sched = { t.sched with life := .retired, saveDue := none, rests := none } ∧
        u.iss.windows = [] ∧ u.iss.begun = none ∧ u.maps = [] ∧ u.iss.flights = [] ∧ u.eng.q5 = [] ∧ u.eng.q6 = [] ∧ u.eng.copies = [] ∧ u.eng.subs = [] ∧ u.regs = t.regs ∧
        ∀ k v, k ≠ t.id → s.team? k = some v → ∃ v', n.team? k = some v' ∧ v' = { v with
          eng.subs := v'.eng.subs
          eng.k := v'.eng.k };
      (t.sched.life = .ended → t.iss.flights = [] → t.eng.q5 = [] → t.eng.q6 = [] → t.eng.copies = [] →
        ∃ n u, exec (.teamRetire t.id) s = .next n ∧ gone n u ∧ n.mem = s.mem) ∧
      (t.sched.life = .parked ∨ (t.sched.life = .stopped ∧ t.iss.dtrap.cause = 0) → ∃ n u, exec (.teamDiscard t.id) s = .next n ∧
        gone n u ∧ ∀ a, n.mem.byte a = (t.pendingByte a).getD (s.mem.byte a)) ∧
      (t.sched.life = .stopped → t.iss.dtrap.cause ≠ 0 → t.iss.flights = [] → s.sched.reports = [] →
        let q := s.queueOf t
        let ring := s.qstat q + 32 * ((s.qstwr q).toNat % 2 ^ (s.cfgNow q).slogn)
        let tag := ((s.launch? t.const.launch).map fun l => recTag l.record).getD 0
        (s.qstwr q - s.qstrd q).toNat ≠ 2 ^ (s.cfgNow q).slogn → (∀ x, x < 32 → populated (ring + x) = true) →
        (∀ x, x < 256 → populated (s.qcb q + x) = true) → ring + 32 ≤ s.qcb q ∨ s.qcb q + 256 ≤ ring →
        ∃ n u, exec (.teamDiscard t.id) s = .next n ∧ gone n u ∧ n.home8 (s.qcb q + 48) = s.qstwr q + 1 ∧
          n.mem.bytes ring 32 = (if t.iss.dtrap.ecc then statusRecord 4 t.const.serial tag t.const.number 0x0A
            else statusRecord 3 t.const.serial tag t.const.number (t.sys.tcause.toNat % 2 ^ 8 + 2 ^ 8 * t.iss.dtrap.cause.toNat))))) ∧
  ∀ (s : State) (launch place cl : Nat) (t : Team) (i : VirtIf) (a : Area) (region : Nat),
    s.Canonical → s.siblings launch place = [t] → s.team? t.id = some t → cl < 32 → cl ≠ t.sched.cluster → cl / 16 = t.sched.cluster / 16 →
    t.movable = true → s.vis[t.const.vi]? = some i → i.clm.getLsbD cl = true → a.slot < 256 → a.slot ∉ s.slotsTaken cl →
    (∀ c, s.clusters[t.sched.cluster]? = some c → ∀ x ∈ c.streams, ¬ (x.launch = launch ∧ x.place = place)) →
    s.placeRegions cl t.const.scr [a] s.taken = some [region] →
      (t.sched.life = .resident → t.sched.saveDue = none → ∃ n, exec (.placeMigrate launch place cl [a]) s = .next n ∧
        n = { s with teams := n.teams } ∧ n.team? t.id = some { t with sched.saveDue := some t.iss.issued }) ∧
      (t.sched.life = .parked ∨ t.sched.life = .admitted ∨ t.sched.life = .retired →
        ∃ n u, exec (.placeMigrate launch place cl [a]) s = .next n ∧ n.team? t.id = some u ∧
        u = { t with sched := { t.sched with cluster := cl, slot := a.slot, scratch := region }, regs.gang := u.regs.gang, eng.k := u.eng.k } ∧
        ∀ x, x < t.const.scr → t.sched.scratch + t.const.scr ≤ region ∨ region + 4096 * scratchPages t.const.scr ≤ t.sched.scratch →
          (t.sched.life = .parked → t.sched.parking + 0x390 ≤ region ∨ region + t.const.scr ≤ t.sched.parking + 0x388) →
          n.mem.byte (region + x) = s.mem.byte (t.sched.scratch + x))

/-! Errors, the pod, the host, the loader. -/

/-- R273 to R277, R344: a mismatch in an instruction is a pipeline error with its unit, and nothing of the instruction is written; the
third in 1 ms retires the core; one in a queue's operation ends it in error. Memory errors poison words, table errors leave a stale
table, errors in a team's state stop it. An illegal scheduler state stops issue on the cluster until it is rebuilt. A port's first
failed lane is replaced by the spare, the second leaves x2, the third takes it out of service. It rests on choices or readings
of the model: logs 41, 42 and 43. -/
def Obligations.DetectedErrors : Prop :=
  ∀ (s : State),
    (∀ (t : Team) (k : Core) (c : Cluster) (u : BitVec 4), s.team? t.id = some t → s.clusters[t.sched.cluster]? = some c →
      c.cores[t.sched.core]? = some k →
      let recent := (k.errors.filter fun x => decide (s.now ≤ x + 1500000)).length
      let others := fun (n : State) => ∀ j, j ≠ t.id → n.team? j = s.team? j
      (s.mayIssue t t.faultFrag = true → u.toNat < 4 → t.sys.tcause.getLsbD 9 = false → recent < 2 →
        ∃ n v, exec (.checkerMismatch (.instruction t.id u)) s = .next n ∧ n.team? t.id = some v ∧ others n ∧
          n = { s with teams := n.teams, clusters := n.clusters, pod := { s.pod with reqs := n.pod.reqs } } ∧
          (∀ r ∈ n.pod.reqs, r.team = t.id → ∀ k, r.use ≠ .instruction k) ∧
          v = { t with
            iss := { t.iss with withheld := v.iss.withheld, faults := v.iss.faults, begun := none, stalled := none, charge := none } } ∧
          (⟨0x0A, u.setWidth 64, 0, true, false, false⟩ : PendFault) ∈ v.iss.faults ∧ ∀ f ∈ t.iss.faults, f ∈ v.iss.faults) ∧
      (s.mayIssue t t.faultFrag = true → u.toNat < 4 → t.sys.tcause.getLsbD 9 = true → recent < 2 →
        ∃ n v, exec (.checkerMismatch (.instruction t.id u)) s = .next n ∧ n.team? t.id = some v ∧ others n ∧
          n = { s with teams := n.teams, clusters := n.clusters, pod := { s.pod with reqs := n.pod.reqs } } ∧
          DoubleTrapped t t.faultFrag 0x0A (u.setWidth 64) .region v) ∧
      (s.mayIssue t t.faultFrag = true → u.toNat < 4 → t.sys.tcause.getLsbD 9 = false → 2 ≤ recent → t.faultFrag < t.ctl.frags.length →
        (∀ f ∈ t.iss.faults, f.pipeline = false) →
        ∃ n v c' k', exec (.checkerMismatch (.instruction t.id u)) s = .next n ∧ n.team? t.id = some v ∧
          TookTrap { t with iss := { t.iss with stalled := none } } t.faultFrag 0x0A (u.setWidth 64 ||| 16) .region { v with sched := t.sched, eng := t.eng } ∧
          n.clusters[t.sched.cluster]? = some c' ∧ c'.spare = false ∧ c'.cores[t.sched.core]? = some k' ∧ k'.alive = c.spare ∧ k'.errors = [] ∧
          ∀ w : Team, s.team? w.id = some w → w.sched.life = .resident → w.sched.cluster = t.sched.cluster →
            ∃ w', n.team? w.id = some w' ∧ w'.sched.saveDue.isSome = true) ∧
      (∀ (q : BitVec 3) (serial : Nat), t.sched.life.holds = true → 4 ≤ u.toNat → u.toNat < 8 → recent < 2 →
        let head := match q.toNat with
          | 5 => ∃ o, t.eng.q5.head? = some o ∧ o.started = true ∧ o.paused = false ∧ o.serial = serial
          | 6 => ∃ o, t.eng.q6.head? = some o ∧ o.started = true ∧ o.paused = false ∧ o.serial = serial
          | m => ∃ o, (t.eng.copies.filter fun x => x.q == m).head? = some o ∧ o.written = false ∧ o.serial = serial
        head → ∃ n v, exec (.checkerMismatch (.queue t.id q u)) s = .next n ∧ n.team? t.id = some v ∧ others n ∧
          n = { s with teams := n.teams, clusters := n.clusters, pod := n.pod, ms := { s.ms with l1 := n.ms.l1 } } ∧
          v.regs = { t.regs with c := v.regs.c } ∧ v.sys = t.sys ∧ v.ctl = t.ctl ∧
          (q ≠ 5 ∨ (∀ o ∈ t.eng.q5, o.kept = none) → v.regs.c = t.regs.c) ∧
          (∀ o c sl a b acc gang ta tb k, q = 5 → t.eng.q5 = [o] → o.op = .mxMma c sl a b acc gang ta tb → o.kept = some k →
            ∀ j, v.regs.c.get j = if 4096 * c.toNat ≤ j ∧ j < 4096 * c.toNat + 4096 then k.get j else t.regs.c.get j) ∧
          (q = 5 → v.eng.q5 = []) ∧ (q = 6 → v.eng.q6 = []) ∧ (q.toNat < 5 → ∀ x ∈ v.eng.copies, x.q ≠ q.toNat) ∧
          (⟨0x0A, u.setWidth 64 ||| (1 <<< 60) ||| (BitVec.ofNat 64 q.toNat <<< 57), serial, false, false, false⟩ : PendFault) ∈ v.iss.faults)) ∧
    exec (.eccError .corrected) s = .next s ∧
    (∀ core pa, ∃ n, exec (.eccError (.cleanCopy core pa)) s = .next n ∧ n = { s with clusters := n.clusters, ms := { s.ms with l1 := n.ms.l1, icache := n.ms.icache } } ∧
      (∀ k x, n.clusters[core / 8]? = some k → k.cores[core % 8]? = some x → ∀ w ∈ x.loopBuf, w.pa ≠ pa / 4 * 4) ∧
      (∀ w ∈ n.ms.icache, ¬ (w.cluster = core / 8 ∧ w.pa = pa / 4 * 4)) ∧ ∀ w, w ∈ n.ms.l1 ↔ w ∈ s.ms.l1 ∧ ¬ (w.core = core ∧ w.pa = pa / 4 * 4)) ∧
    (∀ pa, populated pa = true → inHost pa = false → ∃ n, exec (.eccError (.home pa)) s = .next n ∧
      n = { s with ms := { s.ms with poison := n.ms.poison } } ∧ ∀ w, w ∈ n.ms.poison ↔ w ∈ s.ms.poison ∨ w = pa / 4 * 4) ∧
    (∀ (t : Team) (k : Nat), s.team? t.id = some t → t.sched.life.holds = true → k < t.const.tables → k < t.eng.k.length →
      ∃ n u, exec (.eccError (.table t.id k)) s = .next n ∧ n = { s with teams := n.teams } ∧ n.team? t.id = some u ∧
        u = { t with eng := { t.eng with k := u.eng.k } } ∧ u.table k = { t.table k with st := .stale } ∧ ∀ j, j ≠ k → u.table j = t.table j) ∧
    (let stopped := fun (t : Team) => { t with
        sched := { t.sched with life := .stopped }, iss := { t.iss with begun := none, dtrap := ⟨0x0A, (t.frag t.faultFrag).pc, 8, true⟩ } };
      (∀ t : Team, s.team? t.id = some t → t.sched.life = .resident → exec (.eccError (.teamState t.id)) s = .next (s.setTeam (stopped t))) ∧
      ∀ cl, (∀ t ∈ s.teams, s.team? t.id = some t) → (∀ t ∈ s.teams, t.sched.cluster = cl → t.sched.life = .resident) →
        ∃ n, exec (.eccError (.teamTable cl)) s = .next n ∧ n = { s with teams := n.teams } ∧
          ∀ t ∈ s.teams, n.team? t.id = some (if t.sched.cluster = cl then stopped t else t)) ∧
    (∀ c k, c < 32 → s.clusters[c]? = some k →
      exec (.schedulerIllegalState c) s = .next { s with clusters := setAt s.clusters c { k with halted := true } } ∧
      (k.halted = true → exec (.schedulerRebuildDone c) s = .next { s with clusters := setAt s.clusters c { k with halted := false } })) ∧
    (∀ p lanes, s.pod.lanes[p]? = some lanes →
      (0 < lanes → s.pod.spares[p]? = some false → exec (.portLaneFail p) s = .next { s with
        pod := { s.pod with spares := setAt s.pod.spares p true, retrain := setAt s.pod.retrain p true } }) ∧
      (lanes = 4 → s.pod.spares[p]? = some true → exec (.portLaneFail p) s = .next { s with
        pod := { s.pod with lanes := setAt s.pod.lanes p 2, retrain := setAt s.pod.retrain p true } }) ∧
      (lanes = 2 → s.pod.spares[p]? = some true → ∃ n, exec (.portLaneFail p) s = .next n ∧ n.pod.lanes = setAt s.pod.lanes p 0 ∧
        n.pod.retrain = setAt s.pod.retrain p false ∧ Contained s 2 (s.pod.podctl.extractLsb' 0 10) n) ∧
      (s.pod.retrain[p]? = some true → exec (.portRetrainDone p) s = .next { s with
        pod := { s.pod with retrain := setAt s.pod.retrain p false } }))

/-- R346 to R351: a request from a device that is no member is dropped, one that no window admits is answered with an error and changes
nothing, an admitted one is performed at its home and answered. An answer ends the request that waits for it: a load's window takes its
bytes, and the refusals of one store's packets are one pending fault once the last of them is there; without one for 250
microseconds it ends as sent to a dead target, with a containment record. A write to a mask adds members at once; a cleared bit,
once applied, ends what is outstanding to the device and drops its words from every L1. It rests on choices or readings of the
model: logs 17, 42 and 43. -/
def Obligations.PodRequests : Prop :=
  ∀ (s : State), s.Canonical →
    let member := fun (s : State) (d : BitVec 10) => s.pod.podctl.getLsbD 31 = true ∧ (s.pod.applied.getD (d.toNat / 64) 0).getLsbD (d.toNat % 64) = true
    let lastOf := fun (t : Team) (id : Nat) => (∃ f ∈ t.iss.flights, id ∈ f.remote) ∧
      ∀ f ∈ t.iss.flights, f.fault = none ∧ (id ∈ f.remote → ∀ k ∈ f.remote, k = id)
    let more := fun (t : Team) (id : Nat) => ∀ f ∈ t.iss.flights, id ∈ f.remote → ∃ k ∈ f.remote, k ≠ id
    (∀ r : RemoteReq,
      let answered := fun (n : State) (a : RemoteAnswer) => n.pod = { s.pod with answers := s.pod.answers ++ [(r.src, r.id, a)] } ∧
        n = { s with pod := n.pod, mem := n.mem, ms := n.ms, teams := n.teams } ∧
        ∀ k v, s.team? k = some v → ∃ v', n.team? k = some v' ∧ v' = { v with eng.k := v'.eng.k }
      let within := fun (n : State) (len : Nat) => ∀ a, a < r.pa ∨ r.pa + len ≤ a → n.mem.byte a = s.mem.byte a
      (¬ member s r.src → exec (.remoteRequest r) s = .next s) ∧
      (member s r.src → ¬ Admitted s r →
        exec (.remoteRequest r) s = .next { s with pod := { s.pod with answers := s.pod.answers ++ [(r.src, r.id, .error)] } }) ∧
      (member s r.src → Admitted s r → (∀ bs, r.kind ≠ .write bs) → (∀ w x y, r.kind ≠ .atomic .st w x y) →
        (∃ a ∈ RemoteReq.span r, a / 4 * 4 ∈ s.ms.poison) →
          exec (.remoteRequest r) s = .next { s with pod := { s.pod with answers := s.pod.answers ++ [(r.src, r.id, .poisoned)] } }) ∧
      (member s r.src → Admitted s r → (∀ a ∈ RemoteReq.span r, a / 4 * 4 ∉ s.ms.poison) → ∃ n, exec (.remoteRequest r) s = .next n ∧
        match r.kind with
        | .read len => answered n (.data (s.mem.bytes r.pa len)) ∧ n.mem = s.mem
        | .write bs => (bs.map (·.1)).Nodup → answered n .done ∧ (∀ x ∈ bs, n.mem.byte (r.pa / 256 * 256 + x.1) = x.2) ∧
            ∀ a, (∀ x ∈ bs, a ≠ r.pa / 256 * 256 + x.1) → n.mem.byte a = s.mem.byte a
        | .atomic op wide x y =>
          let len := if wide then 8 else 4
          let old := wordAt s.mem.byte r.pa len
          (wide = true → op ≠ .addf ∧ op ≠ .addbf) → (wide = false → x.toNat < 2 ^ 32 ∧ y.toNat < 2 ^ 32) →
            answered n (.data (s.mem.bytes r.pa len)) ∧ within n len ∧
            wordAt n.mem.byte r.pa len = (atomValue op (8 * len) old x.toNat y.toNat).getD old
        | .barrier op =>
          match remoteBarrier op (barObj s.mem.byte r.pa) with
          | .ok b => answered n (.data (s.mem.bytes r.pa 16)) ∧ within n 16 ∧ barObj n.mem.byte r.pa = b
          | .error d => answered n (.overflow (BitVec.ofNat 2 d)) ∧ n.mem = s.mem)) ∧
    (∀ id a, (∀ r ∈ s.pod.reqs, r.id = id → r.ans.isSome = true ∨ r.dead = true) → exec (.remoteResponse id a) s = .next s) ∧
    (∀ r a, Waiting s r → s.pod.retrain.getD r.port false = false → (∀ x ∈ s.pod.reqs, x.use = .gone → x.forming = false) →
      let others := s.pod.reqs.filter fun x => x.id != r.id
      let early := s.now < r.at_ + 250 * 1500
      (¬ member s r.dev ∨ ¬ early → exec (.remoteResponse r.id a) s = .next s) ∧
      (∀ k, member s r.dev → early → (∃ bs, r.kind = .write bs) → r.use = .queue k → a ≠ .error →
        exec (.remoteResponse r.id a) s = .next { s with pod := { s.pod with reqs := others } }) ∧
      (member s r.dev → early → r.use = .flight → RemoteKind.vendor r.kind = false → ∃ n, exec (.remoteResponse r.id a) s = .next n ∧
        n.pod = { s.pod with reqs := others } ∧ n = { s with pod := n.pod, teams := n.teams } ∧
        ∀ t : Team, s.team? r.team = some t → t.id = r.team → ∃ u, n.team? r.team = some u ∧
          (∀ f ∈ u.iss.flights, r.id ∉ f.remote) ∧ u.regs = t.regs ∧
          ((∀ f ∈ t.iss.flights, f.fault = none) → (a ≠ .error ∨ more t r.id) → u.iss.faults = t.iss.faults) ∧
          (a = .error → lastOf t r.id → ∃ f ∈ u.iss.faults, f.cause = 0x07 ∧ f.tinfo = BitVec.ofNat 64 (r.va.toNat % 2 ^ 57))) ∧
      (∀ (t : Team) w p, member s r.dev → early → r.use = .load → (∃ len, r.kind = .read len) → s.team? r.team = some t → t.id = r.team →
        t.iss.windows = [w] → w.waits = [p] → p.req = r.id → (∀ v ∈ s.teams, v.id ≠ t.id → v.partsOf r.id = []) →
        (a = .error ∨ ∃ bs, a = .data bs) → ∃ n u, exec (.remoteResponse r.id a) s = .next n ∧ n.team? t.id = some u ∧
          n.pod.reqs = others ∧ n.mem = s.mem ∧ u.regs = t.regs ∧ (∀ f ∈ u.iss.flights, r.id ∉ f.remote) ∧
          (∀ bs, a = .data bs → (∀ b ∈ p.known, b = none) → u.iss.windows = [{ w with
            writes := w.writes ++ p.dest.put ((List.range p.known.length).map fun i => bs.getD (p.off + i) 0)
            waits := [] }]) ∧
          (a = .error → u.iss.windows = [{ w with waits := [] }] ∧
            (lastOf t r.id → ∃ f ∈ u.iss.faults, f.cause = 0x07 ∧ f.tinfo = BitVec.ofNat 64 (p.va.toNat % 2 ^ 57)))) ∧
      (∀ t : Team, member s r.dev → early → r.use = .poll → s.team? r.team = some t → t.id = r.team →
        (∀ bs, r.kind ≠ .write bs) → RemoteKind.vendor r.kind = false → s.loadsWait r = false →
        (a ≠ .error → a ≠ .poisoned → exec (.remoteResponse r.id a) s = .next { s with pod := { s.pod with
          reqs := s.pod.reqs.map fun (x : RemoteOut) => if x.id = r.id then { r with ans := some a } else x } }) ∧
        (∀ fi va par, a = .error ∨ a = .poisoned → t.iss.withheld = some (fi, .barWait va par) → exec (.remoteResponse r.id a) s = .next
          (({ s with pod := { s.pod with reqs := s.pod.reqs.map fun (x : RemoteOut) => if x.id = r.id then
            { r with ans := some a, use := .instruction (1024 + fi) } else x } } : State).setTeam { t with iss := { t.iss with withheld := none } }))) ∧
      (member s r.dev → early → (∀ bs, r.kind ≠ .write bs) → (∃ k, r.use = .instruction k) ∨ (∃ l e, r.use = .gate l e) →
        s.loadsWait r = false → ∃ n, exec (.remoteResponse r.id a) s = .next n ∧
        n.pod.reqs = s.pod.reqs.map (fun x => if x.id = r.id then { r with ans := some a } else x) ∧
        ((a ≠ .error ∨ RemoteKind.vendor r.kind = false) →
          n = { s with pod := { s.pod with reqs := n.pod.reqs }, ms := { s.ms with l1 := n.ms.l1 } }) ∧
        (r.stale = true → n.ms.l1 = s.ms.l1) ∧ (∀ w ∈ n.ms.l1, w ∈ s.ms.l1 ∨ (w.dev = some r.dev ∧ w.own = false)) ∧
        (a = .error → (∃ op, r.kind = .barrier op) → Contained s 3 r.dev n))) ∧
    (∀ r, Waiting s r → r.at_ + 250 * 1500 ≤ s.now → (∀ x ∈ s.pod.reqs, x.use = .gone → x.forming = false) → ∃ n, exec (.remoteTimeout r.id) s = .next n ∧ Contained s 1 r.dev n ∧
      (r.use = .flight → n.pod.reqs = s.pod.reqs.filter (fun x => x.id != r.id) ∧
        ∀ t : Team, s.team? r.team = some t → t.id = r.team → ∃ u, n.team? r.team = some u ∧
          (∀ f ∈ u.iss.flights, r.id ∉ f.remote) ∧ (lastOf t r.id → ∃ f ∈ u.iss.faults, f.cause = 0x0B ∧ f.tinfo = BitVec.ofNat 64 (r.va.toNat % 2 ^ 57 + 2 ^ 62)) ∧
          ((∀ f ∈ t.iss.flights, f.fault = none) → more t r.id → u.iss.faults = t.iss.faults)) ∧
      ((∀ bs, r.kind ≠ .write bs) → (∃ k, r.use = .instruction k) ∨ (∃ l e, r.use = .gate l e) →
        s.loadsWait r = false → n.pod.reqs = s.pod.reqs.map fun x => if x.id = r.id then { r with dead := true } else x)) ∧
    (s.boot.powered = false ∨ s.boot.reset = true → ∀ (k : BitVec 4) mask, exec (.memberWrite k mask) s = .next s) ∧
    (∀ (k : BitVec 4) mask, s.boot.powered = true → s.boot.reset = false → exec (.memberWrite k mask) s = .next { s with pod := { s.pod with
      member := setAt s.pod.member k.toNat mask, applied := setAt s.pod.applied k.toNat (s.pod.applied.getD k.toNat 0 ||| mask) } }) ∧
    (∀ d : BitVec 10, (s.pod.member.getD (d.toNat / 64) 0).getLsbD (d.toNat % 64) = false →
      (s.pod.applied.getD (d.toNat / 64) 0).getLsbD (d.toNat % 64) = true →
      ∃ n, exec (.memberClearApply d) s = .next n ∧ ¬ member n d ∧ (∀ e, e ≠ d → (member n e ↔ member s e)) ∧
        (∀ w ∈ n.ms.l1, w ∈ s.ms.l1 ∧ w.dev ≠ some d) ∧
        ((∀ r ∈ s.pod.reqs, r.forming = false) → ∀ w ∈ s.ms.l1, w.dev ≠ some d → w ∈ n.ms.l1) ∧ n.mem = s.mem ∧ n.pod.member = s.pod.member ∧
        ∀ r ∈ n.pod.reqs, r.dev = d → (r.ans.isSome = true ∨ r.dead = true))

/-- R4, R331, R332, R355, R357, R371, R372, R375 to R382, R386, R388: the host reads, writes and performs atomics on device
memory once the boot has opened it; a power-up, a reset and the loss of power leave nothing of the device; the registers that
the host writes take what their fields keep; the mailbox runs one command at a time. A read beyond HBM4 ends in a fault of the
model. What a boot image passes depends on hash and signature functions that Config gives no body. It rests on choices or
readings of the model: logs 5, 6, 11, 12, 21, 42, 45, 46, 47, 48, 49, 50, 53, 60 and 74. -/
def Obligations.HostSide : Prop :=
  ∀ (s : State), s.Canonical →
    let live := s.boot.powered = true ∧ s.boot.reset = false
    let opened := live ∧ (s.boot.stage = 5 ∨ s.boot.stage = 6)
    let clean := fun (pa n : Nat) => ∀ w ∈ s.ms.poison, w + 4 ≤ pa ∨ pa + n ≤ w
    let hbm : Nat := 0x7735940000
    let stored := fun (n : State) => n = { s with
      mem := n.mem
      ms := n.ms
      teams := n.teams
      replies := n.replies
      sched := { s.sched with vaultVi := n.sched.vaultVi, allotHeld := n.sched.allotHeld } }
    let keeps := fun (pa len a : Nat) => inVault a = false ∨ pa + len ≤ s.boot.vallot ∨ s.boot.vallot + 6144 ≤ pa;
    (¬ opened → ∀ a, exec (.hostCxlMemAccess a) s = .next { s with replies := s.replies ++ [[]] }) ∧
    (opened →
      (∀ pa len, pa + len ≤ hbm → (clean pa len → exec (.hostCxlMemAccess (.read pa len)) s = .next { s with replies := s.replies ++ [s.mem.bytes pa len] }) ∧
        (0 < len → pa ∈ s.ms.poison → exec (.hostCxlMemAccess (.read pa len)) s = .next { s with replies := s.replies ++ [[]] })) ∧
      (∀ pa bs, pa + bs.length ≤ hbm → s.sched.reports = [] → ∃ n, exec (.hostCxlMemAccess (.write pa bs)) s = .next n ∧ stored n ∧
        n.replies = s.replies ∧ ∀ a, keeps pa bs.length a → n.mem.byte a = withBytes s.mem.byte pa bs a) ∧
      (∀ op pa x y, pa + 8 ≤ hbm → clean pa 8 → op ≠ .addf → op ≠ .addbf → s.sched.reports = [] →
        let old := wordAt s.mem.byte pa 8
        ∃ n, exec (.hostCxlMemAccess (.atomic op pa x y)) s = .next n ∧ stored n ∧ n.replies = s.replies ++ [s.mem.bytes pa 8] ∧
          ∀ a, keeps pa 8 a → n.mem.byte a = (atomValue op 64 old x.toNat y.toNat).elim (s.mem.byte a) fun v =>
            withBytes s.mem.byte pa ((List.range 8).map (byteAt v)) a) ∧
      (∀ pa len, hbm < pa + len → exec (.hostCxlMemAccess (.read pa len)) s = .fault (.unpopulated pa))) ∧
    (∀ line, inHost (64 * line) = true →
      exec (.hostCxlCacheSnoop line .share) s = .next { s with ms := { s.ms with hostDirty := s.ms.hostDirty.filter fun x => x != line } } ∧
      ∀ bs : List Byte, bs.length ≤ 64 → ∃ n, exec (.hostCxlCacheSnoop line (.invalidate ((List.range bs.length).zip bs))) s = .next n ∧ stored n ∧
        line ∉ n.ms.hostDirty ∧ ∀ a, keeps (64 * line) 64 a → n.mem.byte a = withBytes s.mem.byte (64 * line) bs a) ∧
    (let afresh := fun (powered reset : Bool) (n : State) => n = { State.reset with
          agenda := s.agenda
          idle := s.idle
          now := s.now
          replies := s.replies
          mem := n.mem
          boot := { State.reset.boot with powered := powered, reset := reset, msix := s.boot.msix } } ∧
        ∀ a, a / 64 ∉ s.ms.hostDirty → n.mem.byte a = if inHost a then s.mem.byte a else 0;
      (¬ live → ∃ n, exec .powerOn s = .next n ∧ afresh true false n) ∧
      (s.boot.powered = true → ∃ n, exec .hostResetAssert s = .next n ∧ afresh true true n) ∧
      ∃ n, exec .powerRemove s = .next n ∧ afresh false s.boot.reset n) ∧
    (∀ vi i, vi < 64 → s.vis[vi]? = some i →
      let gone := fun (n : State) => (∀ t ∈ n.teams, t.const.vi ≠ vi) ∧ (∀ l : Launch, l ∈ n.sched.launches ↔ l ∈ s.sched.launches ∧ l.vi ≠ vi) ∧
        (∀ r : PageReq, r ∈ n.prq ↔ r ∈ s.prq ∧ r.vi ≠ vi) ∧ n.ms.walk = [] ∧
        (∀ e, e ∈ n.ms.tlb ↔ e ∈ s.ms.tlb ∧ ¬ (i.first ≤ e.asid.toNat ∧ e.asid.toNat < i.first + i.count)) ∧
        (∀ a, (inVault a = false ∨ s.sched.allotHeld = []) → (∀ t ∈ s.teams, t.const.vi = vi → ∀ f ∈ t.iss.flights, ∀ b ∈ f.bytes, b.1 ≠ a) →
          n.mem.byte a = s.mem.byte a) ∧
        ∀ t : Team, s.team? t.id = some t → t.const.vi ≠ vi → ∃ u, n.team? t.id = some u ∧ u = { t with eng := { t.eng with k := u.eng.k, subs := u.eng.subs } }
      let alone := fun (j : VirtIf) => ∀ k x, k ≠ vi → s.vis[k]? = some x → x.en = true → j.first + j.count ≤ x.first ∨ x.first + x.count ≤ j.first;
      (∃ n, exec (.vfFlr vi) s = .next n ∧ gone n ∧ n.vis = setAt s.vis vi { i with serial := 0 }) ∧
      (¬ live → ∀ w : DWord, exec (.victlWrite vi w) s = .next s ∧ exec (.viperfWrite vi w) s = .next s) ∧
      (∀ w : DWord, live → let j := { i with en := w.getLsbD 31, s2en := w.getLsbD 0 };
        (w.getLsbD 31 = true → alone j → exec (.victlWrite vi w) s = .next { s with vis := setAt s.vis vi j }) ∧
        (w.getLsbD 31 = false → ∃ n, exec (.victlWrite vi w) s = .next n ∧ gone n ∧ n.vis = setAt s.vis vi { j with serial := 0 })) ∧
      (∀ w : DWord, live → exec (.viperfWrite vi w) s = .next { s with vis := setAt s.vis vi { i with caplvl := w.extractLsb' 0 2 } }) ∧
      (∀ w : DWord, live →
        (s.boot.stage ≠ 5 → s.boot.stage ≠ 6 → ∀ off, exec (.registerWrite (.guest vi off) w) s = .next s) ∧
        (s.boot.stage = 5 ∨ s.boot.stage = 6 → exec (.registerWrite (.guest vi 0x018) w) s = .next { s with vis := setAt s.vis vi { i with drain := w.extractLsb' 0 16 } } ∧
          exec (.registerWrite (.guest vi 0x020) w) s = .next { s with vis := setAt s.vis vi { i with vitvec := bitsOf w 6 57 } }))) ∧
    (∀ w : DWord,
      let pf := fun (off : Nat) => exec (.registerWrite (.pf off) w) s;
      (¬ live → ∀ r, exec (.registerWrite r w) s = .next s) ∧
      (live →
        (∀ off ∈ [0x000, 0x008, 0x018, 0x80018, 0x80200, 0x90040, 0xA0008, 0xA0010], pf off = .next s) ∧
        pf 0x010 = .next { s with boot := { s.boot with qcbbase := w.toNat / 2 ^ 18 % 2 ^ 34 * 2 ^ 18 } } ∧
        (∃ n, pf 0x020 = .next n ∧ (∀ a, inVault a = false → n.mem.byte a = s.mem.byte a) ∧ n = { s with
          mem := n.mem
          ms := n.ms
          sched := { s.sched with vaultVi := n.sched.vaultVi, allotHeld := n.sched.allotHeld }
          boot := { s.boot with vallot := w.toNat / 2 ^ 13 % 2 ^ 39 * 2 ^ 13 } }) ∧
        (let cap := w.toNat % 2 ^ 20
          let fits := 4096 ≤ cap ∧ ∀ k, k < 4 → s.pwr.aw0.toNat / 2 ^ (16 * k) % 2 ^ 16 ≤ cap ∧ s.pwr.aw1.toNat / 2 ^ (16 * k) % 2 ^ 16 ≤ cap;
          (fits → pf 0x90008 = .next { s with pwr := { s.pwr with apcap := BitVec.ofNat 64 cap } }) ∧ (¬ fits → pf 0x90008 = .next s)) ∧
        pf 0x90010 = .next { s with pwr := { s.pwr with aw0 := w } } ∧ pf 0x90018 = .next { s with pwr := { s.pwr with aw1 := w } } ∧
        (let fits := ∀ k, k < 8 → w.toNat / 2 ^ (4 * k) % 16 ≤ 8;
          (fits → pf 0x90020 = .next { s with pwr := { s.pwr with shut0 := bitsOf w 0 32 } }) ∧ (¬ fits → pf 0x90020 = .next s)) ∧
        pf 0x90038 = .next { s with pwr := { s.pwr with govth := bitsOf w 0 20 } } ∧
        (w.getLsbD 31 = true ∨ (∀ r ∈ s.pod.reqs, r.forming = false) →
          pf 0x80000 = .next { s with pod := { s.pod with podctl := bitsOf w 0 10 + bitsOf w 31 32 } }) ∧
        (w.getLsbD 31 = false → (∀ r ∈ s.pod.reqs, r.forming = true → ∃ bs, r.kind = .write bs) → ∃ n, pf 0x80000 = .next n ∧ n.pod.podctl = bitsOf w 0 10 + bitsOf w 31 32 ∧
          n = { s with pod := n.pod, ms := n.ms, teams := n.teams, clusters := n.clusters } ∧
          (∀ r ∈ n.pod.reqs, r.forming = false) ∧ n.mem = s.mem) ∧
        pf 0x80008 = .next { s with pod := { s.pod with swtbase := w.toNat / 2 ^ 16 % 2 ^ 41 * 2 ^ 16 } } ∧
        (s.boot.mbcmd.getLsbD 63 = true → pf 0xA0000 = .next s) ∧
        (let code := w.toNat % 2 ^ 16
          let ended := fun (st : Nat) => ∃ n, pf 0xA0000 = .next n ∧ n.boot.mbstat = BitVec.ofNat 64 st ∧ n.boot.mbseq = s.boot.mbseq + 1 ∧
            n.boot.mbcmd.getLsbD 63 = false ∧ n.boot.msix = s.boot.msix ++ [(0, 3)] ∧ n = { s with boot := n.boot }
          let at_ := if code = 1 then s.boot.stage = 0 ∨ s.boot.stage = 0xFF else s.boot.stage = 5 ∧ (code = 0x11 ∨ code = 0x12 → s.boot.id = true)
          s.boot.mbcmd.getLsbD 63 = false → w.getLsbD 63 = true →
            (code ∉ [0x0001, 0x0010, 0x0011, 0x0012, 0x0020] → ended 1) ∧
            (code ∈ [0x0001, 0x0010, 0x0011, 0x0012, 0x0020] → (¬ at_ → ended 3) ∧
              (at_ → pf 0xA0000 = .next { s with boot := { s.boot with mbcmd := BitVec.ofNat 64 (code + 2 ^ 63), mbarg := s.boot.mbin } }))) ∧
        (∀ off, off + 8 ≤ 0x1000000 → (s.boot.stage.toNat = 5 ∨ s.boot.stage.toNat = 6 → exec (.registerWrite (.staging off) w) s = .next s) ∧
          (s.boot.stage.toNat < 5 → off % 8 = 0 → ∃ n, exec (.registerWrite (.staging off) w) s = .next n ∧ stored n ∧
            ∀ a, n.mem.byte a = withBytes s.mem.byte (if off < 0xC00000 then 0x10000000000 + off else 0x10001000000 + (off - 0xC00000))
              ((List.range 8).map (byteAt w.toNat)) a)))) ∧
    (let ran := fun (code : Nat) => s.boot.mbcmd = BitVec.ofNat 64 (2 ^ 63 + code)
      let arg := fun (off len : Nat) => (List.range len).map fun i => s.boot.mbarg.get (off + i)
      let num := fun (off len : Nat) => ofBytes (arg off len)
      let ended := fun (n : State) (st rlen : Nat) => n.boot.mbstat = BitVec.ofNat 64 (st + rlen * 2 ^ 32) ∧ n.boot.mbseq = s.boot.mbseq + 1 ∧
        n.boot.mbcmd.getLsbD 63 = false ∧ n.boot.msix = s.boot.msix ++ [(0, 3)]
      let usable := fun (pa n : Nat) => pa % 64 = 0 ∧ (pa + n ≤ hbm ∨ (2 ^ 51 ≤ pa ∧ pa + n ≤ 2 ^ 52));
      (ran 0x10 → let i := num 0 1;
        (4 ≤ i → i ≤ 7 → s.boot.meas.length = 8 → ∃ n, exec .mbExtend s = .next n ∧ ended n 0 0 ∧ n = { s with boot := n.boot } ∧
          n.boot.meas = setAt s.boot.meas i (shake 64 ((s.boot.meas.getD i []) ++ arg 64 64))) ∧
        (i < 4 ∨ 7 < i → ∃ n, exec .mbExtend s = .next n ∧ ended n 2 0 ∧ n = { s with boot := n.boot } ∧ n.boot.meas = s.boot.meas)) ∧
      (ran 0x11 → s.boot.meas.length = 8 → (∀ m ∈ s.boot.meas, m.length = 64) →
        let pa := num 32 8;
        (usable pa 50496 → ∃ n, exec .mbQuote s = .next n ∧ ended n 0 50496 ∧
          (∀ i k, i < 8 → k < 64 → n.mem.byte (pa + 64 * i + k) = (s.boot.meas.getD i []).getD k 0) ∧
          (∀ k, k < 32 → n.mem.byte (pa + 512 + k) = s.boot.ident.getD k 0 ∧ n.mem.byte (pa + 544 + k) = s.boot.mbarg.get k ∧
            n.mem.byte (pa + 576 + k) = s.boot.pkseed.getD k 0 ∧ n.mem.byte (pa + 608 + k) = s.boot.pkroot.getD k 0) ∧
          (let sig := Config.slhSign s.boot.skseed s.boot.skprf s.boot.pkseed (shake 64 (arg 0 32 ++ s.boot.meas.flatten ++ s.boot.ident))
            ∀ k, k < 49856 → n.mem.byte (pa + 640 + k) = sig.getD k 0) ∧
          ∀ a, a < pa ∨ pa + 50496 ≤ a → n.mem.byte a = s.mem.byte a) ∧
        (¬ usable pa 50496 → ∃ n, exec .mbQuote s = .next n ∧ ended n 4 0 ∧ n = { s with boot := n.boot })) ∧
      (ran 0x12 → let pa := num 32 8;
        (usable pa 96 → ∃ n, exec .mbIdkey s = .next n ∧ ended n 0 96 ∧
          (∀ k, k < 32 → n.mem.byte (pa + k) = s.boot.pkseed.getD k 0 ∧ n.mem.byte (pa + 32 + k) = s.boot.pkroot.getD k 0 ∧
            n.mem.byte (pa + 64 + k) = s.boot.ident.getD k 0) ∧ ∀ a, a < pa ∨ pa + 96 ≤ a → n.mem.byte a = s.mem.byte a) ∧
        (¬ usable pa 96 → ∃ n, exec .mbIdkey s = .next n ∧ ended n 4 0 ∧ n = { s with boot := n.boot })) ∧
      (ran 0x20 → ∃ n, exec .mbShutdown s = .next n ∧ ended n 0 0 ∧ n.boot.stage = 6 ∧ n.teams = [] ∧ n.sched.launches = [] ∧ n.ms.hostDirty = []) ∧
      (ran 0x01 → let len := num 0 8;
        (len < 29920 ∨ 2 ^ 23 < len → ∃ n, exec .mbLoad s = .next n ∧ ended n 2 0 ∧ n = { s with boot := n.boot } ∧ n.boot.stage = s.boot.stage) ∧
        (29920 ≤ len → len ≤ 2 ^ 23 →
          let img := s.staged 0 len
          let key := (img.drop 64).take 64
          let known := shake 32 key = fitTo 32 Config.romKeyHash
          let signed := imageForm img len = true ∧ Config.slhVerify key (img.take (len - 29792)) (img.drop (len - 29792)) = true
          let failed := fun (n : State) (e : Nat) => n.boot.stage = 0xFF ∧ n.boot.err = BitVec.ofNat 8 e ∧ ended n 5 0
          ∃ n, exec .mbLoad s = .next n ∧ (¬ known → failed n 1) ∧ (known → ¬ signed → failed n 2) ∧
            (known → signed → n.boot.meas.take 2 = [shake 64 Config.romImage, shake 64 img] ∧
              n.boot.id = (identityOf (s.staged 0x800000 4096)).isSome ∧ (failed n 5 ∨ (n.boot.stage = 5 ∧ ended n 0 0 ∧
                (n.boot.id = false → n.boot.err = 4 ∧ n.pwr.apcfg = State.reset.pwr.apcfg ∧ n.pwr.apcap = State.reset.pwr.apcap ∧
                  n.pwr.aw0 = State.reset.pwr.aw0 ∧ n.pwr.aw1 = State.reset.pwr.aw1 ∧ n.pwr.shut0 = State.reset.pwr.shut0 ∧
                  n.pwr.shut1 = State.reset.pwr.shut1 ∧ n.pwr.govctl = State.reset.pwr.govctl ∧ n.pwr.govth = State.reset.pwr.govth) ∧
                ∀ a, a < hbm ∨ (0x10000000000 ≤ a ∧ a < 0x10002000000) → n.mem.byte a = 0))))))

/-- R285, R286, R294 to R299: the loader's checks in their order, each with its status and nothing else changed; a load that
passes them adds the object under the next handle and answers 0; while an unload of the context waits, neither goes on. An
unload fails at once, waits for what refers to the text, or takes effect. A move first has the teams saved that point into the
old text, then gives the objects that share the text their new one, and the old text stays until its sweep and the teams of that
moment are over. A committed move has each parked team of the contexts rewritten by the first of the three cases that applies,
and each .got and .link entry and export cell that holds an old address takes its F; the sweep takes those once more. A load and
a move wait until guests may run. It rests on choices or readings of the model: logs 3, 49, 51, 52 and 53. -/
def Obligations.LoaderSteps : Prop :=
  ∀ (s : State), s.boot.guestsOpen = true →
    let answers := fun (st i : Nat) => { s with ldr := { s.ldr with results := s.ldr.results ++ [(st, i)] } };
    (∀ (req : LoadReq), s.unloadWaits req.asid s.ldr.next = true → ∀ n, exec (.objectLoad req) s ≠ .next n) ∧
    (∀ (req : LoadReq) (vi root : Nat), (s.writeTables req.tables).context req.asid = some (vi, root) → s.unloadWaits req.asid s.ldr.next = false →
      let s' := s.writeTables req.tables
      let img := req.image
      let ss := imgSections img
      let base := req.base.getD (leField img 8 8)
      let l : Layout3 := ⟨base + ((sect? ss 1).map (·.imoff)).getD 0, base, ss, parseSyms (contents img ss 7)⟩
      let relocs := parseRelocs (contents img ss 6)
      let formed := imageOk img [] = true ∧ leField img 6 2 / 2 % 2 = 0
      let accepted := leField img 4 1 = 1 ∧ (leField img 5 1 ≤ 3 ∨ leField img 6 2 % 2 = 1)
      let placed := base % 65536 = 0 ∧ s.rangeFree req.asid base (extent ss) = true
      let donor := s.donor req.asid vi img l relocs
      let filled := s.applyRelocs req.asid l l.syms relocs req.stub (fun r => !(donor.isSome && sharedKind r.sect)) relocs 0
        ((ss.filter fun x => loadedKind x.kind).map fun x => (x.kind, contents img ss x.kind))
      (¬ formed → exec (.objectLoad req) s = .next (answers 1 0)) ∧
      (formed → ¬ accepted → exec (.objectLoad req) s = .next (answers 2 0)) ∧
      (formed → accepted → ¬ placed → exec (.objectLoad req) s = .next (answers 3 0)) ∧
      (formed → accepted → placed →
        (∀ i, s.unresolved req.asid l l.syms relocs = some i → exec (.objectLoad req) s = .next (answers 4 i)) ∧
        (∀ i, s.unresolved req.asid l l.syms relocs = none → noCell l relocs = some i → exec (.objectLoad req) s = .next (answers 4 i)) ∧
        (s.unresolved req.asid l l.syms relocs = none → noCell l relocs = none →
          (∀ st i, filled = .error (st, i) → exec (.objectLoad req) s = .next (answers st i)) ∧
          (∀ f, filled = .ok f →
            (s'.roomFor req l relocs = false → exec (.objectLoad req) s = .next (answers 7 0)) ∧
            (s'.roomFor req l relocs = true → s.keepsPages s' = true → s'.pagesFor req l relocs donor.isSome = true → (∀ d, donor = some d → s'.samePlaces req.asid d.asid l = true) → ∃ n o, exec (.objectLoad req) s = .next n ∧ n.ldr.objects = s.ldr.objects ++ [o] ∧
              n.ldr.results = s.ldr.results ++ [(0, s.ldr.next.toNat)] ∧ n.ldr.next = s.ldr.next + 1 ∧
              o.handle = s.ldr.next ∧ o.asid = req.asid ∧ o.vi = vi ∧ o.base = base ∧ o.text = l.text ∧ o.sects = ss ∧ o.syms = l.syms ∧
              o.relocs = relocs ∧ o.image = img ∧ o.stub = req.stub ∧ o.unloading = false ∧ o.moved = [] ∧
              (∀ y ∈ l.syms, y.bind = 1 → ∃ c ∈ n.ldr.cells, c.asid = req.asid ∧ c.name = y.name) ∧
              n = { s with mem := n.mem, ms := n.ms, teams := n.teams, ldr := n.ldr } ∧
              ∀ k (t : Team), s.team? k = some t → ∃ u, n.team? k = some u ∧
                u = { t with eng := { t.eng with k := u.eng.k }, iss := { t.iss with ahead := u.iss.ahead } }))))) ∧
    (∀ (o : Object), s.ldr.objects.find? (fun p => p.asid == o.asid && p.handle == o.handle) = some o →
      let others := s.ldr.objects.filter fun p => p.handle != o.handle
      (s.unloadWaits o.asid o.handle = true → ∀ n, exec (.objectUnload o.asid o.handle) s ≠ .next n) ∧
      (s.unloadWaits o.asid o.handle = false → s.wordsThere o.asid = true →
      (s.heldByOthers o = true → exec (.objectUnload o.asid o.handle) s = .next s) ∧
      (s.heldByOthers o = false → s.referred o = true → exec (.objectUnload o.asid o.handle) s = .next { s with ldr := { s.ldr with
        objects := s.ldr.objects.map fun p => if p.handle = o.handle then { p with unloading := true } else p } }) ∧
      (s.heldByOthers o = false → s.referred o = false → ∃ n, exec (.objectUnload o.asid o.handle) s = .next n ∧
        n.ldr = { s.ldr with objects := others } ∧ n = { s with mem := n.mem, ms := n.ms, teams := n.teams, ldr := n.ldr }))) ∧
    (∀ (o : Object) (base : Nat), s.ldr.objects.find? (fun p => p.handle == o.handle) = some o → o.unloading = false →
      let new := base + ((sect? o.sects 1).map (·.imoff)).getD 0
      let filled := s.applyRelocs o.asid { o.layout with text := new } o.code.syms o.code.relocs o.stub (fun _ => true) o.code.relocs 0 [(1, o.code.bytes)]
      new % 4 = 0 → s.spillsReached (s.sharers o) = true → s.moveRoom s (s.sharers o) new o.textLen = true →
        (∀ st i, filled = .error (st, i) → exec (.textCompaction o.handle base []) s = .next (answers st i)) ∧
        (((s.sharers o).all fun p => s.wordsThere p.asid) = true → ((s.usersOf (s.sharers o)).all fun t => s.spillsThere (s.codeView t)) = true →
        (∀ f t, filled = .ok f → t ∈ s.teams → t.sched.life = .resident → t.sched.saveDue = none → (s.sharers o).any (·.asid == t.const.asid) = true →
          s.pointsInto t o.text o.textLen = true → ∃ n, exec (.textCompaction o.handle base []) s = .next n ∧ n = { s with teams := n.teams } ∧
            ((∀ v ∈ s.teams, s.team? v.id = some v) → n.team? t.id = some { t with sched := { t.sched with saveDue := some t.iss.issued } })) ∧
        (∀ f, filled = .ok f → s.inTheWay (s.sharers o) o.text o.textLen = [] → ∃ n, exec (.textCompaction o.handle base []) s = .next n ∧
          n = { s with mem := n.mem, ms := n.ms, teams := n.teams, ldr := n.ldr } ∧ n.ldr = { s.ldr with objects := n.ldr.objects } ∧
          ∃ waits, MoveDone s (s.sharers o) ⟨o.text, o.textLen, new, none, [], false⟩ (Sections.get f 1) o.asid o.vi n waits ∧
            n.ldr.objects = s.ldr.objects.map fun p => if (s.sharers o).any (·.handle == p.handle) then
            { p with text := new, moved := p.moved ++ [⟨o.text, o.textLen, new, none, waits, false⟩] } else p))) ∧
    (∀ (o : Object) (req : LoadReq), s.ldr.objects.find? (fun p => p.handle == o.handle && p.asid == req.asid) = some o → o.unloading = false →
      req.tables = [] →
      let img := req.image
      let ss := imgSections img
      let text := contents img ss 1
      let new := req.base.getD (leField img 8 8) + ((sect? ss 1).map (·.imoff)).getD 0
      let syms := parseSyms (contents img ss 7)
      let relocs := parseRelocs (contents img ss 6)
      let fwd := parseFwd (contents img ss 9)
      let l : Layout3 := { o.layout with text := new }
      let formed := imageOk img o.sects = true ∧ leField img 6 2 / 2 % 2 = 1 ∧ BitVec.ofNat 64 (leField img 48 8) = o.handle ∧
        ∀ x ∈ ss, x.kind ∈ [1, 6, 7, 8, 9]
      (¬ formed → exec (.retranslationSwap o.handle req) s = .next (answers 1 0)) ∧
      let accepted := leField img 4 1 = o.major ∧ leField img 5 1 ≤ 3
      let placed := new % 4 = 0 ∧ (req.base.getD (leField img 8 8)) % 65536 = 0 ∧ ∀ p ∈ s.sharers o, s.rangeFree p.asid new text.length = true
      let listed := fun (a : Nat) => (lookupKey a fwd).isSome = true
      let filled := s.applyRelocs o.asid l syms relocs o.stub (fun _ => true) relocs 0 [(1, text)]
      (formed → ¬ accepted → exec (.retranslationSwap o.handle req) s = .next (answers 2 0)) ∧
      (formed → accepted → ¬ placed → exec (.retranslationSwap o.handle req) s = .next (answers 3 0)) ∧
      (∀ i, formed → accepted → placed → s.unresolved o.asid l syms relocs = some i → exec (.retranslationSwap o.handle req) s = .next (answers 4 i)) ∧
      (∀ a ∈ s.needed o, formed → accepted → placed → s.unresolved o.asid l syms relocs = none → ¬ listed a → (∀ b ∈ s.needed o, b < a → listed b) →
        exec (.retranslationSwap o.handle req) s = .next (answers 6 a)) ∧
      (formed → accepted → placed → s.unresolved o.asid l syms relocs = none → (∀ a ∈ s.needed o, listed a) →
        (∀ st i, filled = .error (st, i) → exec (.retranslationSwap o.handle req) s = .next (answers st i)) ∧
        (∀ f, filled = .ok f → s.moveRoom s (s.sharers o) new text.length = false → exec (.retranslationSwap o.handle req) s = .next (answers 7 0)) ∧
        (∀ f, filled = .ok f → s.moveRoom s (s.sharers o) new text.length = true →
        ((s.sharers o).all fun p => s.wordsThere p.asid) = true → ((s.usersOf (s.sharers o)).all fun t => s.spillsThere (s.codeView t)) = true →
        s.inTheWay (s.sharers o) o.text o.textLen = [] → ∃ n, exec (.retranslationSwap o.handle req) s = .next n ∧
          n = { s with mem := n.mem, ms := n.ms, teams := n.teams, ldr := n.ldr } ∧
          n.ldr = { s.ldr with objects := n.ldr.objects, results := n.ldr.results } ∧
          ∃ waits, MoveDone s (s.sharers o) ⟨o.text, o.textLen, new, some fwd, [], false⟩ (Sections.get f 1) o.asid o.vi n waits ∧
          ∀ p ∈ s.ldr.objects, (s.sharers o).any (·.handle == p.handle) = true → ∃ q ∈ n.ldr.objects, q.handle = p.handle ∧ q.text = new ∧
            q.textLen = text.length ∧ q.code.bytes = text ∧ q.moved = p.moved ++ [⟨o.text, o.textLen, new, some fwd, waits, false⟩]))) ∧
    (∀ (o : Object) (m : OldText), s.ldr.objects.find? (fun p => p.handle == o.handle) = some o → o.moved.find? s.waitedFor = some m →
      (m.swept = true → exec (.loaderSweep o.handle) s = .next { s with ldr := { s.ldr with
        objects := s.ldr.objects.map fun p => if p.handle = o.handle then { p with moved := p.moved.erase m } else p } }) ∧
      (m.swept = false → s.wordsThere o.asid = true → ∃ n, exec (.loaderSweep o.handle) s = .next n ∧
        (∃ b, Along (Forwarded m) (linkWords s o.asid) s b ∧ n.mem = b.mem ∧ n.ms = b.ms ∧ n.teams = b.teams) ∧ n = { s with mem := n.mem, ms := n.ms, teams := n.teams, ldr := n.ldr } ∧
        n.ldr = { s.ldr with objects := s.ldr.objects.map fun p => if p.handle = o.handle then
          { p with moved := p.moved.map fun x => if x = m then
            { m with swept := true, waits := (s.teams.filter fun t => t.lives && t.const.vi == o.vi).map (·.id) } else x } else p }))
end

