-- ==== Sys2Proof/Laws/Issue.lean ====
section
/-! SUPPORT. The issue of an instruction: finding a team after its record has been replaced, what work sent to a unit
changes, and what moving on to the next instruction changes. -/

namespace Sys2Proof.Machine

/-! Teams by id. -/

theorem State.team?_id {s : State} {id : Nat} {t : Team} (h : s.team? id = some t) : t.id = id := by
  have := List.find?_some h
  simpa using this

theorem find?_map_set (ts : List Team) (id : Nat) (t : Team) (h : t.id ≠ id) :
    (ts.map fun u => if u.id == t.id then t else u).find? (·.id == id) = ts.find? (·.id == id) := by
  induction ts with
  | nil => rfl
  | cons u r ih =>
    simp only [List.map_cons, List.find?_cons]
    by_cases hu : u.id = t.id
    · simp only [hu, BEq.rfl, if_true, beq_eq_false_iff_ne.mpr h, ih]
    · simp only [beq_eq_false_iff_ne.mpr hu, Bool.false_eq_true, if_false, ih]

theorem find?_map_here (ts : List Team) (t : Team) {u : Team} (h : ts.find? (·.id == t.id) = some u) :
    (ts.map fun u => if u.id == t.id then t else u).find? (·.id == t.id) = some t := by
  induction ts with
  | nil => simp at h
  | cons v r ih =>
    simp only [List.map_cons, List.find?_cons] at *
    by_cases hv : v.id = t.id
    · simp [hv]
    · simp only [beq_eq_false_iff_ne.mpr hv, Bool.false_eq_true, if_false] at *
      exact ih h

/-- A team whose record has been replaced is found as the new record. -/
theorem State.team?_setTeam {s : State} {t u : Team} (h : s.team? t.id = some u) : (s.setTeam t).team? t.id = some t :=
  find?_map_here s.teams t h

/-- Every other team is found as before. -/
theorem State.team?_setTeam_other (s : State) {t : Team} {id : Nat} (h : id ≠ t.id) : (s.setTeam t).team? id = s.team? id :=
  find?_map_set s.teams id t (Ne.symm h)

@[simp] theorem State.setTeam_mem (s : State) (t : Team) : (s.setTeam t).mem = s.mem := rfl
@[simp] theorem State.setTeam_ms (s : State) (t : Team) : (s.setTeam t).ms = s.ms := rfl
@[simp] theorem State.setTeam_clusters (s : State) (t : Team) : (s.setTeam t).clusters = s.clusters := rfl
@[simp] theorem State.setTeam_pod (s : State) (t : Team) : (s.setTeam t).pod = s.pod := rfl
@[simp] theorem State.setTeam_sched (s : State) (t : Team) : (s.setTeam t).sched = s.sched := rfl
@[simp] theorem State.setTeam_slots (s : State) (t : Team) : (s.setTeam t).slots = s.slots := rfl
@[simp] theorem State.setTeam_vis (s : State) (t : Team) : (s.setTeam t).vis = s.vis := rfl
@[simp] theorem State.setTeam_prq (s : State) (t : Team) : (s.setTeam t).prq = s.prq := rfl
@[simp] theorem State.setTeam_pwr (s : State) (t : Team) : (s.setTeam t).pwr = s.pwr := rfl
@[simp] theorem State.setTeam_boot (s : State) (t : Team) : (s.setTeam t).boot = s.boot := rfl
@[simp] theorem State.setTeam_ldr (s : State) (t : Team) : (s.setTeam t).ldr = s.ldr := rfl

/-! Contexts. -/

/-- What a context is: the next slot names a running fragment of a resident team. -/
theorem State.ctx?_some {s : State} {c : Ctx} (h : s.ctx? = some c) :
    ∃ rest, s.slots = (c.t.id, c.fi) :: rest ∧ c.s = { s with slots := rest } ∧ s.team? c.t.id = some c.t ∧
      c.t.sched.life = .resident ∧ c.f.st = .running := by
  unfold State.ctx? at h
  split at h
  · simp at h
  · next id fi rest hs =>
    split at h
    · simp at h
    · next t ht =>
      split at h
      · next hl =>
        cases h
        have := State.team?_id ht
        subst this
        exact ⟨rest, hs, rfl, ht, hl.1, hl.2⟩
      · simp at h

theorem Ctx.team_here {s : State} {c : Ctx} (h : s.ctx? = some c) : c.s.team? c.t.id = some c.t := by
  obtain ⟨rest, -, hc, ht, -⟩ := State.ctx?_some h
  rw [hc]
  exact ht

/-! Units. -/

/-- Work on a core changes only the clusters. -/
theorem State.setCore_clusters (s : State) (cl k : Nat) (x : Core) : ∃ cs, s.setCore cl k x = { s with clusters := cs } := by
  unfold State.setCore
  split
  · exact ⟨_, rfl⟩
  · exact ⟨s.clusters, rfl⟩

theorem State.setUnit_clusters (s : State) (t : Team) (u : CoreUnit) (x : UnitPower) :
    ∃ cs, s.setUnit t u x = { s with clusters := cs } := by
  unfold State.setUnit
  split
  · exact ⟨s.clusters, rfl⟩
  · exact State.setCore_clusters ..

theorem State.occupy_clusters (s : State) (t : Team) (u : CoreUnit) (wake n : Nat) :
    ∃ cs, s.occupy t u wake n = { s with clusters := cs } := by
  unfold State.occupy
  split
  · exact ⟨s.clusters, rfl⟩
  · split
    · exact State.setCore_clusters ..
    · exact ⟨s.clusters, rfl⟩

/-- Work sent to a unit changes only the clusters. -/
theorem State.useUnit_clusters (s : State) (t : Team) (u : CoreUnit) (n : Nat) :
    ∃ cs, (s.useUnit t u n).1 = { s with clusters := cs } := by
  have step : ∀ x wake, ∃ cs, (s.setUnit t u x).occupy t u wake n = { s with clusters := cs } := by
    intro x wake
    obtain ⟨cs, h⟩ := s.setUnit_clusters t u x
    obtain ⟨cs', h'⟩ := (s.setUnit t u x).occupy_clusters t u wake n
    exact ⟨cs', by rw [h', h]⟩
  unfold State.useUnit
  simp only
  split
  · exact step _ _
  · exact step _ _
  · exact step _ _

/-! Going on. -/

@[simp] theorem State.markBusy_iss (s : State) (t : Team) (os : List Operand) (lane : Bool) (n : Nat) :
    ∃ b, s.markBusy t os lane n = { t with iss.busy := b } := ⟨_, rfl⟩

/-- Marking results changes clusters and the list of results that are not ready. -/
theorem Effect.marked_next (os : List Operand) (time : Time) (c : Ctx) (s : State) (t : Team) :
    ∃ cs b, (Effect.next s t).marked os time c = .next { s with clusters := cs } { t with iss.busy := b } := by
  unfold Effect.marked
  split
  · next s' t' h =>
    cases h
    split
    · next n =>
      split
      · exact ⟨s.clusters, t.iss.busy, rfl⟩
      · exact ⟨s.clusters, _, rfl⟩
    · next u p n =>
      obtain ⟨cs, h⟩ := s.useUnit_clusters t u (p * passes t.const.h c.f.mask)
      simp only
      exact ⟨cs, _, by rw [h]; rfl⟩
  · next h => exact absurd rfl (h s t)

/-- The state after an instruction that goes on. -/
theorem Ctx.after_eq (c : Ctx) (i : Instr) (time : Time) (s' : State) (t' : Team) :
    ∃ cs b, c.after i time s' t' = State.setTeam { s' with clusters := cs } (Team.fallThrough { t' with iss.busy := b } c.fi) := by
  obtain ⟨cs, b, h⟩ := Effect.marked_next (Instr.operands c.t i) time c s' t'
  exact ⟨cs, b, by rw [Ctx.after, h]; rfl⟩

/-- An instruction that can issue has the effect of its meaning. -/
theorem State.issue_ready {s : State} {c : Ctx} {i : Instr} (h : Ready s c i) (time : Time) (body : Ctx → Effect) :
    s.issue i time body = .next (((body c).marked (Instr.operands c.t i) time c).finish c.s c.t c.fi ((encode i).getD 0)) := by
  obtain ⟨h1, h2, h3, h4⟩ := h
  simp only [State.issue, h1, h2, h3, h4, Bool.not_true, Bool.false_eq_true, if_false, Bool.or_self]

/-- The same for a meaning that goes on. -/
theorem State.issue_next {s : State} {c : Ctx} {i : Instr} (h : Ready s c i) (time : Time) (body : Ctx → Effect)
    {s' : State} {t' : Team} (hb : body c = .next s' t') : s.issue i time body = .next (c.after i time s' t') := by
  rw [State.issue_ready h, hb]
  rfl

/-- With no fragment in the next slot an encoded instruction has no meaning. -/
theorem State.issue_none {s : State} (h : s.ctx? = none) (i : Instr) (time : Time) (body : Ctx → Effect) :
    s.issue i time body = .refused .noIssuingFragment := by
  simp only [State.issue, h]

end Sys2Proof.Machine
end

