-- ==== Sys2Proof/Laws/Sparse.lean ====
section
/-! SUPPORT. Sparse stores and memory: a read after a write, and the canonical form that every operation keeps. -/

namespace Sys2Proof

variable {w : Nat}

/-! Reading after writing. -/

/-- What a read of a key above those dropped sees. -/
theorem Sparse.get_above (s : Sparse w) {a b : Nat} (h : a < b) : (Sparse.above a s).get b = s.get b := by
  induction s with
  | nil => rfl
  | cons y r ih =>
    obtain ⟨k, v⟩ := y
    simp only [Sparse.above]
    split
    · next hk => rw [ih, Sparse.get, if_neg (by omega), if_neg (by omega)]
    · rfl

/-- A read of a key up to the one dropped sees nothing. -/
theorem Sparse.get_above_low (s : Sparse w) {a b : Nat} (h : b ≤ a) : (Sparse.above a s).get b = Sparse.absent w := by
  induction s with
  | nil => rfl
  | cons y r ih =>
    obtain ⟨k, v⟩ := y
    simp only [Sparse.above]
    split
    · exact ih
    · rw [Sparse.get, if_pos (by omega)]

/-- A read after a write. -/
theorem Sparse.get_set (s : Sparse w) (a b : Nat) (x : BitVec w) : (s.set a x).get b = if b = a then x else s.get b := by
  induction s with
  | nil =>
    simp only [Sparse.set]
    split
    · next hx => subst hx; split <;> rfl
    · simp only [Sparse.get]
      repeat' split
      all_goals first | rfl | omega
  | cons y r ih =>
    obtain ⟨k, v⟩ := y
    simp only [Sparse.set]
    split
    · next hak =>
      split
      · next hx =>
        subst hx
        simp only [Sparse.get]
        repeat' split
        all_goals first | rfl | omega
      · simp only [Sparse.get]
        repeat' split
        all_goals first | rfl | omega
    · split
      · next hak =>
        subst hak
        split
        · next hx =>
          subst hx
          rcases Nat.lt_trichotomy b a with hb | hb | hb
          · rw [Sparse.get_above_low _ (by omega), if_neg (by omega), Sparse.get, if_pos hb]
          · rw [Sparse.get_above_low _ (by omega), if_pos hb]
          · rw [Sparse.get_above _ hb, if_neg (by omega), Sparse.get, if_neg (by omega), if_neg (by omega)]
        · simp only [Sparse.get]
          repeat' split
          all_goals first | rfl | omega
      · simp only [Sparse.get, ih]
        repeat' split
        all_goals first | rfl | omega

@[simp] theorem Sparse.get_set_same (s : Sparse w) (a : Nat) (x : BitVec w) : (s.set a x).get a = x := by
  rw [Sparse.get_set, if_pos rfl]

theorem Sparse.get_set_other (s : Sparse w) {a b : Nat} (x : BitVec w) (h : b ≠ a) : (s.set a x).get b = s.get b := by
  rw [Sparse.get_set, if_neg h]

/-- Writing several keys leaves the others. -/
theorem Sparse.get_setAll_other (xs : List (Nat × BitVec w)) (s : Sparse w) (b : Nat) (h : ∀ x ∈ xs, x.1 ≠ b) :
    (s.setAll xs).get b = s.get b := by
  induction xs generalizing s with
  | nil => rfl
  | cons x r ih =>
    obtain ⟨a, v⟩ := x
    rw [Sparse.setAll, ih _ fun y hy => h y (List.mem_cons_of_mem _ hy),
      Sparse.get_set_other _ _ (Ne.symm (h (a, v) List.mem_cons_self))]

/-- Writing from a key up leaves the keys outside. -/
theorem Sparse.get_put_other (xs : List (BitVec w)) (s : Sparse w) (a b : Nat) (h : b < a ∨ a + xs.length ≤ b) :
    (s.put a xs).get b = s.get b := by
  induction xs generalizing s a with
  | nil => rfl
  | cons x r ih =>
    simp only [List.length_cons] at h
    rw [Sparse.put, ih _ _ (by omega), Sparse.get_set_other _ _ (by omega)]

/-- Reading a key inside what was written. -/
theorem Sparse.get_put_in (xs : List (BitVec w)) (s : Sparse w) (a i : Nat) (h : i < xs.length) :
    (s.put a xs).get (a + i) = xs[i] := by
  induction xs generalizing s a i with
  | nil => simp at h
  | cons x r ih =>
    rw [Sparse.put]
    cases i with
    | zero =>
      show ((s.set a x).put (a + 1) r).get a = x
      rw [Sparse.get_put_other _ _ _ _ (by omega), Sparse.get_set_same]
    | succ i =>
      have hi : i < r.length := by simpa using h
      rw [show a + (i + 1) = a + 1 + i by omega, ih _ _ _ hi]
      rfl

@[simp] theorem Sparse.get_nil (a : Nat) : Sparse.get ([] : Sparse w) a = Sparse.absent w := rfl

/-! The canonical form. -/

theorem Sparse.wfFrom_mono {s : Sparse w} {lo hi : Nat} (h : s.wfFrom hi = true) (hle : lo ≤ hi) : s.wfFrom lo = true := by
  cases s with
  | nil => rfl
  | cons x r =>
    simp only [Sparse.wfFrom, Bool.and_eq_true, decide_eq_true_eq] at h ⊢
    exact ⟨⟨by omega, h.1.2⟩, h.2⟩

theorem Sparse.above_wf {s : Sparse w} {a lo : Nat} (h : s.wfFrom lo = true) : (Sparse.above a s).wfFrom (max lo (a + 1)) = true := by
  induction s generalizing lo with
  | nil => rfl
  | cons y r ih =>
    obtain ⟨k, v⟩ := y
    simp only [Sparse.wfFrom, Bool.and_eq_true, decide_eq_true_eq] at h
    simp only [Sparse.above]
    split
    · exact Sparse.wfFrom_mono (ih h.2) (by omega)
    · simp only [Sparse.wfFrom, Bool.and_eq_true, decide_eq_true_eq]
      exact ⟨⟨by omega, h.1.2⟩, h.2⟩

theorem Sparse.set_wfFrom {s : Sparse w} {lo a : Nat} (x : BitVec w) (h : s.wfFrom lo = true) (ha : lo ≤ a) :
    (s.set a x).wfFrom lo = true := by
  induction s generalizing lo with
  | nil =>
    simp only [Sparse.set]
    split
    · rfl
    · next hx =>
      simp only [Sparse.wfFrom, Bool.and_eq_true, decide_eq_true_eq]
      exact ⟨⟨ha, by simpa using hx⟩, trivial⟩
  | cons y r ih =>
    obtain ⟨k, v⟩ := y
    have h' := h
    simp only [Sparse.wfFrom, Bool.and_eq_true, decide_eq_true_eq] at h
    simp only [Sparse.set]
    split
    · split
      · exact h'
      · next hx =>
        simp only [Sparse.wfFrom, Bool.and_eq_true, decide_eq_true_eq]
        exact ⟨⟨ha, by simpa using hx⟩, ⟨by omega, h.1.2⟩, h.2⟩
    · split
      · next hak =>
        subst hak
        split
        · exact Sparse.wfFrom_mono (Sparse.above_wf h.2) (by omega)
        · next hx =>
          simp only [Sparse.wfFrom, Bool.and_eq_true, decide_eq_true_eq]
          exact ⟨⟨ha, by simpa using hx⟩, h.2⟩
      · simp only [Sparse.wfFrom, Bool.and_eq_true, decide_eq_true_eq]
        exact ⟨h.1, ih h.2 (by omega)⟩

theorem Sparse.set_wf {s : Sparse w} (h : s.wf = true) (a : Nat) (x : BitVec w) : (s.set a x).wf = true :=
  Sparse.set_wfFrom x h (Nat.zero_le a)

theorem Sparse.setAll_wf (xs : List (Nat × BitVec w)) {s : Sparse w} (h : s.wf = true) : (s.setAll xs).wf = true := by
  induction xs generalizing s with
  | nil => exact h
  | cons x r ih => exact ih (Sparse.set_wf h x.1 x.2)

theorem Sparse.put_wf (xs : List (BitVec w)) {s : Sparse w} (h : s.wf = true) (a : Nat) : (s.put a xs).wf = true := by
  induction xs generalizing s a with
  | nil => exact h
  | cons x r ih => exact ih (Sparse.set_wf h a x) (a + 1)

theorem Sparse.filter_wfFrom {s : Sparse w} {lo : Nat} (p : Nat × BitVec w → Bool) (h : s.wfFrom lo = true) :
    Sparse.wfFrom lo (List.filter p s) = true := by
  induction s generalizing lo with
  | nil => rfl
  | cons y r ih =>
    obtain ⟨k, v⟩ := y
    simp only [Sparse.wfFrom, Bool.and_eq_true, decide_eq_true_eq] at h
    rw [List.filter_cons]
    split
    · simp only [Sparse.wfFrom, Bool.and_eq_true, decide_eq_true_eq]
      exact ⟨h.1, ih h.2⟩
    · exact Sparse.wfFrom_mono (ih h.2) (by omega)

/-! Memory. -/

namespace Machine

/-- A byte after bytes have been written from an address up. -/
theorem Memory.byte_write_other (m : Memory) (bs : List Byte) (pa x : Nat) (h : x < pa ∨ pa + bs.length ≤ x) :
    (m.write pa bs).byte x = m.byte x := Sparse.get_put_other bs m pa x h

theorem Memory.byte_write_in (m : Memory) (bs : List Byte) (pa i : Nat) (h : i < bs.length) :
    (m.write pa bs).byte (pa + i) = bs[i] := Sparse.get_put_in bs m pa i h

theorem Memory.byte_writeBytes_other (m : Memory) (bs : List (Nat × Byte)) (x : Nat) (h : ∀ b ∈ bs, b.1 ≠ x) :
    (m.writeBytes bs).byte x = m.byte x := Sparse.get_setAll_other bs m x h

/-- Every operation over memory keeps its canonical form. -/
theorem Memory.write_wf {m : Memory} (h : m.wf = true) (pa : Nat) (bs : List Byte) : (m.write pa bs).wf = true :=
  Sparse.put_wf bs h pa

theorem Memory.writeBytes_wf {m : Memory} (h : m.wf = true) (bs : List (Nat × Byte)) : (m.writeBytes bs).wf = true :=
  Sparse.setAll_wf bs h

theorem Memory.filter_wf {m : Memory} (h : m.wf = true) (p : Host.Cell → Bool) : Memory.wf (m.filter p) = true :=
  Sparse.filter_wfFrom p h

theorem Memory.park_wf {m : Memory} (h : m.wf = true) (at_ : Nat) (cells : List (Nat × Byte)) : (m.park at_ cells).wf = true :=
  Memory.writeBytes_wf (Memory.filter_wf h _) _

theorem Memory.copy_wf {m : Memory} (h : m.wf = true) (src dst n : Nat) : (m.copy src dst n).wf = true :=
  Memory.writeBytes_wf (Memory.filter_wf h _) _

end Machine

end Sys2Proof
end

