-- ==== Sys2Proof/Laws/Going.lean ====
section
/-! SUPPORT. Moving past an instruction: the loop stack, the PC, and fusing. -/

namespace Sys2Proof.Machine

/-! Lists with one element replaced. -/

/-- The model's replacement is the library's. -/
theorem setAt_eq_set {α : Type} (xs : List α) (i : Nat) (x : α) : setAt xs i x = xs.set i x := by
  fun_induction setAt xs i x <;> simp_all

theorem getD_setAt_other {α : Type} (xs : List α) (i k : Nat) (x d : α) (h : k ≠ i) : (setAt xs i x).getD k d = xs.getD k d := by
  simp [setAt_eq_set, List.getElem?_set_ne h.symm]

theorem getD_setAt_same {α : Type} (xs : List α) (i : Nat) (x d : α) (h : i < xs.length) : (setAt xs i x).getD i d = x := by
  simp [setAt_eq_set, h]

@[simp] theorem length_setAt {α : Type} (xs : List α) (i : Nat) (x : α) : (setAt xs i x).length = xs.length := by
  simp [setAt_eq_set]

/-- A fragment that runs is one of the split table. -/
theorem Team.frag_lt {t : Team} {i : Nat} (h : (t.frag i).st = .running) : i < t.ctl.frags.length := by
  by_contra hc
  have : t.frag i = freeFrag := by
    simp only [Team.frag, List.getD]
    rw [List.getElem?_eq_none (by omega)]
    rfl
  rw [this] at h
  exact absurd h (by decide)

theorem Team.frag_setFrag {t : Team} {i : Nat} (f : Frag) (h : i < t.ctl.frags.length) : (t.setFrag i f).frag i = f :=
  getD_setAt_same _ _ _ _ h

theorem Team.frag_setFrag_other (t : Team) {i k : Nat} (f : Frag) (h : k ≠ i) : (t.setFrag i f).frag k = t.frag k :=
  getD_setAt_other _ _ _ _ _ h

/-! The loop stack. -/

/-- Advancing a PC changes only the loop stack. -/
theorem Team.advancePc_loop (n : Nat) (t : Team) (pc : DWord) : ∃ l, (t.advancePc n pc).1 = { t with ctl.loop := l } := by
  induction n generalizing t with
  | zero => exact ⟨t.ctl.loop, rfl⟩
  | succ n ih =>
    unfold Team.advancePc
    repeat' split
    all_goals first
      | exact ⟨_, rfl⟩
      | (obtain ⟨l, h⟩ := ih { t with ctl.loop := _ } ; exact ⟨l, by rw [h]⟩)

/-! Fusing. -/

/-- A fragment that has not come to its fuse address runs on. -/
theorem Team.settle_running (n : Nat) (t : Team) (i : Nat) (h : ¬ t.Arrives i (t.frag i).pc) : t.settle n i = t := by
  cases n with
  | zero => rfl
  | succ n =>
    unfold Team.settle
    simp only
    split
    · next id d r hst hp =>
      split
      · next hf => exact absurd ⟨by rw [hp]; simp, hf⟩ h
      · rfl
    · rfl

/-- Moving past an instruction, where the fragment does not come to its fuse address. -/
theorem Team.fallThrough_eq {t : Team} {fi : Nat} (hr : (t.frag fi).st = .running) (h : ¬ t.Arrives fi (t.nextPc fi)) :
    ∃ l, t.fallThrough fi =
      ({ t with ctl.loop := l }.setFrag fi { t.frag fi with pc := t.nextPc fi, replay := false }).countIssue := by
  obtain ⟨l, hl⟩ := t.advancePc_loop 5 (t.frag fi).pc
  refine ⟨l, ?_⟩
  have hlt : fi < ({ t with ctl.loop := l } : Team).ctl.frags.length := Team.frag_lt hr
  have hf := Team.frag_setFrag (t := { t with ctl.loop := l }) { t.frag fi with pc := t.nextPc fi, replay := false } hlt
  have step : t.fallThrough fi = ((({ t with ctl.loop := l } : Team).setFrag fi
      { t.frag fi with pc := t.nextPc fi, replay := false }).countIssue).settle 9 fi := by
    unfold Team.fallThrough
    simp only
    rw [hl]
    rfl
  rw [step, Team.settle_running]
  intro ha
  apply h
  have e : ((({ t with ctl.loop := l } : Team).setFrag fi { t.frag fi with pc := t.nextPc fi, replay := false }).countIssue).frag fi =
      { t.frag fi with pc := t.nextPc fi, replay := false } := hf
  unfold Team.Arrives at ha ⊢
  rw [e] at ha
  exact ha

/-- The PC that follows depends on the control state and the trap mode alone. -/
theorem Team.advancePc_congr (n : Nat) {t u : Team} (hc : u.ctl = t.ctl) (hm : u.tm = t.tm) (pc : DWord) :
    (u.advancePc n pc).2 = (t.advancePc n pc).2 := by
  induction n generalizing t u with
  | zero => rfl
  | succ n ih =>
    have hs : u.split = t.split := by unfold Team.split Team.liveCount; rw [hc]
    have hd : u.linkDepth = t.linkDepth := by simp only [Team.linkDepth, hc]
    unfold Team.advancePc
    rw [hc, hm, hs]
    simp only [hd]
    split
    · split
      · split
        · rfl
        · split
          · rfl
          · split
            · split
              · exact ih rfl hm
              · rfl
            · rfl
      · rfl
    · rfl

theorem Team.nextPc_congr {t u : Team} (hc : u.ctl = t.ctl) (hm : u.tm = t.tm) (fi : Nat) : u.nextPc fi = t.nextPc fi := by
  have hf : u.frag fi = t.frag fi := by simp only [Team.frag, hc]
  simp only [Team.nextPc, hf, Team.advancePc_congr 5 hc hm]

/-- Moving past an instruction changes what `MovedOn` says. -/
theorem Team.fallThrough_movedOn {t : Team} {fi : Nat} (b : List Busy) (hr : (t.frag fi).st = .running)
    (h : ¬ t.Arrives fi (t.nextPc fi)) : MovedOn t fi (Team.fallThrough { t with iss.busy := b } fi) := by
  have hlt := Team.frag_lt hr
  generalize hu : ({ t with iss.busy := b } : Team) = u
  have hn : u.nextPc fi = t.nextPc fi := Team.nextPc_congr (by rw [← hu]) (by rw [← hu]; rfl) fi
  have hf : u.frag fi = t.frag fi := by rw [← hu]; rfl
  have hx : ¬ u.Arrives fi (u.nextPc fi) := by rw [hn, ← hu]; exact h
  obtain ⟨l, e⟩ := Team.fallThrough_eq (by rw [hf]; exact hr) hx
  rw [e, hn, hf, ← hu]
  exact ⟨rfl, rfl, rfl, rfl, rfl, rfl, rfl, rfl, rfl, fun k hk => getD_setAt_other _ _ _ _ _ hk, getD_setAt_same _ _ _ _ hlt,
    rfl, rfl, rfl⟩

/-! Going on, as Safety.lean says it. -/

/-- Only the clusters and one team have changed. -/
theorem SameBut.setTeam {s' : State} {cs : List Cluster} (u : Team) : SameBut u.id s' (State.setTeam { s' with clusters := cs } u) :=
  ⟨fun _ hk => State.team?_setTeam_other _ hk, rfl⟩

/-- After an instruction that goes on, where the fragment does not come to its fuse address. -/
theorem Ctx.after_movedOn (c : Ctx) (i : Instr) (time : Time) {s' : State} {t' x : Team} (hs : s'.team? t'.id = some x)
    (hr : (t'.frag c.fi).st = .running) (ha : ¬ t'.Arrives c.fi (t'.nextPc c.fi)) :
    ∃ u, (c.after i time s' t').team? t'.id = some u ∧ MovedOn t' c.fi u ∧ SameBut t'.id s' (c.after i time s' t') ∧
      (c.after i time s' t').mem = s'.mem := by
  obtain ⟨cs, b, e⟩ := c.after_eq i time s' t'
  have m := Team.fallThrough_movedOn b hr ha
  generalize Team.fallThrough { t' with iss.busy := b } c.fi = u at e m
  have hi : u.id = t'.id := m.id
  rw [e]
  refine ⟨u, ?_, m, ?_, rfl⟩
  · rw [← hi]; exact State.team?_setTeam (u := x) (by rw [hi]; exact hs)
  · rw [← hi]; exact SameBut.setTeam _

/-- The same for an effect on registers, flags and the bypass alone. -/
theorem Ctx.after_onward {s : State} {c : Ctx} (h : s.ctx? = some c) (i : Instr) (time : Time) {t' : Team}
    (ht : t' = { c.t with regs := t'.regs, sys := t'.sys, iss.bypass := t'.iss.bypass }) (htm : t'.tm = c.t.tm)
    (ha : ¬ c.t.Arrives c.fi (c.t.nextPc c.fi)) :
    ∃ u, Onward c (c.after i time c.s t') u ∧ u.regs = t'.regs ∧ u.sys = t'.sys ∧ u.iss.bypass = t'.iss.bypass := by
  obtain ⟨_, -, -, -, -, hrun⟩ := State.ctx?_some h
  have hid : t'.id = c.t.id := by rw [ht]
  have hc : t'.ctl = c.t.ctl := by rw [ht]
  have hf : ∀ k, t'.frag k = c.t.frag k := fun k => by simp only [Team.frag, hc]
  have hn : t'.nextPc c.fi = c.t.nextPc c.fi := Team.nextPc_congr hc htm _
  obtain ⟨u, h1, m, h2, h3⟩ := c.after_movedOn i time (s' := c.s) (t' := t') (by rw [hid]; exact Ctx.team_here h)
    (by rw [hf]; exact hrun) (by rw [hn]; unfold Team.Arrives at *; rw [hf, hc]; exact ha)
  have hb : u.iss.bypass = t'.iss.bypass := by rw [m.iss]
  refine ⟨u, ⟨hid ▸ h1, m.const.trans (by rw [ht]), m.sched.trans (by rw [ht]), m.rep.trans (by rw [ht]), m.eng.trans (by rw [ht]),
    m.maps.trans (by rw [ht]), ?_, ?_, ?_, ?_, ?_, hid ▸ h2, fun a => by rw [h3]⟩, m.regs, m.sys, hb⟩
  · have := m.ctl; rw [hc] at this; exact this
  · rw [m.frag, hf, hn]
  · intro k hk; rw [m.others k hk, hf]
  · rw [m.counted, ht]
  · have e := m.iss
    have e' : t'.iss = { c.t.iss with bypass := t'.iss.bypass } := by rw [ht]
    rw [← hb] at e'
    rw [e'] at e
    exact e

/-- A scalar result changes what `ScalarOnly` says. -/
theorem Ctx.setS_only {s : State} {c : Ctx} (h : s.ctx? = some c) (i : Instr) (time : Time) (d : Nat) (x : DWord)
    (ha : ¬ c.t.Arrives c.fi (c.t.nextPc c.fi)) : ScalarOnly c d x (c.after i time c.s (c.t.writeS d x)) := by
  have hw : c.t.writeS d x = { c.t with regs.s := (c.t.writeS d x).regs.s } := by unfold Team.writeS; split <;> rfl
  have hr : (c.t.writeS d x).regs = { c.t.regs with s := (c.t.writeS d x).regs.s } := by rw [hw]
  have hy : (c.t.writeS d x).sys = c.t.sys := by rw [hw]
  have hb : (c.t.writeS d x).iss = c.t.iss := by rw [hw]
  obtain ⟨u, h1, h2, h3, h4⟩ := Ctx.after_onward h i time (t' := c.t.writeS d x) (by rw [hy, hb, hr]; exact hw) (by unfold Team.tm; rw [hy]) ha
  refine ⟨u, h1, ?_, ?_, ?_, ?_, ?_⟩
  · unfold Team.readS; rw [h2]
    split
    · rfl
    · next hd => simp [Team.writeS, hd]
  · intro k hk
    unfold Team.readS; rw [h2]
    split
    · rfl
    · unfold Team.writeS; split
      · rfl
      · simp only; rw [Sparse.get_set]; simp [hk]
  · unfold SameLanes; rw [h2, hr]; exact ⟨rfl, rfl, rfl, rfl, rfl, rfl, rfl, rfl, rfl⟩
  · exact h3.trans hy
  · rw [h4, hb]

end Sys2Proof.Machine
end

