-- ==== Sys2Proof/Laws/PerInstr.lean ====
section
/-! SUPPORT. Decoding the word of an instruction gives the instruction: one lemma for each constructor, from the
fields of each format. -/

namespace Sys2Proof



/-! Fields of a word put together. -/

theorem extract_all {w : Nat} (x : BitVec w) : x.extractLsb' 0 w = x := by simp

theorem extract_lo {v w : Nat} (x : BitVec v) (y : BitVec w) (lo n : Nat) (h : lo + n ≤ w) :
    (x ++ y).extractLsb' lo n = y.extractLsb' lo n := by
  apply BitVec.eq_of_getLsbD_eq
  intro i hi
  simp [BitVec.getLsbD_append, hi]
  omega

theorem extract_hi {v w : Nat} (x : BitVec v) (y : BitVec w) (lo n : Nat) (h : w ≤ lo) :
    (x ++ y).extractLsb' lo n = x.extractLsb' (lo - w) n := by
  apply BitVec.eq_of_getLsbD_eq
  intro i hi
  have e : lo + i - w = lo - w + i := by omega
  simp [BitVec.getLsbD_append, hi, e]
  omega

/-- A part of a field. -/
theorem extract_part {v lo n : Nat} {w : BitVec v} {x : BitVec n} (h : w.extractLsb' lo n = x) (k m : Nat) (hk : k + m ≤ n) :
    w.extractLsb' (lo + k) m = x.extractLsb' k m := by
  subst h
  apply BitVec.eq_of_getLsbD_eq
  intro i hi
  have : k + i < n := by omega
  simp [hi, this, Nat.add_assoc]

/-- Two fields of zeros side by side. -/
theorem extract_zeros {v lo n m : Nat} {w : BitVec v} (h : w.extractLsb' lo n = 0) (g : w.extractLsb' (lo + n) m = 0) :
    w.extractLsb' lo (n + m) = 0 := by
  apply BitVec.eq_of_getLsbD_eq
  intro i hi
  by_cases hn : i < n
  · have := congrArg (fun x => x.getLsbD i) h
    simpa [hn, hi] using this
  · have := congrArg (fun x => x.getLsbD (i - n)) g
    have e : lo + n + (i - n) = lo + i := by omega
    have l : i - n < m := by omega
    simpa [l, hi, e] using this

/-- A bit of a field. -/
theorem extract_bit {v lo n : Nat} {w : BitVec v} {x : BitVec n} (h : w.extractLsb' lo n = x) (k : Nat) (hk : k < n) :
    w.getLsbD (lo + k) = x.getLsbD k := by
  subst h
  simp [hk]

theorem fmtRR_op (op : BitVec 6) (d a b : BitVec 7) (f : BitVec 5) :
    (fmtRR op d a b f).extractLsb' 26 6 = op :=
  (extract_hi (op ++ d ++ a ++ b) f 26 6 (by decide)).trans ((extract_hi (op ++ d ++ a) b 21 6 (by decide)).trans ((extract_hi (op ++ d) a 14 6 (by decide)).trans ((extract_hi (op) d 7 6 (by decide)).trans ((extract_all op)))))
theorem fmtRR_d (op : BitVec 6) (d a b : BitVec 7) (f : BitVec 5) :
    (fmtRR op d a b f).extractLsb' 19 7 = d :=
  (extract_hi (op ++ d ++ a ++ b) f 19 7 (by decide)).trans ((extract_hi (op ++ d ++ a) b 14 7 (by decide)).trans ((extract_hi (op ++ d) a 7 7 (by decide)).trans ((extract_lo (op) d 0 7 (by decide)).trans ((extract_all d)))))
theorem fmtRR_a (op : BitVec 6) (d a b : BitVec 7) (f : BitVec 5) :
    (fmtRR op d a b f).extractLsb' 12 7 = a :=
  (extract_hi (op ++ d ++ a ++ b) f 12 7 (by decide)).trans ((extract_hi (op ++ d ++ a) b 7 7 (by decide)).trans ((extract_lo (op ++ d) a 0 7 (by decide)).trans ((extract_all a))))
theorem fmtRR_b (op : BitVec 6) (d a b : BitVec 7) (f : BitVec 5) :
    (fmtRR op d a b f).extractLsb' 5 7 = b :=
  (extract_hi (op ++ d ++ a ++ b) f 5 7 (by decide)).trans ((extract_lo (op ++ d ++ a) b 0 7 (by decide)).trans ((extract_all b)))
theorem fmtRR_f (op : BitVec 6) (d a b : BitVec 7) (f : BitVec 5) :
    (fmtRR op d a b f).extractLsb' 0 5 = f :=
  (extract_lo (op ++ d ++ a ++ b) f 0 5 (by decide)).trans ((extract_all f))
theorem fmtIM_op (op : BitVec 6) (d a : BitVec 7) (i : BitVec 12) :
    (fmtIM op d a i).extractLsb' 26 6 = op :=
  (extract_hi (op ++ d ++ a) i 26 6 (by decide)).trans ((extract_hi (op ++ d) a 14 6 (by decide)).trans ((extract_hi (op) d 7 6 (by decide)).trans ((extract_all op))))
theorem fmtIM_d (op : BitVec 6) (d a : BitVec 7) (i : BitVec 12) :
    (fmtIM op d a i).extractLsb' 19 7 = d :=
  (extract_hi (op ++ d ++ a) i 19 7 (by decide)).trans ((extract_hi (op ++ d) a 7 7 (by decide)).trans ((extract_lo (op) d 0 7 (by decide)).trans ((extract_all d))))
theorem fmtIM_a (op : BitVec 6) (d a : BitVec 7) (i : BitVec 12) :
    (fmtIM op d a i).extractLsb' 12 7 = a :=
  (extract_hi (op ++ d ++ a) i 12 7 (by decide)).trans ((extract_lo (op ++ d) a 0 7 (by decide)).trans ((extract_all a)))
theorem fmtIM_i (op : BitVec 6) (d a : BitVec 7) (i : BitVec 12) :
    (fmtIM op d a i).extractLsb' 0 12 = i :=
  (extract_lo (op ++ d ++ a) i 0 12 (by decide)).trans ((extract_all i))
theorem fmtUP_op (op : BitVec 6) (d : BitVec 6) (i : BitVec 20) :
    (fmtUP op d i).extractLsb' 26 6 = op :=
  (extract_hi (op ++ d) i 26 6 (by decide)).trans ((extract_hi (op) d 6 6 (by decide)).trans ((extract_all op)))
theorem fmtUP_d (op : BitVec 6) (d : BitVec 6) (i : BitVec 20) :
    (fmtUP op d i).extractLsb' 20 6 = d :=
  (extract_hi (op ++ d) i 20 6 (by decide)).trans ((extract_lo (op) d 0 6 (by decide)).trans ((extract_all d)))
theorem fmtUP_i (op : BitVec 6) (d : BitVec 6) (i : BitVec 20) :
    (fmtUP op d i).extractLsb' 0 20 = i :=
  (extract_lo (op ++ d) i 0 20 (by decide)).trans ((extract_all i))
theorem fmtSM_op (op d a : BitVec 6) (l : BitVec 4) (w : BitVec 1) (z : BitVec 2) (i : BitVec 7) :
    (fmtSM op d a l w z i).extractLsb' 26 6 = op :=
  (extract_hi (op ++ d ++ a ++ l ++ w ++ z) i 26 6 (by decide)).trans ((extract_hi (op ++ d ++ a ++ l ++ w) z 19 6 (by decide)).trans ((extract_hi (op ++ d ++ a ++ l) w 17 6 (by decide)).trans ((extract_hi (op ++ d ++ a) l 16 6 (by decide)).trans ((extract_hi (op ++ d) a 12 6 (by decide)).trans ((extract_hi (op) d 6 6 (by decide)).trans ((extract_all op)))))))
theorem fmtSM_d (op d a : BitVec 6) (l : BitVec 4) (w : BitVec 1) (z : BitVec 2) (i : BitVec 7) :
    (fmtSM op d a l w z i).extractLsb' 20 6 = d :=
  (extract_hi (op ++ d ++ a ++ l ++ w ++ z) i 20 6 (by decide)).trans ((extract_hi (op ++ d ++ a ++ l ++ w) z 13 6 (by decide)).trans ((extract_hi (op ++ d ++ a ++ l) w 11 6 (by decide)).trans ((extract_hi (op ++ d ++ a) l 10 6 (by decide)).trans ((extract_hi (op ++ d) a 6 6 (by decide)).trans ((extract_lo (op) d 0 6 (by decide)).trans ((extract_all d)))))))
theorem fmtSM_a (op d a : BitVec 6) (l : BitVec 4) (w : BitVec 1) (z : BitVec 2) (i : BitVec 7) :
    (fmtSM op d a l w z i).extractLsb' 14 6 = a :=
  (extract_hi (op ++ d ++ a ++ l ++ w ++ z) i 14 6 (by decide)).trans ((extract_hi (op ++ d ++ a ++ l ++ w) z 7 6 (by decide)).trans ((extract_hi (op ++ d ++ a ++ l) w 5 6 (by decide)).trans ((extract_hi (op ++ d ++ a) l 4 6 (by decide)).trans ((extract_lo (op ++ d) a 0 6 (by decide)).trans ((extract_all a))))))
theorem fmtSM_l (op d a : BitVec 6) (l : BitVec 4) (w : BitVec 1) (z : BitVec 2) (i : BitVec 7) :
    (fmtSM op d a l w z i).extractLsb' 10 4 = l :=
  (extract_hi (op ++ d ++ a ++ l ++ w ++ z) i 10 4 (by decide)).trans ((extract_hi (op ++ d ++ a ++ l ++ w) z 3 4 (by decide)).trans ((extract_hi (op ++ d ++ a ++ l) w 1 4 (by decide)).trans ((extract_lo (op ++ d ++ a) l 0 4 (by decide)).trans ((extract_all l)))))
theorem fmtSM_w (op d a : BitVec 6) (l : BitVec 4) (w : BitVec 1) (z : BitVec 2) (i : BitVec 7) :
    (fmtSM op d a l w z i).extractLsb' 9 1 = w :=
  (extract_hi (op ++ d ++ a ++ l ++ w ++ z) i 9 1 (by decide)).trans ((extract_hi (op ++ d ++ a ++ l ++ w) z 2 1 (by decide)).trans ((extract_lo (op ++ d ++ a ++ l) w 0 1 (by decide)).trans ((extract_all w))))
theorem fmtSM_z (op d a : BitVec 6) (l : BitVec 4) (w : BitVec 1) (z : BitVec 2) (i : BitVec 7) :
    (fmtSM op d a l w z i).extractLsb' 7 2 = z :=
  (extract_hi (op ++ d ++ a ++ l ++ w ++ z) i 7 2 (by decide)).trans ((extract_lo (op ++ d ++ a ++ l ++ w) z 0 2 (by decide)).trans ((extract_all z)))
theorem fmtSM_i (op d a : BitVec 6) (l : BitVec 4) (w : BitVec 1) (z : BitVec 2) (i : BitVec 7) :
    (fmtSM op d a l w z i).extractLsb' 0 7 = i :=
  (extract_lo (op ++ d ++ a ++ l ++ w ++ z) i 0 7 (by decide)).trans ((extract_all i))
theorem fmtAT_op (op : BitVec 6) (d : BitVec 7) (a : BitVec 6) (b : BitVec 7) (o : BitVec 2) (f : BitVec 4) :
    (fmtAT op d a b o f).extractLsb' 26 6 = op :=
  (extract_hi (op ++ d ++ a ++ b ++ o) f 26 6 (by decide)).trans ((extract_hi (op ++ d ++ a ++ b) o 22 6 (by decide)).trans ((extract_hi (op ++ d ++ a) b 20 6 (by decide)).trans ((extract_hi (op ++ d) a 13 6 (by decide)).trans ((extract_hi (op) d 7 6 (by decide)).trans ((extract_all op))))))
theorem fmtAT_d (op : BitVec 6) (d : BitVec 7) (a : BitVec 6) (b : BitVec 7) (o : BitVec 2) (f : BitVec 4) :
    (fmtAT op d a b o f).extractLsb' 19 7 = d :=
  (extract_hi (op ++ d ++ a ++ b ++ o) f 19 7 (by decide)).trans ((extract_hi (op ++ d ++ a ++ b) o 15 7 (by decide)).trans ((extract_hi (op ++ d ++ a) b 13 7 (by decide)).trans ((extract_hi (op ++ d) a 6 7 (by decide)).trans ((extract_lo (op) d 0 7 (by decide)).trans ((extract_all d))))))
theorem fmtAT_a (op : BitVec 6) (d : BitVec 7) (a : BitVec 6) (b : BitVec 7) (o : BitVec 2) (f : BitVec 4) :
    (fmtAT op d a b o f).extractLsb' 13 6 = a :=
  (extract_hi (op ++ d ++ a ++ b ++ o) f 13 6 (by decide)).trans ((extract_hi (op ++ d ++ a ++ b) o 9 6 (by decide)).trans ((extract_hi (op ++ d ++ a) b 7 6 (by decide)).trans ((extract_lo (op ++ d) a 0 6 (by decide)).trans ((extract_all a)))))
theorem fmtAT_b (op : BitVec 6) (d : BitVec 7) (a : BitVec 6) (b : BitVec 7) (o : BitVec 2) (f : BitVec 4) :
    (fmtAT op d a b o f).extractLsb' 6 7 = b :=
  (extract_hi (op ++ d ++ a ++ b ++ o) f 6 7 (by decide)).trans ((extract_hi (op ++ d ++ a ++ b) o 2 7 (by decide)).trans ((extract_lo (op ++ d ++ a) b 0 7 (by decide)).trans ((extract_all b))))
theorem fmtAT_o (op : BitVec 6) (d : BitVec 7) (a : BitVec 6) (b : BitVec 7) (o : BitVec 2) (f : BitVec 4) :
    (fmtAT op d a b o f).extractLsb' 4 2 = o :=
  (extract_hi (op ++ d ++ a ++ b ++ o) f 4 2 (by decide)).trans ((extract_lo (op ++ d ++ a ++ b) o 0 2 (by decide)).trans ((extract_all o)))
theorem fmtAT_f (op : BitVec 6) (d : BitVec 7) (a : BitVec 6) (b : BitVec 7) (o : BitVec 2) (f : BitVec 4) :
    (fmtAT op d a b o f).extractLsb' 0 4 = f :=
  (extract_lo (op ++ d ++ a ++ b ++ o) f 0 4 (by decide)).trans ((extract_all f))
theorem fmtJP_op (op : BitVec 6) (o : BitVec 26) :
    (fmtJP op o).extractLsb' 26 6 = op :=
  (extract_hi (op) o 26 6 (by decide)).trans ((extract_all op))
theorem fmtJP_o (op : BitVec 6) (o : BitVec 26) :
    (fmtJP op o).extractLsb' 0 26 = o :=
  (extract_lo (op) o 0 26 (by decide)).trans ((extract_all o))
theorem fmtBC_op (op : BitVec 6) (c : BitVec 7) (o : BitVec 19) :
    (fmtBC op c o).extractLsb' 26 6 = op :=
  (extract_hi (op ++ c) o 26 6 (by decide)).trans ((extract_hi (op) c 7 6 (by decide)).trans ((extract_all op)))
theorem fmtBC_c (op : BitVec 6) (c : BitVec 7) (o : BitVec 19) :
    (fmtBC op c o).extractLsb' 19 7 = c :=
  (extract_hi (op ++ c) o 19 7 (by decide)).trans ((extract_lo (op) c 0 7 (by decide)).trans ((extract_all c)))
theorem fmtBC_o (op : BitVec 6) (c : BitVec 7) (o : BitVec 19) :
    (fmtBC op c o).extractLsb' 0 19 = o :=
  (extract_lo (op ++ c) o 0 19 (by decide)).trans ((extract_all o))
theorem fmtVI_op (op : BitVec 6) (d : BitVec 7) (i : BitVec 19) :
    (fmtVI op d i).extractLsb' 26 6 = op :=
  (extract_hi (op ++ d) i 26 6 (by decide)).trans ((extract_hi (op) d 7 6 (by decide)).trans ((extract_all op)))
theorem fmtVI_d (op : BitVec 6) (d : BitVec 7) (i : BitVec 19) :
    (fmtVI op d i).extractLsb' 19 7 = d :=
  (extract_hi (op ++ d) i 19 7 (by decide)).trans ((extract_lo (op) d 0 7 (by decide)).trans ((extract_all d)))
theorem fmtVI_i (op : BitVec 6) (d : BitVec 7) (i : BitVec 19) :
    (fmtVI op d i).extractLsb' 0 19 = i :=
  (extract_lo (op ++ d) i 0 19 (by decide)).trans ((extract_all i))
theorem fmtVM_op (op : BitVec 6) (d : BitVec 7) (a : BitVec 6) (b : BitVec 7) (l : BitVec 4) (z : BitVec 2) :
    (fmtVM op d a b l z).extractLsb' 26 6 = op :=
  (extract_hi (op ++ d ++ a ++ b ++ l) z 26 6 (by decide)).trans ((extract_hi (op ++ d ++ a ++ b) l 24 6 (by decide)).trans ((extract_hi (op ++ d ++ a) b 20 6 (by decide)).trans ((extract_hi (op ++ d) a 13 6 (by decide)).trans ((extract_hi (op) d 7 6 (by decide)).trans ((extract_all op))))))
theorem fmtVM_d (op : BitVec 6) (d : BitVec 7) (a : BitVec 6) (b : BitVec 7) (l : BitVec 4) (z : BitVec 2) :
    (fmtVM op d a b l z).extractLsb' 19 7 = d :=
  (extract_hi (op ++ d ++ a ++ b ++ l) z 19 7 (by decide)).trans ((extract_hi (op ++ d ++ a ++ b) l 17 7 (by decide)).trans ((extract_hi (op ++ d ++ a) b 13 7 (by decide)).trans ((extract_hi (op ++ d) a 6 7 (by decide)).trans ((extract_lo (op) d 0 7 (by decide)).trans ((extract_all d))))))
theorem fmtVM_a (op : BitVec 6) (d : BitVec 7) (a : BitVec 6) (b : BitVec 7) (l : BitVec 4) (z : BitVec 2) :
    (fmtVM op d a b l z).extractLsb' 13 6 = a :=
  (extract_hi (op ++ d ++ a ++ b ++ l) z 13 6 (by decide)).trans ((extract_hi (op ++ d ++ a ++ b) l 11 6 (by decide)).trans ((extract_hi (op ++ d ++ a) b 7 6 (by decide)).trans ((extract_lo (op ++ d) a 0 6 (by decide)).trans ((extract_all a)))))
theorem fmtVM_b (op : BitVec 6) (d : BitVec 7) (a : BitVec 6) (b : BitVec 7) (l : BitVec 4) (z : BitVec 2) :
    (fmtVM op d a b l z).extractLsb' 6 7 = b :=
  (extract_hi (op ++ d ++ a ++ b ++ l) z 6 7 (by decide)).trans ((extract_hi (op ++ d ++ a ++ b) l 4 7 (by decide)).trans ((extract_lo (op ++ d ++ a) b 0 7 (by decide)).trans ((extract_all b))))
theorem fmtVM_l (op : BitVec 6) (d : BitVec 7) (a : BitVec 6) (b : BitVec 7) (l : BitVec 4) (z : BitVec 2) :
    (fmtVM op d a b l z).extractLsb' 2 4 = l :=
  (extract_hi (op ++ d ++ a ++ b ++ l) z 2 4 (by decide)).trans ((extract_lo (op ++ d ++ a ++ b) l 0 4 (by decide)).trans ((extract_all l)))
theorem fmtVM_z (op : BitVec 6) (d : BitVec 7) (a : BitVec 6) (b : BitVec 7) (l : BitVec 4) (z : BitVec 2) :
    (fmtVM op d a b l z).extractLsb' 0 2 = z :=
  (extract_lo (op ++ d ++ a ++ b ++ l) z 0 2 (by decide)).trans ((extract_all z))
theorem fmtPM_op (op : BitVec 6) (g : BitVec 3) (a b : BitVec 6) (y : BitVec 3) (l : BitVec 4) (w : BitVec 1) (x : BitVec 3) :
    (fmtPM op g a b y l w x).extractLsb' 26 6 = op :=
  (extract_hi (op ++ g ++ a ++ b ++ y ++ l ++ w) x 26 6 (by decide)).trans ((extract_hi (op ++ g ++ a ++ b ++ y ++ l) w 23 6 (by decide)).trans ((extract_hi (op ++ g ++ a ++ b ++ y) l 22 6 (by decide)).trans ((extract_hi (op ++ g ++ a ++ b) y 18 6 (by decide)).trans ((extract_hi (op ++ g ++ a) b 15 6 (by decide)).trans ((extract_hi (op ++ g) a 9 6 (by decide)).trans ((extract_hi (op) g 3 6 (by decide)).trans ((extract_all op))))))))
theorem fmtPM_g (op : BitVec 6) (g : BitVec 3) (a b : BitVec 6) (y : BitVec 3) (l : BitVec 4) (w : BitVec 1) (x : BitVec 3) :
    (fmtPM op g a b y l w x).extractLsb' 23 3 = g :=
  (extract_hi (op ++ g ++ a ++ b ++ y ++ l ++ w) x 23 3 (by decide)).trans ((extract_hi (op ++ g ++ a ++ b ++ y ++ l) w 20 3 (by decide)).trans ((extract_hi (op ++ g ++ a ++ b ++ y) l 19 3 (by decide)).trans ((extract_hi (op ++ g ++ a ++ b) y 15 3 (by decide)).trans ((extract_hi (op ++ g ++ a) b 12 3 (by decide)).trans ((extract_hi (op ++ g) a 6 3 (by decide)).trans ((extract_lo (op) g 0 3 (by decide)).trans ((extract_all g))))))))
theorem fmtPM_a (op : BitVec 6) (g : BitVec 3) (a b : BitVec 6) (y : BitVec 3) (l : BitVec 4) (w : BitVec 1) (x : BitVec 3) :
    (fmtPM op g a b y l w x).extractLsb' 17 6 = a :=
  (extract_hi (op ++ g ++ a ++ b ++ y ++ l ++ w) x 17 6 (by decide)).trans ((extract_hi (op ++ g ++ a ++ b ++ y ++ l) w 14 6 (by decide)).trans ((extract_hi (op ++ g ++ a ++ b ++ y) l 13 6 (by decide)).trans ((extract_hi (op ++ g ++ a ++ b) y 9 6 (by decide)).trans ((extract_hi (op ++ g ++ a) b 6 6 (by decide)).trans ((extract_lo (op ++ g) a 0 6 (by decide)).trans ((extract_all a)))))))
theorem fmtPM_b (op : BitVec 6) (g : BitVec 3) (a b : BitVec 6) (y : BitVec 3) (l : BitVec 4) (w : BitVec 1) (x : BitVec 3) :
    (fmtPM op g a b y l w x).extractLsb' 11 6 = b :=
  (extract_hi (op ++ g ++ a ++ b ++ y ++ l ++ w) x 11 6 (by decide)).trans ((extract_hi (op ++ g ++ a ++ b ++ y ++ l) w 8 6 (by decide)).trans ((extract_hi (op ++ g ++ a ++ b ++ y) l 7 6 (by decide)).trans ((extract_hi (op ++ g ++ a ++ b) y 3 6 (by decide)).trans ((extract_lo (op ++ g ++ a) b 0 6 (by decide)).trans ((extract_all b))))))
theorem fmtPM_y (op : BitVec 6) (g : BitVec 3) (a b : BitVec 6) (y : BitVec 3) (l : BitVec 4) (w : BitVec 1) (x : BitVec 3) :
    (fmtPM op g a b y l w x).extractLsb' 8 3 = y :=
  (extract_hi (op ++ g ++ a ++ b ++ y ++ l ++ w) x 8 3 (by decide)).trans ((extract_hi (op ++ g ++ a ++ b ++ y ++ l) w 5 3 (by decide)).trans ((extract_hi (op ++ g ++ a ++ b ++ y) l 4 3 (by decide)).trans ((extract_lo (op ++ g ++ a ++ b) y 0 3 (by decide)).trans ((extract_all y)))))
theorem fmtPM_l (op : BitVec 6) (g : BitVec 3) (a b : BitVec 6) (y : BitVec 3) (l : BitVec 4) (w : BitVec 1) (x : BitVec 3) :
    (fmtPM op g a b y l w x).extractLsb' 4 4 = l :=
  (extract_hi (op ++ g ++ a ++ b ++ y ++ l ++ w) x 4 4 (by decide)).trans ((extract_hi (op ++ g ++ a ++ b ++ y ++ l) w 1 4 (by decide)).trans ((extract_lo (op ++ g ++ a ++ b ++ y) l 0 4 (by decide)).trans ((extract_all l))))
theorem fmtPM_w (op : BitVec 6) (g : BitVec 3) (a b : BitVec 6) (y : BitVec 3) (l : BitVec 4) (w : BitVec 1) (x : BitVec 3) :
    (fmtPM op g a b y l w x).extractLsb' 3 1 = w :=
  (extract_hi (op ++ g ++ a ++ b ++ y ++ l ++ w) x 3 1 (by decide)).trans ((extract_lo (op ++ g ++ a ++ b ++ y ++ l) w 0 1 (by decide)).trans ((extract_all w)))
theorem fmtPM_x (op : BitVec 6) (g : BitVec 3) (a b : BitVec 6) (y : BitVec 3) (l : BitVec 4) (w : BitVec 1) (x : BitVec 3) :
    (fmtPM op g a b y l w x).extractLsb' 0 3 = x :=
  (extract_lo (op ++ g ++ a ++ b ++ y ++ l ++ w) x 0 3 (by decide)).trans ((extract_all x))
theorem fmtPL_op (op : BitVec 6) (g h : BitVec 3) (x : BitVec 2) (b : BitVec 6) (f : BitVec 4) (i : BitVec 8) :
    (fmtPL op g h x b f i).extractLsb' 26 6 = op :=
  (extract_hi (op ++ g ++ h ++ x ++ b ++ f) i 26 6 (by decide)).trans ((extract_hi (op ++ g ++ h ++ x ++ b) f 18 6 (by decide)).trans ((extract_hi (op ++ g ++ h ++ x) b 14 6 (by decide)).trans ((extract_hi (op ++ g ++ h) x 8 6 (by decide)).trans ((extract_hi (op ++ g) h 6 6 (by decide)).trans ((extract_hi (op) g 3 6 (by decide)).trans ((extract_all op)))))))
theorem fmtPL_g (op : BitVec 6) (g h : BitVec 3) (x : BitVec 2) (b : BitVec 6) (f : BitVec 4) (i : BitVec 8) :
    (fmtPL op g h x b f i).extractLsb' 23 3 = g :=
  (extract_hi (op ++ g ++ h ++ x ++ b ++ f) i 23 3 (by decide)).trans ((extract_hi (op ++ g ++ h ++ x ++ b) f 15 3 (by decide)).trans ((extract_hi (op ++ g ++ h ++ x) b 11 3 (by decide)).trans ((extract_hi (op ++ g ++ h) x 5 3 (by decide)).trans ((extract_hi (op ++ g) h 3 3 (by decide)).trans ((extract_lo (op) g 0 3 (by decide)).trans ((extract_all g)))))))
theorem fmtPL_h (op : BitVec 6) (g h : BitVec 3) (x : BitVec 2) (b : BitVec 6) (f : BitVec 4) (i : BitVec 8) :
    (fmtPL op g h x b f i).extractLsb' 20 3 = h :=
  (extract_hi (op ++ g ++ h ++ x ++ b ++ f) i 20 3 (by decide)).trans ((extract_hi (op ++ g ++ h ++ x ++ b) f 12 3 (by decide)).trans ((extract_hi (op ++ g ++ h ++ x) b 8 3 (by decide)).trans ((extract_hi (op ++ g ++ h) x 2 3 (by decide)).trans ((extract_lo (op ++ g) h 0 3 (by decide)).trans ((extract_all h))))))
theorem fmtPL_x (op : BitVec 6) (g h : BitVec 3) (x : BitVec 2) (b : BitVec 6) (f : BitVec 4) (i : BitVec 8) :
    (fmtPL op g h x b f i).extractLsb' 18 2 = x :=
  (extract_hi (op ++ g ++ h ++ x ++ b ++ f) i 18 2 (by decide)).trans ((extract_hi (op ++ g ++ h ++ x ++ b) f 10 2 (by decide)).trans ((extract_hi (op ++ g ++ h ++ x) b 6 2 (by decide)).trans ((extract_lo (op ++ g ++ h) x 0 2 (by decide)).trans ((extract_all x)))))
theorem fmtPL_b (op : BitVec 6) (g h : BitVec 3) (x : BitVec 2) (b : BitVec 6) (f : BitVec 4) (i : BitVec 8) :
    (fmtPL op g h x b f i).extractLsb' 12 6 = b :=
  (extract_hi (op ++ g ++ h ++ x ++ b ++ f) i 12 6 (by decide)).trans ((extract_hi (op ++ g ++ h ++ x ++ b) f 4 6 (by decide)).trans ((extract_lo (op ++ g ++ h ++ x) b 0 6 (by decide)).trans ((extract_all b))))
theorem fmtPL_f (op : BitVec 6) (g h : BitVec 3) (x : BitVec 2) (b : BitVec 6) (f : BitVec 4) (i : BitVec 8) :
    (fmtPL op g h x b f i).extractLsb' 8 4 = f :=
  (extract_hi (op ++ g ++ h ++ x ++ b ++ f) i 8 4 (by decide)).trans ((extract_lo (op ++ g ++ h ++ x ++ b) f 0 4 (by decide)).trans ((extract_all f)))
theorem fmtPL_i (op : BitVec 6) (g h : BitVec 3) (x : BitVec 2) (b : BitVec 6) (f : BitVec 4) (i : BitVec 8) :
    (fmtPL op g h x b f i).extractLsb' 0 8 = i :=
  (extract_lo (op ++ g ++ h ++ x ++ b ++ f) i 0 8 (by decide)).trans ((extract_all i))
theorem fmtMX_op (op : BitVec 6) (t s : BitVec 3) (a b : BitVec 6) (f x : BitVec 4) :
    (fmtMX op t s a b f x).extractLsb' 26 6 = op :=
  (extract_hi (op ++ t ++ s ++ a ++ b ++ f) x 26 6 (by decide)).trans ((extract_hi (op ++ t ++ s ++ a ++ b) f 22 6 (by decide)).trans ((extract_hi (op ++ t ++ s ++ a) b 18 6 (by decide)).trans ((extract_hi (op ++ t ++ s) a 12 6 (by decide)).trans ((extract_hi (op ++ t) s 6 6 (by decide)).trans ((extract_hi (op) t 3 6 (by decide)).trans ((extract_all op)))))))
theorem fmtMX_t (op : BitVec 6) (t s : BitVec 3) (a b : BitVec 6) (f x : BitVec 4) :
    (fmtMX op t s a b f x).extractLsb' 23 3 = t :=
  (extract_hi (op ++ t ++ s ++ a ++ b ++ f) x 23 3 (by decide)).trans ((extract_hi (op ++ t ++ s ++ a ++ b) f 19 3 (by decide)).trans ((extract_hi (op ++ t ++ s ++ a) b 15 3 (by decide)).trans ((extract_hi (op ++ t ++ s) a 9 3 (by decide)).trans ((extract_hi (op ++ t) s 3 3 (by decide)).trans ((extract_lo (op) t 0 3 (by decide)).trans ((extract_all t)))))))
theorem fmtMX_s (op : BitVec 6) (t s : BitVec 3) (a b : BitVec 6) (f x : BitVec 4) :
    (fmtMX op t s a b f x).extractLsb' 20 3 = s :=
  (extract_hi (op ++ t ++ s ++ a ++ b ++ f) x 20 3 (by decide)).trans ((extract_hi (op ++ t ++ s ++ a ++ b) f 16 3 (by decide)).trans ((extract_hi (op ++ t ++ s ++ a) b 12 3 (by decide)).trans ((extract_hi (op ++ t ++ s) a 6 3 (by decide)).trans ((extract_lo (op ++ t) s 0 3 (by decide)).trans ((extract_all s))))))
theorem fmtMX_a (op : BitVec 6) (t s : BitVec 3) (a b : BitVec 6) (f x : BitVec 4) :
    (fmtMX op t s a b f x).extractLsb' 14 6 = a :=
  (extract_hi (op ++ t ++ s ++ a ++ b ++ f) x 14 6 (by decide)).trans ((extract_hi (op ++ t ++ s ++ a ++ b) f 10 6 (by decide)).trans ((extract_hi (op ++ t ++ s ++ a) b 6 6 (by decide)).trans ((extract_lo (op ++ t ++ s) a 0 6 (by decide)).trans ((extract_all a)))))
theorem fmtMX_b (op : BitVec 6) (t s : BitVec 3) (a b : BitVec 6) (f x : BitVec 4) :
    (fmtMX op t s a b f x).extractLsb' 8 6 = b :=
  (extract_hi (op ++ t ++ s ++ a ++ b ++ f) x 8 6 (by decide)).trans ((extract_hi (op ++ t ++ s ++ a ++ b) f 4 6 (by decide)).trans ((extract_lo (op ++ t ++ s ++ a) b 0 6 (by decide)).trans ((extract_all b))))
theorem fmtMX_f (op : BitVec 6) (t s : BitVec 3) (a b : BitVec 6) (f x : BitVec 4) :
    (fmtMX op t s a b f x).extractLsb' 4 4 = f :=
  (extract_hi (op ++ t ++ s ++ a ++ b ++ f) x 4 4 (by decide)).trans ((extract_lo (op ++ t ++ s ++ a ++ b) f 0 4 (by decide)).trans ((extract_all f)))
theorem fmtMX_x (op : BitVec 6) (t s : BitVec 3) (a b : BitVec 6) (f x : BitVec 4) :
    (fmtMX op t s a b f x).extractLsb' 0 4 = x :=
  (extract_lo (op ++ t ++ s ++ a ++ b ++ f) x 0 4 (by decide)).trans ((extract_all x))

/-! Parts of fields, and fields of zeros. -/

theorem fmtRR_b_lo5 (op d a b f) : (fmtRR op d a b f).extractLsb' 5 5 = b.extractLsb' 0 5 := extract_part (fmtRR_b ..) 0 5 (by decide)
theorem fmtRR_b_hi2 (op d a b f) : (fmtRR op d a b f).extractLsb' 10 2 = b.extractLsb' 5 2 := extract_part (fmtRR_b ..) 5 2 (by decide)
theorem fmtRR_b_lo1 (op d a b f) : (fmtRR op d a b f).extractLsb' 5 1 = b.extractLsb' 0 1 := extract_part (fmtRR_b ..) 0 1 (by decide)
theorem fmtRR_b_hi6 (op d a b f) : (fmtRR op d a b f).extractLsb' 6 6 = b.extractLsb' 1 6 := extract_part (fmtRR_b ..) 1 6 (by decide)
theorem fmtRR_d_lo3 (op d a b f) : (fmtRR op d a b f).extractLsb' 19 3 = d.extractLsb' 0 3 := extract_part (fmtRR_d ..) 0 3 (by decide)
theorem fmtRR_d_hi4 (op d a b f) : (fmtRR op d a b f).extractLsb' 22 4 = d.extractLsb' 3 4 := extract_part (fmtRR_d ..) 3 4 (by decide)
theorem fmtBC_c_lo3 (op c o) : (fmtBC op c o).extractLsb' 19 3 = c.extractLsb' 0 3 := extract_part (fmtBC_c ..) 0 3 (by decide)
theorem fmtBC_c_hi4 (op c o) : (fmtBC op c o).extractLsb' 22 4 = c.extractLsb' 3 4 := extract_part (fmtBC_c ..) 3 4 (by decide)
theorem fmtRR_ab (op d f) : (fmtRR op d 0 0 f).extractLsb' 5 14 = 0 := extract_zeros (fmtRR_b ..) (fmtRR_a ..)
theorem fmtRR_dab (op f) : (fmtRR op 0 0 0 f).extractLsb' 5 21 = 0 := extract_zeros (fmtRR_ab ..) (fmtRR_d ..)
theorem fmtPL_xb (op g h f i) : (fmtPL op g h 0 0 f i).extractLsb' 12 8 = 0 := extract_zeros (fmtPL_b ..) (fmtPL_x ..)
theorem fmtPL_hx (op g b f i) : (fmtPL op g 0 0 b f i).extractLsb' 18 5 = 0 := extract_zeros (fmtPL_x ..) (fmtPL_h ..)
theorem fmtMX_ab (op t s f x) : (fmtMX op t s 0 0 f x).extractLsb' 8 12 = 0 := extract_zeros (fmtMX_b ..) (fmtMX_a ..)
theorem fmtMX_sab (op t f x) : (fmtMX op t 0 0 0 f x).extractLsb' 8 15 = 0 := extract_zeros (fmtMX_ab ..) (fmtMX_s ..)
theorem fmtMX_ts (op a b f x) : (fmtMX op 0 0 a b f x).extractLsb' 20 6 = 0 := extract_zeros (fmtMX_s ..) (fmtMX_t ..)
theorem fmtMX_x0 (op t s a b f x) : (fmtMX op t s a b f x).getLsbD 0 = x.getLsbD 0 := extract_bit (fmtMX_x ..) 0 (by decide)
theorem fmtMX_x1 (op t s a b f x) : (fmtMX op t s a b f x).getLsbD 1 = x.getLsbD 1 := extract_bit (fmtMX_x ..) 1 (by decide)
theorem fmtMX_x2 (op t s a b f x) : (fmtMX op t s a b f x).getLsbD 2 = x.getLsbD 2 := extract_bit (fmtMX_x ..) 2 (by decide)
theorem fmtMX_x3 (op t s a b f x) : (fmtMX op t s a b f x).getLsbD 3 = x.getLsbD 3 := extract_bit (fmtMX_x ..) 3 (by decide)
theorem fmtMX_x3' (op t s a b f x) : (fmtMX op t s a b f x).extractLsb' 3 1 = x.extractLsb' 3 1 := extract_part (fmtMX_x ..) 3 1 (by decide)

/-! Subfields. -/

theorem Size.ofBits_bits (x : Size) : Size.ofBits x.bits = x := by cases x <;> rfl
theorem Strength.ofBits_bits (x : Strength) : Strength.ofBits x.bits = x := by cases x <;> rfl
theorem Order.ofBits_bits (x : Order) : Order.ofBits x.bits = x := by cases x <;> rfl
theorem Axis.ofBits_bits (x : Axis) : Axis.ofBits x.bits = x := by cases x <;> rfl
theorem Half.ofBits_bits (x : Half) : Half.ofBits x.bits = x := by cases x <;> rfl
theorem Layout.ofBits_bits (x : Layout) : Layout.ofBits x.bits = some x := by cases x <;> rfl
theorem Test.ofBits_bits (x : Test) : Test.ofBits x.bits = some x := by cases x <;> rfl
theorem LaneSel.ofBits_bits (x : LaneSel) : LaneSel.ofBits x.bits = some x := by cases x <;> rfl
theorem RedOp.ofBits_bits (x : RedOp) : RedOp.ofBits x.bits = some x := by cases x <;> rfl
theorem RoundOverride.ofBits_bits (x : RoundOverride) : RoundOverride.ofBits x.bits = x := by cases x <;> rfl
theorem ElemType.ofCode_code (x : ElemType) : ElemType.ofCode x.code = some x := by cases x <;> rfl
theorem ConvTarget.ofBits_bits (x : ConvTarget) : ConvTarget.ofBits x.bits = some x := by
  cases x with
  | type t => cases t <;> rfl
  | slot n => revert n; decide

/-! The major opcodes. -/

theorem major0 {w : Word} (h : w.extractLsb' 26 6 = 0) :
    decodeFields w = (decodeSystem w) := by
  unfold decodeFields
  rw [h]
  rfl
theorem major1 {w : Word} (h : w.extractLsb' 26 6 = 1) :
    decodeFields w = (decodeScalar w) := by
  unfold decodeFields
  rw [h]
  rfl
theorem major2 {w : Word} (h : w.extractLsb' 26 6 = 2) :
    decodeFields w = (.ok (.sAddi (w.extractLsb' 19 7) (w.extractLsb' 12 7) (w.extractLsb' 0 12))) := by
  unfold decodeFields
  rw [h]
  rfl
theorem major3 {w : Word} (h : w.extractLsb' 26 6 = 3) :
    decodeFields w = (.ok (.sAndi (w.extractLsb' 19 7) (w.extractLsb' 12 7) (w.extractLsb' 0 12))) := by
  unfold decodeFields
  rw [h]
  rfl
theorem major4 {w : Word} (h : w.extractLsb' 26 6 = 4) :
    decodeFields w = (.ok (.sOri (w.extractLsb' 19 7) (w.extractLsb' 12 7) (w.extractLsb' 0 12))) := by
  unfold decodeFields
  rw [h]
  rfl
theorem major5 {w : Word} (h : w.extractLsb' 26 6 = 5) :
    decodeFields w = (.ok (.sXori (w.extractLsb' 19 7) (w.extractLsb' 12 7) (w.extractLsb' 0 12))) := by
  unfold decodeFields
  rw [h]
  rfl
theorem major6 {w : Word} (h : w.extractLsb' 26 6 = 6) :
    decodeFields w = (.ok (.sShli (w.extractLsb' 19 7) (w.extractLsb' 12 7) (w.extractLsb' 0 12))) := by
  unfold decodeFields
  rw [h]
  rfl
theorem major7 {w : Word} (h : w.extractLsb' 26 6 = 7) :
    decodeFields w = (.ok (.sShri (w.extractLsb' 19 7) (w.extractLsb' 12 7) (w.extractLsb' 0 12))) := by
  unfold decodeFields
  rw [h]
  rfl
theorem major8 {w : Word} (h : w.extractLsb' 26 6 = 8) :
    decodeFields w = (.ok (.sSari (w.extractLsb' 19 7) (w.extractLsb' 12 7) (w.extractLsb' 0 12))) := by
  unfold decodeFields
  rw [h]
  rfl
theorem major9 {w : Word} (h : w.extractLsb' 26 6 = 9) :
    decodeFields w = (.ok (.sSlti (w.extractLsb' 19 7) (w.extractLsb' 12 7) (w.extractLsb' 0 12))) := by
  unfold decodeFields
  rw [h]
  rfl
theorem major10 {w : Word} (h : w.extractLsb' 26 6 = 10) :
    decodeFields w = (.ok (.sLui (w.extractLsb' 20 6) (w.extractLsb' 0 20))) := by
  unfold decodeFields
  rw [h]
  rfl
theorem major11 {w : Word} (h : w.extractLsb' 26 6 = 11) :
    decodeFields w = (.ok (.sAupc (w.extractLsb' 20 6) (w.extractLsb' 0 20))) := by
  unfold decodeFields
  rw [h]
  rfl
theorem major12 {w : Word} (h : w.extractLsb' 26 6 = 12) :
    decodeFields w = (.ok (.sLd (w.extractLsb' 20 6) (w.extractLsb' 14 6) (w.extractLsb' 10 4) (Strength.ofBits (w.extractLsb' 9 1)) (Size.ofBits (w.extractLsb' 7 2)) (w.extractLsb' 0 7))) := by
  unfold decodeFields
  rw [h]
  rfl
theorem major13 {w : Word} (h : w.extractLsb' 26 6 = 13) :
    decodeFields w = (.ok (.sLdu (w.extractLsb' 20 6) (w.extractLsb' 14 6) (w.extractLsb' 10 4) (Strength.ofBits (w.extractLsb' 9 1)) (Size.ofBits (w.extractLsb' 7 2)) (w.extractLsb' 0 7))) := by
  unfold decodeFields
  rw [h]
  rfl
theorem major14 {w : Word} (h : w.extractLsb' 26 6 = 14) :
    decodeFields w = (needZero w 10 4 <| .ok (.sSt (w.extractLsb' 20 6) (w.extractLsb' 14 6) (Strength.ofBits (w.extractLsb' 9 1)) (Size.ofBits (w.extractLsb' 7 2)) (w.extractLsb' 0 7))) := by
  unfold decodeFields
  rw [h]
  rfl
theorem major15 {w : Word} (h : w.extractLsb' 26 6 = 15) :
    decodeFields w = (decodeScalarAtomic w) := by
  unfold decodeFields
  rw [h]
  rfl
theorem major16 {w : Word} (h : w.extractLsb' 26 6 = 16) :
    decodeFields w = (.ok (.br (w.extractLsb' 0 26))) := by
  unfold decodeFields
  rw [h]
  rfl
theorem major17 {w : Word} (h : w.extractLsb' 26 6 = 17) :
    decodeFields w = (.ok (.call (w.extractLsb' 0 26))) := by
  unfold decodeFields
  rw [h]
  rfl
theorem major18 {w : Word} (h : w.extractLsb' 26 6 = 18) :
    decodeFields w = (.ok (.brz (w.extractLsb' 19 7) (w.extractLsb' 0 19))) := by
  unfold decodeFields
  rw [h]
  rfl
theorem major19 {w : Word} (h : w.extractLsb' 26 6 = 19) :
    decodeFields w = (.ok (.brnz (w.extractLsb' 19 7) (w.extractLsb' 0 19))) := by
  unfold decodeFields
  rw [h]
  rfl
theorem major20 {w : Word} (h : w.extractLsb' 26 6 = 20) :
    decodeFields w = ((Test.ofBits (w.extractLsb' 19 3)).elim (.error .reservedTest) fun test => .ok (.brp (w.extractLsb' 22 4) test (w.extractLsb' 0 19))) := by
  unfold decodeFields
  rw [h]
  rfl
theorem major21 {w : Word} (h : w.extractLsb' 26 6 = 21) :
    decodeFields w = (needZero w 19 3 <| .ok (.brd (w.extractLsb' 22 4) (w.extractLsb' 0 19))) := by
  unfold decodeFields
  rw [h]
  rfl
theorem major22 {w : Word} (h : w.extractLsb' 26 6 = 22) :
    decodeFields w = (needZero w 19 7 <| .ok (.recv (w.extractLsb' 0 19))) := by
  unfold decodeFields
  rw [h]
  rfl
theorem major23 {w : Word} (h : w.extractLsb' 26 6 = 23) :
    decodeFields w = (.ok (.loop (w.extractLsb' 19 7) (w.extractLsb' 0 19))) := by
  unfold decodeFields
  rw [h]
  rfl
theorem major24 {w : Word} (h : w.extractLsb' 26 6 = 24) :
    decodeFields w = (decodeControl w) := by
  unfold decodeFields
  rw [h]
  rfl
theorem major25 {w : Word} (h : w.extractLsb' 26 6 = 25) :
    decodeFields w = (decodeLaneArith w) := by
  unfold decodeFields
  rw [h]
  rfl
theorem major26 {w : Word} (h : w.extractLsb' 26 6 = 26) :
    decodeFields w = (decodeLaneBit w) := by
  unfold decodeFields
  rw [h]
  rfl
theorem major27 {w : Word} (h : w.extractLsb' 26 6 = 27) :
    decodeFields w = (decodeCompare w) := by
  unfold decodeFields
  rw [h]
  rfl
theorem major28 {w : Word} (h : w.extractLsb' 26 6 = 28) :
    decodeFields w = (decodeSpecial w) := by
  unfold decodeFields
  rw [h]
  rfl
theorem major29 {w : Word} (h : w.extractLsb' 26 6 = 29) :
    decodeFields w = (decodeCrossLane w) := by
  unfold decodeFields
  rw [h]
  rfl
theorem major30 {w : Word} (h : w.extractLsb' 26 6 = 30) :
    decodeFields w = (.ok (.vAddi (w.extractLsb' 19 7) (w.extractLsb' 12 7) (w.extractLsb' 0 12))) := by
  unfold decodeFields
  rw [h]
  rfl
theorem major31 {w : Word} (h : w.extractLsb' 26 6 = 31) :
    decodeFields w = (.ok (.vMovi (w.extractLsb' 19 7) (w.extractLsb' 0 19))) := by
  unfold decodeFields
  rw [h]
  rfl
theorem major32 {w : Word} (h : w.extractLsb' 26 6 = 32) :
    decodeFields w = (decodePredicate w) := by
  unfold decodeFields
  rw [h]
  rfl
theorem major33 {w : Word} (h : w.extractLsb' 26 6 = 33) :
    decodeFields w = (.ok (.vLd (w.extractLsb' 19 7) (w.extractLsb' 13 6) (w.extractLsb' 6 7) (w.extractLsb' 2 4) (Size.ofBits (w.extractLsb' 0 2)))) := by
  unfold decodeFields
  rw [h]
  rfl
theorem major34 {w : Word} (h : w.extractLsb' 26 6 = 34) :
    decodeFields w = (.ok (.vLdu (w.extractLsb' 19 7) (w.extractLsb' 13 6) (w.extractLsb' 6 7) (w.extractLsb' 2 4) (Size.ofBits (w.extractLsb' 0 2)))) := by
  unfold decodeFields
  rw [h]
  rfl
theorem major35 {w : Word} (h : w.extractLsb' 26 6 = 35) :
    decodeFields w = (needZero w 2 4 <| .ok (.vSt (w.extractLsb' 19 7) (w.extractLsb' 13 6) (w.extractLsb' 6 7) (Size.ofBits (w.extractLsb' 0 2)))) := by
  unfold decodeFields
  rw [h]
  rfl
theorem major36 {w : Word} (h : w.extractLsb' 26 6 = 36) :
    decodeFields w = (.ok (.vLdx (w.extractLsb' 19 7) (w.extractLsb' 13 6) (w.extractLsb' 6 7) (w.extractLsb' 2 4) (Size.ofBits (w.extractLsb' 0 2)))) := by
  unfold decodeFields
  rw [h]
  rfl
theorem major37 {w : Word} (h : w.extractLsb' 26 6 = 37) :
    decodeFields w = (needZero w 2 4 <| .ok (.vStx (w.extractLsb' 19 7) (w.extractLsb' 13 6) (w.extractLsb' 6 7) (Size.ofBits (w.extractLsb' 0 2)))) := by
  unfold decodeFields
  rw [h]
  rfl
theorem major38 {w : Word} (h : w.extractLsb' 26 6 = 38) :
    decodeFields w = (decodeLaneAtomic w) := by
  unfold decodeFields
  rw [h]
  rfl
theorem major39 {w : Word} (h : w.extractLsb' 26 6 = 39) :
    decodeFields w = (needZero w 0 3 <| (Layout.ofBits (w.extractLsb' 8 3)).elim (.error .reservedLayout) fun lay => .ok (.pLd (w.extractLsb' 23 3) (w.extractLsb' 17 6) (w.extractLsb' 11 6) lay (w.extractLsb' 4 4) (Strength.ofBits (w.extractLsb' 3 1)))) := by
  unfold decodeFields
  rw [h]
  rfl
theorem major40 {w : Word} (h : w.extractLsb' 26 6 = 40) :
    decodeFields w = (needZero w 0 3 <| needZero w 4 4 <| (Layout.ofBits (w.extractLsb' 8 3)).elim (.error .reservedLayout) fun lay => .ok (.pSt (w.extractLsb' 23 3) (w.extractLsb' 17 6) (w.extractLsb' 11 6) lay (Strength.ofBits (w.extractLsb' 3 1)))) := by
  unfold decodeFields
  rw [h]
  rfl
theorem major41 {w : Word} (h : w.extractLsb' 26 6 = 41) :
    decodeFields w = (decodePlane w) := by
  unfold decodeFields
  rw [h]
  rfl
theorem major42 {w : Word} (h : w.extractLsb' 26 6 = 42) :
    decodeFields w = (decodeLoupe w) := by
  unfold decodeFields
  rw [h]
  rfl
theorem major43 {w : Word} (h : w.extractLsb' 26 6 = 43) :
    decodeFields w = (decodeSync w) := by
  unfold decodeFields
  rw [h]
  rfl
theorem major44 {w : Word} (h : w.extractLsb' 26 6 = 44) :
    decodeFields w = (decodeCopy w) := by
  unfold decodeFields
  rw [h]
  rfl
theorem major45 {w : Word} (h : w.extractLsb' 26 6 = 45) :
    decodeFields w = (decodeMatrix w) := by
  unfold decodeFields
  rw [h]
  rfl
theorem major46 {w : Word} (h : w.extractLsb' 26 6 = 46) :
    decodeFields w = (decodeTable w) := by
  unfold decodeFields
  rw [h]
  rfl

/-! The minor opcodes. -/

theorem decodeSystem_0 {w : Word} (h : w.extractLsb' 0 5 = 0) :
    decodeSystem w = (needZero w 5 21 <| .ok .nop) := by
  unfold decodeSystem
  rw [h]
  rfl
theorem decodeSystem_1 {w : Word} (h : w.extractLsb' 0 5 = 1) :
    decodeSystem w = (needZero w 5 14 <| .ok (.trap (w.extractLsb' 19 7))) := by
  unfold decodeSystem
  rw [h]
  rfl
theorem decodeSystem_2 {w : Word} (h : w.extractLsb' 0 5 = 2) :
    decodeSystem w = (needZero w 5 21 <| .ok .eret) := by
  unfold decodeSystem
  rw [h]
  rfl
theorem decodeSystem_3 {w : Word} (h : w.extractLsb' 0 5 = 3) :
    decodeSystem w = (needZero w 12 7 <| .ok (.sysr (w.extractLsb' 19 7) (w.extractLsb' 5 7))) := by
  unfold decodeSystem
  rw [h]
  rfl
theorem decodeSystem_4 {w : Word} (h : w.extractLsb' 0 5 = 4) :
    decodeSystem w = (needZero w 19 7 <| .ok (.sysw (w.extractLsb' 12 7) (w.extractLsb' 5 7))) := by
  unfold decodeSystem
  rw [h]
  rfl
theorem decodeSystem_5 {w : Word} (h : w.extractLsb' 0 5 = 5) :
    decodeSystem w = (needZero w 5 21 <| .ok .yield) := by
  unfold decodeSystem
  rw [h]
  rfl
theorem decodeSystem_6 {w : Word} (h : w.extractLsb' 0 5 = 6) :
    decodeSystem w = (needZero w 5 7 <| needZero w 19 7 <| .ok (.perf (w.extractLsb' 12 7))) := by
  unfold decodeSystem
  rw [h]
  rfl
theorem decodeSystem_7 {w : Word} (h : w.extractLsb' 0 5 = 7) :
    decodeSystem w = (needZero w 5 21 <| .ok .region) := by
  unfold decodeSystem
  rw [h]
  rfl
theorem decodeSystem_8 {w : Word} (h : w.extractLsb' 0 5 = 8) :
    decodeSystem w = (needZero w 5 14 <| .ok (.vers (w.extractLsb' 19 7))) := by
  unfold decodeSystem
  rw [h]
  rfl
theorem decodeSystem_9 {w : Word} (h : w.extractLsb' 0 5 = 9) :
    decodeSystem w = (needZero w 5 14 <| .ok (.cycles (w.extractLsb' 19 7))) := by
  unfold decodeSystem
  rw [h]
  rfl
theorem decodeSystem_10 {w : Word} (h : w.extractLsb' 0 5 = 10) :
    decodeSystem w = (needZero w 19 7 <| .ok (.icinv (w.extractLsb' 12 7) (w.extractLsb' 5 7))) := by
  unfold decodeSystem
  rw [h]
  rfl
theorem decodeSystem_11 {w : Word} (h : w.extractLsb' 0 5 = 11) :
    decodeSystem w = (needZero w 5 7 <| needZero w 19 7 <| .ok (.pgreq (w.extractLsb' 12 7))) := by
  unfold decodeSystem
  rw [h]
  rfl
theorem decodeSystem_12 {w : Word} (h : w.extractLsb' 0 5 = 12) :
    decodeSystem w = (needZero w 19 7 <| .ok (.launch (w.extractLsb' 12 7) (w.extractLsb' 5 7))) := by
  unfold decodeSystem
  rw [h]
  rfl
theorem decodeSystem_13 {w : Word} (h : w.extractLsb' 0 5 = 13) :
    decodeSystem w = (needZero w 5 21 <| .ok .exit) := by
  unfold decodeSystem
  rw [h]
  rfl
theorem decodeSystem_14 {w : Word} (h : w.extractLsb' 0 5 = 14) :
    decodeSystem w = (needZero w 5 21 <| .ok .bkpt) := by
  unfold decodeSystem
  rw [h]
  rfl
theorem decodeSystem_15 {w : Word} (h : w.extractLsb' 0 5 = 15) :
    decodeSystem w = (needZero w 19 7 <| .ok (.modeSet (w.extractLsb' 12 7) (w.extractLsb' 5 7))) := by
  unfold decodeSystem
  rw [h]
  rfl
theorem decodeSystem_16 {w : Word} (h : w.extractLsb' 0 5 = 16) :
    decodeSystem w = (needZero w 5 14 <| .ok (.modeGet (w.extractLsb' 19 7))) := by
  unfold decodeSystem
  rw [h]
  rfl
theorem decodeScalar_0 {w : Word} (h : w.extractLsb' 0 5 = 0) :
    decodeScalar w = (.ok (.sAdd (w.extractLsb' 19 7) (w.extractLsb' 12 7) (w.extractLsb' 5 7))) := by
  unfold decodeScalar
  rw [h]
  rfl
theorem decodeScalar_1 {w : Word} (h : w.extractLsb' 0 5 = 1) :
    decodeScalar w = (.ok (.sSub (w.extractLsb' 19 7) (w.extractLsb' 12 7) (w.extractLsb' 5 7))) := by
  unfold decodeScalar
  rw [h]
  rfl
theorem decodeScalar_2 {w : Word} (h : w.extractLsb' 0 5 = 2) :
    decodeScalar w = (.ok (.sMul (w.extractLsb' 19 7) (w.extractLsb' 12 7) (w.extractLsb' 5 7))) := by
  unfold decodeScalar
  rw [h]
  rfl
theorem decodeScalar_3 {w : Word} (h : w.extractLsb' 0 5 = 3) :
    decodeScalar w = (.ok (.sMulh (w.extractLsb' 19 7) (w.extractLsb' 12 7) (w.extractLsb' 5 7))) := by
  unfold decodeScalar
  rw [h]
  rfl
theorem decodeScalar_4 {w : Word} (h : w.extractLsb' 0 5 = 4) :
    decodeScalar w = (.ok (.sMulhu (w.extractLsb' 19 7) (w.extractLsb' 12 7) (w.extractLsb' 5 7))) := by
  unfold decodeScalar
  rw [h]
  rfl
theorem decodeScalar_5 {w : Word} (h : w.extractLsb' 0 5 = 5) :
    decodeScalar w = (.ok (.sDiv (w.extractLsb' 19 7) (w.extractLsb' 12 7) (w.extractLsb' 5 7))) := by
  unfold decodeScalar
  rw [h]
  rfl
theorem decodeScalar_6 {w : Word} (h : w.extractLsb' 0 5 = 6) :
    decodeScalar w = (.ok (.sDivu (w.extractLsb' 19 7) (w.extractLsb' 12 7) (w.extractLsb' 5 7))) := by
  unfold decodeScalar
  rw [h]
  rfl
theorem decodeScalar_7 {w : Word} (h : w.extractLsb' 0 5 = 7) :
    decodeScalar w = (.ok (.sRem (w.extractLsb' 19 7) (w.extractLsb' 12 7) (w.extractLsb' 5 7))) := by
  unfold decodeScalar
  rw [h]
  rfl
theorem decodeScalar_8 {w : Word} (h : w.extractLsb' 0 5 = 8) :
    decodeScalar w = (.ok (.sRemu (w.extractLsb' 19 7) (w.extractLsb' 12 7) (w.extractLsb' 5 7))) := by
  unfold decodeScalar
  rw [h]
  rfl
theorem decodeScalar_9 {w : Word} (h : w.extractLsb' 0 5 = 9) :
    decodeScalar w = (.ok (.sAnd (w.extractLsb' 19 7) (w.extractLsb' 12 7) (w.extractLsb' 5 7))) := by
  unfold decodeScalar
  rw [h]
  rfl
theorem decodeScalar_10 {w : Word} (h : w.extractLsb' 0 5 = 10) :
    decodeScalar w = (.ok (.sOr (w.extractLsb' 19 7) (w.extractLsb' 12 7) (w.extractLsb' 5 7))) := by
  unfold decodeScalar
  rw [h]
  rfl
theorem decodeScalar_11 {w : Word} (h : w.extractLsb' 0 5 = 11) :
    decodeScalar w = (.ok (.sXor (w.extractLsb' 19 7) (w.extractLsb' 12 7) (w.extractLsb' 5 7))) := by
  unfold decodeScalar
  rw [h]
  rfl
theorem decodeScalar_12 {w : Word} (h : w.extractLsb' 0 5 = 12) :
    decodeScalar w = (.ok (.sShl (w.extractLsb' 19 7) (w.extractLsb' 12 7) (w.extractLsb' 5 7))) := by
  unfold decodeScalar
  rw [h]
  rfl
theorem decodeScalar_13 {w : Word} (h : w.extractLsb' 0 5 = 13) :
    decodeScalar w = (.ok (.sShr (w.extractLsb' 19 7) (w.extractLsb' 12 7) (w.extractLsb' 5 7))) := by
  unfold decodeScalar
  rw [h]
  rfl
theorem decodeScalar_14 {w : Word} (h : w.extractLsb' 0 5 = 14) :
    decodeScalar w = (.ok (.sSar (w.extractLsb' 19 7) (w.extractLsb' 12 7) (w.extractLsb' 5 7))) := by
  unfold decodeScalar
  rw [h]
  rfl
theorem decodeScalar_15 {w : Word} (h : w.extractLsb' 0 5 = 15) :
    decodeScalar w = (.ok (.sMin (w.extractLsb' 19 7) (w.extractLsb' 12 7) (w.extractLsb' 5 7))) := by
  unfold decodeScalar
  rw [h]
  rfl
theorem decodeScalar_16 {w : Word} (h : w.extractLsb' 0 5 = 16) :
    decodeScalar w = (.ok (.sMax (w.extractLsb' 19 7) (w.extractLsb' 12 7) (w.extractLsb' 5 7))) := by
  unfold decodeScalar
  rw [h]
  rfl
theorem decodeScalar_17 {w : Word} (h : w.extractLsb' 0 5 = 17) :
    decodeScalar w = (.ok (.sMinu (w.extractLsb' 19 7) (w.extractLsb' 12 7) (w.extractLsb' 5 7))) := by
  unfold decodeScalar
  rw [h]
  rfl
theorem decodeScalar_18 {w : Word} (h : w.extractLsb' 0 5 = 18) :
    decodeScalar w = (.ok (.sMaxu (w.extractLsb' 19 7) (w.extractLsb' 12 7) (w.extractLsb' 5 7))) := by
  unfold decodeScalar
  rw [h]
  rfl
theorem decodeScalar_19 {w : Word} (h : w.extractLsb' 0 5 = 19) :
    decodeScalar w = (.ok (.sSlt (w.extractLsb' 19 7) (w.extractLsb' 12 7) (w.extractLsb' 5 7))) := by
  unfold decodeScalar
  rw [h]
  rfl
theorem decodeScalar_20 {w : Word} (h : w.extractLsb' 0 5 = 20) :
    decodeScalar w = (.ok (.sSltu (w.extractLsb' 19 7) (w.extractLsb' 12 7) (w.extractLsb' 5 7))) := by
  unfold decodeScalar
  rw [h]
  rfl
theorem decodeScalar_21 {w : Word} (h : w.extractLsb' 0 5 = 21) :
    decodeScalar w = (.ok (.sSeq (w.extractLsb' 19 7) (w.extractLsb' 12 7) (w.extractLsb' 5 7))) := by
  unfold decodeScalar
  rw [h]
  rfl
theorem decodeScalar_22 {w : Word} (h : w.extractLsb' 0 5 = 22) :
    decodeScalar w = (needZero w 5 7 <| .ok (.sClz (w.extractLsb' 19 7) (w.extractLsb' 12 7))) := by
  unfold decodeScalar
  rw [h]
  rfl
theorem decodeScalar_23 {w : Word} (h : w.extractLsb' 0 5 = 23) :
    decodeScalar w = (needZero w 5 7 <| .ok (.sPopc (w.extractLsb' 19 7) (w.extractLsb' 12 7))) := by
  unfold decodeScalar
  rw [h]
  rfl
theorem decodeScalarAtomic_0 {w : Word} (h : w.extractLsb' 0 4 = 0) :
    decodeScalarAtomic w = (.ok (.sAtomAdd (w.extractLsb' 19 7) (w.extractLsb' 13 6) (w.extractLsb' 6 7) (Order.ofBits (w.extractLsb' 4 2)))) := by
  unfold decodeScalarAtomic
  rw [h]
  rfl
theorem decodeScalarAtomic_1 {w : Word} (h : w.extractLsb' 0 4 = 1) :
    decodeScalarAtomic w = (.ok (.sAtomAnd (w.extractLsb' 19 7) (w.extractLsb' 13 6) (w.extractLsb' 6 7) (Order.ofBits (w.extractLsb' 4 2)))) := by
  unfold decodeScalarAtomic
  rw [h]
  rfl
theorem decodeScalarAtomic_2 {w : Word} (h : w.extractLsb' 0 4 = 2) :
    decodeScalarAtomic w = (.ok (.sAtomOr (w.extractLsb' 19 7) (w.extractLsb' 13 6) (w.extractLsb' 6 7) (Order.ofBits (w.extractLsb' 4 2)))) := by
  unfold decodeScalarAtomic
  rw [h]
  rfl
theorem decodeScalarAtomic_3 {w : Word} (h : w.extractLsb' 0 4 = 3) :
    decodeScalarAtomic w = (.ok (.sAtomXor (w.extractLsb' 19 7) (w.extractLsb' 13 6) (w.extractLsb' 6 7) (Order.ofBits (w.extractLsb' 4 2)))) := by
  unfold decodeScalarAtomic
  rw [h]
  rfl
theorem decodeScalarAtomic_4 {w : Word} (h : w.extractLsb' 0 4 = 4) :
    decodeScalarAtomic w = (.ok (.sAtomMin (w.extractLsb' 19 7) (w.extractLsb' 13 6) (w.extractLsb' 6 7) (Order.ofBits (w.extractLsb' 4 2)))) := by
  unfold decodeScalarAtomic
  rw [h]
  rfl
theorem decodeScalarAtomic_5 {w : Word} (h : w.extractLsb' 0 4 = 5) :
    decodeScalarAtomic w = (.ok (.sAtomMax (w.extractLsb' 19 7) (w.extractLsb' 13 6) (w.extractLsb' 6 7) (Order.ofBits (w.extractLsb' 4 2)))) := by
  unfold decodeScalarAtomic
  rw [h]
  rfl
theorem decodeScalarAtomic_6 {w : Word} (h : w.extractLsb' 0 4 = 6) :
    decodeScalarAtomic w = (.ok (.sAtomMinu (w.extractLsb' 19 7) (w.extractLsb' 13 6) (w.extractLsb' 6 7) (Order.ofBits (w.extractLsb' 4 2)))) := by
  unfold decodeScalarAtomic
  rw [h]
  rfl
theorem decodeScalarAtomic_7 {w : Word} (h : w.extractLsb' 0 4 = 7) :
    decodeScalarAtomic w = (.ok (.sAtomMaxu (w.extractLsb' 19 7) (w.extractLsb' 13 6) (w.extractLsb' 6 7) (Order.ofBits (w.extractLsb' 4 2)))) := by
  unfold decodeScalarAtomic
  rw [h]
  rfl
theorem decodeScalarAtomic_8 {w : Word} (h : w.extractLsb' 0 4 = 8) :
    decodeScalarAtomic w = (.ok (.sAtomSwap (w.extractLsb' 19 7) (w.extractLsb' 13 6) (w.extractLsb' 6 7) (Order.ofBits (w.extractLsb' 4 2)))) := by
  unfold decodeScalarAtomic
  rw [h]
  rfl
theorem decodeScalarAtomic_9 {w : Word} (h : w.extractLsb' 0 4 = 9) :
    decodeScalarAtomic w = (needZero w 6 7 <| .ok (.sAtomCas (w.extractLsb' 19 7) (w.extractLsb' 13 6) (Order.ofBits (w.extractLsb' 4 2)))) := by
  unfold decodeScalarAtomic
  rw [h]
  rfl
theorem decodeScalarAtomic_12 {w : Word} (h : w.extractLsb' 0 4 = 12) :
    decodeScalarAtomic w = (needZero w 6 7 <| .ok (.sAtomLd (w.extractLsb' 19 7) (w.extractLsb' 13 6) (Order.ofBits (w.extractLsb' 4 2)))) := by
  unfold decodeScalarAtomic
  rw [h]
  rfl
theorem decodeScalarAtomic_13 {w : Word} (h : w.extractLsb' 0 4 = 13) :
    decodeScalarAtomic w = (needZero w 19 7 <| .ok (.sAtomSt (w.extractLsb' 13 6) (w.extractLsb' 6 7) (Order.ofBits (w.extractLsb' 4 2)))) := by
  unfold decodeScalarAtomic
  rw [h]
  rfl
theorem decodeControl_0 {w : Word} (h : w.extractLsb' 0 5 = 0) :
    decodeControl w = (needZero w 5 7 <| needZero w 19 7 <| .ok (.callr (w.extractLsb' 12 7))) := by
  unfold decodeControl
  rw [h]
  rfl
theorem decodeControl_1 {w : Word} (h : w.extractLsb' 0 5 = 1) :
    decodeControl w = (needZero w 5 7 <| needZero w 19 7 <| .ok (.jmpr (w.extractLsb' 12 7))) := by
  unfold decodeControl
  rw [h]
  rfl
theorem decodeControl_2 {w : Word} (h : w.extractLsb' 0 5 = 2) :
    decodeControl w = (needZero w 5 21 <| .ok .ret) := by
  unfold decodeControl
  rw [h]
  rfl
theorem decodeControl_3 {w : Word} (h : w.extractLsb' 0 5 = 3) :
    decodeControl w = (needZero w 5 7 <| needZero w 19 7 <| .ok (.ppush (w.extractLsb' 12 7))) := by
  unfold decodeControl
  rw [h]
  rfl
theorem decodeControl_4 {w : Word} (h : w.extractLsb' 0 5 = 4) :
    decodeControl w = (needZero w 5 21 <| .ok .pinv) := by
  unfold decodeControl
  rw [h]
  rfl
theorem decodeControl_5 {w : Word} (h : w.extractLsb' 0 5 = 5) :
    decodeControl w = (needZero w 5 21 <| .ok .ppop) := by
  unfold decodeControl
  rw [h]
  rfl
theorem decodeControl_6 {w : Word} (h : w.extractLsb' 0 5 = 6) :
    decodeControl w = (needZero w 5 14 <| .ok (.pstkGet (w.extractLsb' 19 7))) := by
  unfold decodeControl
  rw [h]
  rfl
theorem decodeLaneArith_0 {w : Word} (h : w.extractLsb' 0 5 = 0) :
    decodeLaneArith w = (.ok (.vAdd (w.extractLsb' 19 7) (w.extractLsb' 12 7) (w.extractLsb' 5 7))) := by
  unfold decodeLaneArith
  rw [h]
  rfl
theorem decodeLaneArith_1 {w : Word} (h : w.extractLsb' 0 5 = 1) :
    decodeLaneArith w = (.ok (.vSub (w.extractLsb' 19 7) (w.extractLsb' 12 7) (w.extractLsb' 5 7))) := by
  unfold decodeLaneArith
  rw [h]
  rfl
theorem decodeLaneArith_2 {w : Word} (h : w.extractLsb' 0 5 = 2) :
    decodeLaneArith w = (.ok (.vMul (w.extractLsb' 19 7) (w.extractLsb' 12 7) (w.extractLsb' 5 7))) := by
  unfold decodeLaneArith
  rw [h]
  rfl
theorem decodeLaneArith_3 {w : Word} (h : w.extractLsb' 0 5 = 3) :
    decodeLaneArith w = (.ok (.vMulh (w.extractLsb' 19 7) (w.extractLsb' 12 7) (w.extractLsb' 5 7))) := by
  unfold decodeLaneArith
  rw [h]
  rfl
theorem decodeLaneArith_4 {w : Word} (h : w.extractLsb' 0 5 = 4) :
    decodeLaneArith w = (.ok (.vFma (w.extractLsb' 19 7) (w.extractLsb' 12 7) (w.extractLsb' 5 7))) := by
  unfold decodeLaneArith
  rw [h]
  rfl
theorem decodeLaneArith_5 {w : Word} (h : w.extractLsb' 0 5 = 5) :
    decodeLaneArith w = (.ok (.vFms (w.extractLsb' 19 7) (w.extractLsb' 12 7) (w.extractLsb' 5 7))) := by
  unfold decodeLaneArith
  rw [h]
  rfl
theorem decodeLaneArith_6 {w : Word} (h : w.extractLsb' 0 5 = 6) :
    decodeLaneArith w = (.ok (.vFnma (w.extractLsb' 19 7) (w.extractLsb' 12 7) (w.extractLsb' 5 7))) := by
  unfold decodeLaneArith
  rw [h]
  rfl
theorem decodeLaneArith_7 {w : Word} (h : w.extractLsb' 0 5 = 7) :
    decodeLaneArith w = (.ok (.vMin (w.extractLsb' 19 7) (w.extractLsb' 12 7) (w.extractLsb' 5 7))) := by
  unfold decodeLaneArith
  rw [h]
  rfl
theorem decodeLaneArith_8 {w : Word} (h : w.extractLsb' 0 5 = 8) :
    decodeLaneArith w = (.ok (.vMax (w.extractLsb' 19 7) (w.extractLsb' 12 7) (w.extractLsb' 5 7))) := by
  unfold decodeLaneArith
  rw [h]
  rfl
theorem decodeLaneArith_9 {w : Word} (h : w.extractLsb' 0 5 = 9) :
    decodeLaneArith w = (needZero w 5 7 <| .ok (.vAbs (w.extractLsb' 19 7) (w.extractLsb' 12 7))) := by
  unfold decodeLaneArith
  rw [h]
  rfl
theorem decodeLaneArith_10 {w : Word} (h : w.extractLsb' 0 5 = 10) :
    decodeLaneArith w = (needZero w 5 7 <| .ok (.vNeg (w.extractLsb' 19 7) (w.extractLsb' 12 7))) := by
  unfold decodeLaneArith
  rw [h]
  rfl
theorem decodeLaneArith_11 {w : Word} (h : w.extractLsb' 0 5 = 11) :
    decodeLaneArith w = (.ok (.vDot2 (w.extractLsb' 19 7) (w.extractLsb' 12 7) (w.extractLsb' 5 7))) := by
  unfold decodeLaneArith
  rw [h]
  rfl
theorem decodeLaneArith_12 {w : Word} (h : w.extractLsb' 0 5 = 12) :
    decodeLaneArith w = (needZero w 5 7 <| .ok (.vMov (w.extractLsb' 19 7) (w.extractLsb' 12 7))) := by
  unfold decodeLaneArith
  rw [h]
  rfl
theorem decodeLaneBit_0 {w : Word} (h : w.extractLsb' 0 5 = 0) :
    decodeLaneBit w = (.ok (.vAnd (w.extractLsb' 19 7) (w.extractLsb' 12 7) (w.extractLsb' 5 7))) := by
  unfold decodeLaneBit
  rw [h]
  rfl
theorem decodeLaneBit_1 {w : Word} (h : w.extractLsb' 0 5 = 1) :
    decodeLaneBit w = (.ok (.vOr (w.extractLsb' 19 7) (w.extractLsb' 12 7) (w.extractLsb' 5 7))) := by
  unfold decodeLaneBit
  rw [h]
  rfl
theorem decodeLaneBit_2 {w : Word} (h : w.extractLsb' 0 5 = 2) :
    decodeLaneBit w = (.ok (.vXor (w.extractLsb' 19 7) (w.extractLsb' 12 7) (w.extractLsb' 5 7))) := by
  unfold decodeLaneBit
  rw [h]
  rfl
theorem decodeLaneBit_3 {w : Word} (h : w.extractLsb' 0 5 = 3) :
    decodeLaneBit w = (needZero w 5 7 <| .ok (.vNot (w.extractLsb' 19 7) (w.extractLsb' 12 7))) := by
  unfold decodeLaneBit
  rw [h]
  rfl
theorem decodeLaneBit_4 {w : Word} (h : w.extractLsb' 0 5 = 4) :
    decodeLaneBit w = (.ok (.vShl (w.extractLsb' 19 7) (w.extractLsb' 12 7) (w.extractLsb' 5 7))) := by
  unfold decodeLaneBit
  rw [h]
  rfl
theorem decodeLaneBit_5 {w : Word} (h : w.extractLsb' 0 5 = 5) :
    decodeLaneBit w = (.ok (.vShr (w.extractLsb' 19 7) (w.extractLsb' 12 7) (w.extractLsb' 5 7))) := by
  unfold decodeLaneBit
  rw [h]
  rfl
theorem decodeLaneBit_6 {w : Word} (h : w.extractLsb' 0 5 = 6) :
    decodeLaneBit w = (.ok (.vSar (w.extractLsb' 19 7) (w.extractLsb' 12 7) (w.extractLsb' 5 7))) := by
  unfold decodeLaneBit
  rw [h]
  rfl
theorem decodeLaneBit_7 {w : Word} (h : w.extractLsb' 0 5 = 7) :
    decodeLaneBit w = (.ok (.vRotl (w.extractLsb' 19 7) (w.extractLsb' 12 7) (w.extractLsb' 5 7))) := by
  unfold decodeLaneBit
  rw [h]
  rfl
theorem decodeLaneBit_8 {w : Word} (h : w.extractLsb' 0 5 = 8) :
    decodeLaneBit w = (.ok (.vSel (w.extractLsb' 19 7) (w.extractLsb' 12 7) (w.extractLsb' 5 7))) := by
  unfold decodeLaneBit
  rw [h]
  rfl
theorem decodeLaneBit_9 {w : Word} (h : w.extractLsb' 0 5 = 9) :
    decodeLaneBit w = (needZero w 5 7 <| .ok (.vClz (w.extractLsb' 19 7) (w.extractLsb' 12 7))) := by
  unfold decodeLaneBit
  rw [h]
  rfl
theorem decodeLaneBit_10 {w : Word} (h : w.extractLsb' 0 5 = 10) :
    decodeLaneBit w = (needZero w 5 7 <| .ok (.vPopc (w.extractLsb' 19 7) (w.extractLsb' 12 7))) := by
  unfold decodeLaneBit
  rw [h]
  rfl
theorem decodeCompare_0 {w : Word} (h : w.extractLsb' 0 5 = 0) :
    decodeCompare w = (.ok (.vCmpEq (w.extractLsb' 19 7) (w.extractLsb' 12 7) (w.extractLsb' 5 7))) := by
  unfold decodeCompare
  rw [h]
  rfl
theorem decodeCompare_1 {w : Word} (h : w.extractLsb' 0 5 = 1) :
    decodeCompare w = (.ok (.vCmpNe (w.extractLsb' 19 7) (w.extractLsb' 12 7) (w.extractLsb' 5 7))) := by
  unfold decodeCompare
  rw [h]
  rfl
theorem decodeCompare_2 {w : Word} (h : w.extractLsb' 0 5 = 2) :
    decodeCompare w = (.ok (.vCmpLt (w.extractLsb' 19 7) (w.extractLsb' 12 7) (w.extractLsb' 5 7))) := by
  unfold decodeCompare
  rw [h]
  rfl
theorem decodeCompare_3 {w : Word} (h : w.extractLsb' 0 5 = 3) :
    decodeCompare w = (.ok (.vCmpLe (w.extractLsb' 19 7) (w.extractLsb' 12 7) (w.extractLsb' 5 7))) := by
  unfold decodeCompare
  rw [h]
  rfl
theorem decodeCompare_4 {w : Word} (h : w.extractLsb' 0 5 = 4) :
    decodeCompare w = (.ok (.vCmpGt (w.extractLsb' 19 7) (w.extractLsb' 12 7) (w.extractLsb' 5 7))) := by
  unfold decodeCompare
  rw [h]
  rfl
theorem decodeCompare_5 {w : Word} (h : w.extractLsb' 0 5 = 5) :
    decodeCompare w = (.ok (.vCmpGe (w.extractLsb' 19 7) (w.extractLsb' 12 7) (w.extractLsb' 5 7))) := by
  unfold decodeCompare
  rw [h]
  rfl
theorem decodeCompare_6 {w : Word} (h : w.extractLsb' 0 5 = 6) :
    decodeCompare w = (.ok (.vCmpLtu (w.extractLsb' 19 7) (w.extractLsb' 12 7) (w.extractLsb' 5 7))) := by
  unfold decodeCompare
  rw [h]
  rfl
theorem decodeCompare_7 {w : Word} (h : w.extractLsb' 0 5 = 7) :
    decodeCompare w = (.ok (.vCmpLeu (w.extractLsb' 19 7) (w.extractLsb' 12 7) (w.extractLsb' 5 7))) := by
  unfold decodeCompare
  rw [h]
  rfl
theorem decodeCompare_8 {w : Word} (h : w.extractLsb' 0 5 = 8) :
    decodeCompare w = (.ok (.vCmpGtu (w.extractLsb' 19 7) (w.extractLsb' 12 7) (w.extractLsb' 5 7))) := by
  unfold decodeCompare
  rw [h]
  rfl
theorem decodeCompare_9 {w : Word} (h : w.extractLsb' 0 5 = 9) :
    decodeCompare w = (.ok (.vCmpGeu (w.extractLsb' 19 7) (w.extractLsb' 12 7) (w.extractLsb' 5 7))) := by
  unfold decodeCompare
  rw [h]
  rfl
theorem decodeCompare_10 {w : Word} (h : w.extractLsb' 0 5 = 10) :
    decodeCompare w = (.ok (.vCmpUn (w.extractLsb' 19 7) (w.extractLsb' 12 7) (w.extractLsb' 5 7))) := by
  unfold decodeCompare
  rw [h]
  rfl
theorem decodeCompare_11 {w : Word} (h : w.extractLsb' 0 5 = 11) :
    decodeCompare w = (.ok (.vCmpOrd (w.extractLsb' 19 7) (w.extractLsb' 12 7) (w.extractLsb' 5 7))) := by
  unfold decodeCompare
  rw [h]
  rfl
theorem decodeSpecial_0 {w : Word} (h : w.extractLsb' 0 5 = 0) :
    decodeSpecial w = (needZero w 5 7 <| .ok (.vRcp (w.extractLsb' 19 7) (w.extractLsb' 12 7))) := by
  unfold decodeSpecial
  rw [h]
  rfl
theorem decodeSpecial_1 {w : Word} (h : w.extractLsb' 0 5 = 1) :
    decodeSpecial w = (needZero w 5 7 <| .ok (.vRsq (w.extractLsb' 19 7) (w.extractLsb' 12 7))) := by
  unfold decodeSpecial
  rw [h]
  rfl
theorem decodeSpecial_2 {w : Word} (h : w.extractLsb' 0 5 = 2) :
    decodeSpecial w = (needZero w 5 7 <| .ok (.vSqrt (w.extractLsb' 19 7) (w.extractLsb' 12 7))) := by
  unfold decodeSpecial
  rw [h]
  rfl
theorem decodeSpecial_3 {w : Word} (h : w.extractLsb' 0 5 = 3) :
    decodeSpecial w = (needZero w 5 7 <| .ok (.vExp2 (w.extractLsb' 19 7) (w.extractLsb' 12 7))) := by
  unfold decodeSpecial
  rw [h]
  rfl
theorem decodeSpecial_4 {w : Word} (h : w.extractLsb' 0 5 = 4) :
    decodeSpecial w = (needZero w 5 7 <| .ok (.vLog2 (w.extractLsb' 19 7) (w.extractLsb' 12 7))) := by
  unfold decodeSpecial
  rw [h]
  rfl
theorem decodeSpecial_5 {w : Word} (h : w.extractLsb' 0 5 = 5) :
    decodeSpecial w = (needZero w 5 7 <| .ok (.vRred (w.extractLsb' 19 7) (w.extractLsb' 12 7))) := by
  unfold decodeSpecial
  rw [h]
  rfl
theorem decodeSpecial_6 {w : Word} (h : w.extractLsb' 0 5 = 6) :
    decodeSpecial w = (needZero w 5 7 <| .ok (.vSinr (w.extractLsb' 19 7) (w.extractLsb' 12 7))) := by
  unfold decodeSpecial
  rw [h]
  rfl
theorem decodeSpecial_7 {w : Word} (h : w.extractLsb' 0 5 = 7) :
    decodeSpecial w = (needZero w 5 7 <| .ok (.vCosr (w.extractLsb' 19 7) (w.extractLsb' 12 7))) := by
  unfold decodeSpecial
  rw [h]
  rfl
theorem decodeSpecial_8 {w : Word} (h : w.extractLsb' 0 5 = 8) :
    decodeSpecial w = ((ConvTarget.ofBits (w.extractLsb' 5 5)).elim (.error .reservedConversion) fun cc => .ok (.vCvt (w.extractLsb' 19 7) (w.extractLsb' 12 7) (RoundOverride.ofBits (w.extractLsb' 10 2)) cc)) := by
  unfold decodeSpecial
  rw [h]
  rfl
theorem decodeSpecial_9 {w : Word} (h : w.extractLsb' 0 5 = 9) :
    decodeSpecial w = ((ConvTarget.ofBits (w.extractLsb' 5 5)).elim (.error .reservedConversion) fun cc => .ok (.vPack (w.extractLsb' 19 7) (w.extractLsb' 12 7) (RoundOverride.ofBits (w.extractLsb' 10 2)) cc)) := by
  unfold decodeSpecial
  rw [h]
  rfl
theorem decodeSpecial_10 {w : Word} (h : w.extractLsb' 0 5 = 10) :
    decodeSpecial w = (needZero w 6 6 <| .ok (.vUnpk (w.extractLsb' 19 7) (w.extractLsb' 12 7) (Half.ofBits (w.extractLsb' 5 1)))) := by
  unfold decodeSpecial
  rw [h]
  rfl
theorem decodeCrossLane_0 {w : Word} (h : w.extractLsb' 0 5 = 0) :
    decodeCrossLane w = (.ok (.vPermXor (w.extractLsb' 19 7) (w.extractLsb' 12 7) (w.extractLsb' 5 7))) := by
  unfold decodeCrossLane
  rw [h]
  rfl
theorem decodeCrossLane_1 {w : Word} (h : w.extractLsb' 0 5 = 1) :
    decodeCrossLane w = (.ok (.vPermRot (w.extractLsb' 19 7) (w.extractLsb' 12 7) (w.extractLsb' 5 7))) := by
  unfold decodeCrossLane
  rw [h]
  rfl
theorem decodeCrossLane_2 {w : Word} (h : w.extractLsb' 0 5 = 2) :
    decodeCrossLane w = (.ok (.vPermBc (w.extractLsb' 19 7) (w.extractLsb' 12 7) (w.extractLsb' 5 7))) := by
  unfold decodeCrossLane
  rw [h]
  rfl
theorem decodeCrossLane_3 {w : Word} (h : w.extractLsb' 0 5 = 3) :
    decodeCrossLane w = (.ok (.vPermIdx (w.extractLsb' 19 7) (w.extractLsb' 12 7) (w.extractLsb' 5 7))) := by
  unfold decodeCrossLane
  rw [h]
  rfl
theorem decodeCrossLane_4 {w : Word} (h : w.extractLsb' 0 5 = 4) :
    decodeCrossLane w = (needZero w 5 7 <| .ok (.vBcast (w.extractLsb' 19 7) (w.extractLsb' 12 7))) := by
  unfold decodeCrossLane
  rw [h]
  rfl
theorem decodeCrossLane_5 {w : Word} (h : w.extractLsb' 0 5 = 5) :
    decodeCrossLane w = (needZero w 5 7 <| (LaneSel.ofBits (w.extractLsb' 12 7)).elim (.error .reservedSelector) fun sel => .ok (.vLaneid (w.extractLsb' 19 7) sel)) := by
  unfold decodeCrossLane
  rw [h]
  rfl
theorem decodeCrossLane_6 {w : Word} (h : w.extractLsb' 0 5 = 6) :
    decodeCrossLane w = ((RedOp.ofBits (w.extractLsb' 5 7)).elim (.error .reservedReduction) fun op => .ok (.vRed (w.extractLsb' 19 7) (w.extractLsb' 12 7) op)) := by
  unfold decodeCrossLane
  rw [h]
  rfl
theorem decodeCrossLane_7 {w : Word} (h : w.extractLsb' 0 5 = 7) :
    decodeCrossLane w = ((RedOp.ofBits (w.extractLsb' 5 7)).elim (.error .reservedReduction) fun op => .ok (.vScan (w.extractLsb' 19 7) (w.extractLsb' 12 7) op)) := by
  unfold decodeCrossLane
  rw [h]
  rfl
theorem decodeCrossLane_8 {w : Word} (h : w.extractLsb' 0 5 = 8) :
    decodeCrossLane w = (needZero w 5 7 <| .ok (.vVtos (w.extractLsb' 19 7) (w.extractLsb' 12 7))) := by
  unfold decodeCrossLane
  rw [h]
  rfl
theorem decodeCrossLane_9 {w : Word} (h : w.extractLsb' 0 5 = 9) :
    decodeCrossLane w = (.ok (.vBallot (w.extractLsb' 19 7) (w.extractLsb' 12 7) (w.extractLsb' 5 7))) := by
  unfold decodeCrossLane
  rw [h]
  rfl
theorem decodePredicate_0 {w : Word} (h : w.extractLsb' 0 5 = 0) :
    decodePredicate w = (.ok (.predAnd (w.extractLsb' 19 7) (w.extractLsb' 12 7) (w.extractLsb' 5 7))) := by
  unfold decodePredicate
  rw [h]
  rfl
theorem decodePredicate_1 {w : Word} (h : w.extractLsb' 0 5 = 1) :
    decodePredicate w = (.ok (.predOr (w.extractLsb' 19 7) (w.extractLsb' 12 7) (w.extractLsb' 5 7))) := by
  unfold decodePredicate
  rw [h]
  rfl
theorem decodePredicate_2 {w : Word} (h : w.extractLsb' 0 5 = 2) :
    decodePredicate w = (.ok (.predXor (w.extractLsb' 19 7) (w.extractLsb' 12 7) (w.extractLsb' 5 7))) := by
  unfold decodePredicate
  rw [h]
  rfl
theorem decodePredicate_3 {w : Word} (h : w.extractLsb' 0 5 = 3) :
    decodePredicate w = (.ok (.predAndn (w.extractLsb' 19 7) (w.extractLsb' 12 7) (w.extractLsb' 5 7))) := by
  unfold decodePredicate
  rw [h]
  rfl
theorem decodePredicate_4 {w : Word} (h : w.extractLsb' 0 5 = 4) :
    decodePredicate w = (needZero w 5 7 <| .ok (.predNot (w.extractLsb' 19 7) (w.extractLsb' 12 7))) := by
  unfold decodePredicate
  rw [h]
  rfl
theorem decodePredicate_5 {w : Word} (h : w.extractLsb' 0 5 = 5) :
    decodePredicate w = (needZero w 5 7 <| .ok (.predMov (w.extractLsb' 19 7) (w.extractLsb' 12 7))) := by
  unfold decodePredicate
  rw [h]
  rfl
theorem decodePredicate_6 {w : Word} (h : w.extractLsb' 0 5 = 6) :
    decodePredicate w = (needZero w 5 14 <| .ok (.predSet (w.extractLsb' 19 7))) := by
  unfold decodePredicate
  rw [h]
  rfl
theorem decodePredicate_7 {w : Word} (h : w.extractLsb' 0 5 = 7) :
    decodePredicate w = (needZero w 5 14 <| .ok (.predClr (w.extractLsb' 19 7))) := by
  unfold decodePredicate
  rw [h]
  rfl
theorem decodePredicate_8 {w : Word} (h : w.extractLsb' 0 5 = 8) :
    decodePredicate w = (needZero w 5 7 <| .ok (.predAny (w.extractLsb' 19 7) (w.extractLsb' 12 7))) := by
  unfold decodePredicate
  rw [h]
  rfl
theorem decodePredicate_9 {w : Word} (h : w.extractLsb' 0 5 = 9) :
    decodePredicate w = (needZero w 5 7 <| .ok (.predAll (w.extractLsb' 19 7) (w.extractLsb' 12 7))) := by
  unfold decodePredicate
  rw [h]
  rfl
theorem decodePredicate_10 {w : Word} (h : w.extractLsb' 0 5 = 10) :
    decodePredicate w = (needZero w 5 7 <| .ok (.predCount (w.extractLsb' 19 7) (w.extractLsb' 12 7))) := by
  unfold decodePredicate
  rw [h]
  rfl
theorem decodePredicate_11 {w : Word} (h : w.extractLsb' 0 5 = 11) :
    decodePredicate w = (needZero w 5 7 <| .ok (.predFroms (w.extractLsb' 19 7) (w.extractLsb' 12 7))) := by
  unfold decodePredicate
  rw [h]
  rfl
theorem decodeLaneAtomic_0 {w : Word} (h : w.extractLsb' 0 4 = 0) :
    decodeLaneAtomic w = (.ok (.vAtomAdd (w.extractLsb' 19 7) (w.extractLsb' 13 6) (w.extractLsb' 6 7) (Order.ofBits (w.extractLsb' 4 2)))) := by
  unfold decodeLaneAtomic
  rw [h]
  rfl
theorem decodeLaneAtomic_1 {w : Word} (h : w.extractLsb' 0 4 = 1) :
    decodeLaneAtomic w = (.ok (.vAtomAnd (w.extractLsb' 19 7) (w.extractLsb' 13 6) (w.extractLsb' 6 7) (Order.ofBits (w.extractLsb' 4 2)))) := by
  unfold decodeLaneAtomic
  rw [h]
  rfl
theorem decodeLaneAtomic_2 {w : Word} (h : w.extractLsb' 0 4 = 2) :
    decodeLaneAtomic w = (.ok (.vAtomOr (w.extractLsb' 19 7) (w.extractLsb' 13 6) (w.extractLsb' 6 7) (Order.ofBits (w.extractLsb' 4 2)))) := by
  unfold decodeLaneAtomic
  rw [h]
  rfl
theorem decodeLaneAtomic_3 {w : Word} (h : w.extractLsb' 0 4 = 3) :
    decodeLaneAtomic w = (.ok (.vAtomXor (w.extractLsb' 19 7) (w.extractLsb' 13 6) (w.extractLsb' 6 7) (Order.ofBits (w.extractLsb' 4 2)))) := by
  unfold decodeLaneAtomic
  rw [h]
  rfl
theorem decodeLaneAtomic_4 {w : Word} (h : w.extractLsb' 0 4 = 4) :
    decodeLaneAtomic w = (.ok (.vAtomMin (w.extractLsb' 19 7) (w.extractLsb' 13 6) (w.extractLsb' 6 7) (Order.ofBits (w.extractLsb' 4 2)))) := by
  unfold decodeLaneAtomic
  rw [h]
  rfl
theorem decodeLaneAtomic_5 {w : Word} (h : w.extractLsb' 0 4 = 5) :
    decodeLaneAtomic w = (.ok (.vAtomMax (w.extractLsb' 19 7) (w.extractLsb' 13 6) (w.extractLsb' 6 7) (Order.ofBits (w.extractLsb' 4 2)))) := by
  unfold decodeLaneAtomic
  rw [h]
  rfl
theorem decodeLaneAtomic_6 {w : Word} (h : w.extractLsb' 0 4 = 6) :
    decodeLaneAtomic w = (.ok (.vAtomMinu (w.extractLsb' 19 7) (w.extractLsb' 13 6) (w.extractLsb' 6 7) (Order.ofBits (w.extractLsb' 4 2)))) := by
  unfold decodeLaneAtomic
  rw [h]
  rfl
theorem decodeLaneAtomic_7 {w : Word} (h : w.extractLsb' 0 4 = 7) :
    decodeLaneAtomic w = (.ok (.vAtomMaxu (w.extractLsb' 19 7) (w.extractLsb' 13 6) (w.extractLsb' 6 7) (Order.ofBits (w.extractLsb' 4 2)))) := by
  unfold decodeLaneAtomic
  rw [h]
  rfl
theorem decodeLaneAtomic_8 {w : Word} (h : w.extractLsb' 0 4 = 8) :
    decodeLaneAtomic w = (.ok (.vAtomSwap (w.extractLsb' 19 7) (w.extractLsb' 13 6) (w.extractLsb' 6 7) (Order.ofBits (w.extractLsb' 4 2)))) := by
  unfold decodeLaneAtomic
  rw [h]
  rfl
theorem decodeLaneAtomic_9 {w : Word} (h : w.extractLsb' 0 4 = 9) :
    decodeLaneAtomic w = (.ok (.vAtomCas (w.extractLsb' 19 7) (w.extractLsb' 13 6) (w.extractLsb' 6 7) (Order.ofBits (w.extractLsb' 4 2)))) := by
  unfold decodeLaneAtomic
  rw [h]
  rfl
theorem decodeLaneAtomic_10 {w : Word} (h : w.extractLsb' 0 4 = 10) :
    decodeLaneAtomic w = (.ok (.vAtomAddf (w.extractLsb' 19 7) (w.extractLsb' 13 6) (w.extractLsb' 6 7) (Order.ofBits (w.extractLsb' 4 2)))) := by
  unfold decodeLaneAtomic
  rw [h]
  rfl
theorem decodeLaneAtomic_11 {w : Word} (h : w.extractLsb' 0 4 = 11) :
    decodeLaneAtomic w = (.ok (.vAtomAddbf (w.extractLsb' 19 7) (w.extractLsb' 13 6) (w.extractLsb' 6 7) (Order.ofBits (w.extractLsb' 4 2)))) := by
  unfold decodeLaneAtomic
  rw [h]
  rfl
theorem decodeLaneAtomic_12 {w : Word} (h : w.extractLsb' 0 4 = 12) :
    decodeLaneAtomic w = (.ok (.vAtomLd (w.extractLsb' 19 7) (w.extractLsb' 13 6) (w.extractLsb' 6 7) (Order.ofBits (w.extractLsb' 4 2)))) := by
  unfold decodeLaneAtomic
  rw [h]
  rfl
theorem decodeLaneAtomic_13 {w : Word} (h : w.extractLsb' 0 4 = 13) :
    decodeLaneAtomic w = (.ok (.vAtomSt (w.extractLsb' 19 7) (w.extractLsb' 13 6) (w.extractLsb' 6 7) (Order.ofBits (w.extractLsb' 4 2)))) := by
  unfold decodeLaneAtomic
  rw [h]
  rfl
theorem decodePlane_0 {w : Word} (h : w.extractLsb' 8 4 = 0) :
    decodePlane w = (.ok (.pShift (w.extractLsb' 23 3) (w.extractLsb' 20 3) (Axis.ofBits (w.extractLsb' 18 2)) (w.extractLsb' 12 6) (w.extractLsb' 0 8))) := by
  unfold decodePlane
  rw [h]
  rfl
theorem decodePlane_1 {w : Word} (h : w.extractLsb' 8 4 = 1) :
    decodePlane w = (.ok (.pRot (w.extractLsb' 23 3) (w.extractLsb' 20 3) (Axis.ofBits (w.extractLsb' 18 2)) (w.extractLsb' 12 6) (w.extractLsb' 0 8))) := by
  unfold decodePlane
  rw [h]
  rfl
theorem decodePlane_2 {w : Word} (h : w.extractLsb' 8 4 = 2) :
    decodePlane w = (.ok (.pSpread (w.extractLsb' 23 3) (w.extractLsb' 20 3) (Axis.ofBits (w.extractLsb' 18 2)) (w.extractLsb' 12 6) (w.extractLsb' 0 8))) := by
  unfold decodePlane
  rw [h]
  rfl
theorem decodePlane_3 {w : Word} (h : w.extractLsb' 8 4 = 3) :
    decodePlane w = (needZero w 0 8 <| needZero w 12 6 <| .ok (.pFoldAdd (w.extractLsb' 23 3) (w.extractLsb' 20 3) (Axis.ofBits (w.extractLsb' 18 2)))) := by
  unfold decodePlane
  rw [h]
  rfl
theorem decodePlane_4 {w : Word} (h : w.extractLsb' 8 4 = 4) :
    decodePlane w = (needZero w 0 8 <| needZero w 12 6 <| .ok (.pFoldMax (w.extractLsb' 23 3) (w.extractLsb' 20 3) (Axis.ofBits (w.extractLsb' 18 2)))) := by
  unfold decodePlane
  rw [h]
  rfl
theorem decodePlane_5 {w : Word} (h : w.extractLsb' 8 4 = 5) :
    decodePlane w = (needZero w 0 8 <| needZero w 12 6 <| .ok (.pFoldMin (w.extractLsb' 23 3) (w.extractLsb' 20 3) (Axis.ofBits (w.extractLsb' 18 2)))) := by
  unfold decodePlane
  rw [h]
  rfl
theorem decodePlane_6 {w : Word} (h : w.extractLsb' 8 4 = 6) :
    decodePlane w = (needZero w 0 8 <| needZero w 12 6 <| .ok (.pFoldStack (w.extractLsb' 23 3) (w.extractLsb' 20 3) (Axis.ofBits (w.extractLsb' 18 2)))) := by
  unfold decodePlane
  rw [h]
  rfl
theorem decodePlane_7 {w : Word} (h : w.extractLsb' 8 4 = 7) :
    decodePlane w = (needZero w 0 8 <| needZero w 12 8 <| .ok (.pRefold (w.extractLsb' 23 3) (w.extractLsb' 20 3))) := by
  unfold decodePlane
  rw [h]
  rfl
theorem decodePlane_8 {w : Word} (h : w.extractLsb' 8 4 = 8) :
    decodePlane w = (needZero w 0 8 <| needZero w 18 5 <| .ok (.pGset (w.extractLsb' 23 3) (w.extractLsb' 12 6))) := by
  unfold decodePlane
  rw [h]
  rfl
theorem decodePlane_9 {w : Word} (h : w.extractLsb' 8 4 = 9) :
    decodePlane w = (needZero w 0 8 <| needZero w 18 2 <| needZero w 23 3 <| .ok (.pGget (w.extractLsb' 20 3) (w.extractLsb' 12 6))) := by
  unfold decodePlane
  rw [h]
  rfl
theorem decodeLoupe_0 {w : Word} (h : w.extractLsb' 0 5 = 0) :
    decodeLoupe w = (needZero w 19 7 <| .ok (.lWr (w.extractLsb' 12 7) (w.extractLsb' 5 7))) := by
  unfold decodeLoupe
  rw [h]
  rfl
theorem decodeLoupe_1 {w : Word} (h : w.extractLsb' 0 5 = 1) :
    decodeLoupe w = (needZero w 5 14 <| .ok (.lRdt (w.extractLsb' 19 7))) := by
  unfold decodeLoupe
  rw [h]
  rfl
theorem decodeLoupe_2 {w : Word} (h : w.extractLsb' 0 5 = 2) :
    decodeLoupe w = (needZero w 5 14 <| .ok (.lRd (w.extractLsb' 19 7))) := by
  unfold decodeLoupe
  rw [h]
  rfl
theorem decodeLoupe_3 {w : Word} (h : w.extractLsb' 0 5 = 3) :
    decodeLoupe w = (needZero w 5 21 <| .ok .lClr) := by
  unfold decodeLoupe
  rw [h]
  rfl
theorem decodeSync_0 {w : Word} (h : w.extractLsb' 0 5 = 0) :
    decodeSync w = (needZero w 5 21 <| .ok .fence) := by
  unfold decodeSync
  rw [h]
  rfl
theorem decodeSync_1 {w : Word} (h : w.extractLsb' 0 5 = 1) :
    decodeSync w = (needZero w 5 21 <| .ok .fenceAcq) := by
  unfold decodeSync
  rw [h]
  rfl
theorem decodeSync_2 {w : Word} (h : w.extractLsb' 0 5 = 2) :
    decodeSync w = (needZero w 5 21 <| .ok .fenceRel) := by
  unfold decodeSync
  rw [h]
  rfl
theorem decodeSync_3 {w : Word} (h : w.extractLsb' 0 5 = 3) :
    decodeSync w = (needZero w 19 7 <| .ok (.barInit (w.extractLsb' 12 7) (w.extractLsb' 5 7))) := by
  unfold decodeSync
  rw [h]
  rfl
theorem decodeSync_4 {w : Word} (h : w.extractLsb' 0 5 = 4) :
    decodeSync w = (needZero w 5 7 <| .ok (.barArrive (w.extractLsb' 19 7) (w.extractLsb' 12 7))) := by
  unfold decodeSync
  rw [h]
  rfl
theorem decodeSync_5 {w : Word} (h : w.extractLsb' 0 5 = 5) :
    decodeSync w = (needZero w 19 7 <| .ok (.barExpect (w.extractLsb' 12 7) (w.extractLsb' 5 7))) := by
  unfold decodeSync
  rw [h]
  rfl
theorem decodeSync_6 {w : Word} (h : w.extractLsb' 0 5 = 6) :
    decodeSync w = (needZero w 19 7 <| .ok (.barWait (w.extractLsb' 12 7) (w.extractLsb' 5 7))) := by
  unfold decodeSync
  rw [h]
  rfl
theorem decodeSync_7 {w : Word} (h : w.extractLsb' 0 5 = 7) :
    decodeSync w = (needZero w 5 7 <| needZero w 22 4 <| .ok (.wait (w.extractLsb' 19 3) (w.extractLsb' 12 7))) := by
  unfold decodeSync
  rw [h]
  rfl
theorem decodeSync_8 {w : Word} (h : w.extractLsb' 0 5 = 8) :
    decodeSync w = (needZero w 5 7 <| needZero w 19 7 <| .ok (.qfence (w.extractLsb' 12 7))) := by
  unfold decodeSync
  rw [h]
  rfl
theorem decodeSync_10 {w : Word} (h : w.extractLsb' 0 5 = 10) :
    decodeSync w = (needZero w 5 21 <| .ok .walksync) := by
  unfold decodeSync
  rw [h]
  rfl
theorem decodeSync_11 {w : Word} (h : w.extractLsb' 0 5 = 11) :
    decodeSync w = (needZero w 19 7 <| .ok (.scWb (w.extractLsb' 12 7) (w.extractLsb' 5 7))) := by
  unfold decodeSync
  rw [h]
  rfl
theorem decodeSync_12 {w : Word} (h : w.extractLsb' 0 5 = 12) :
    decodeSync w = (needZero w 19 7 <| .ok (.scDrop (w.extractLsb' 12 7) (w.extractLsb' 5 7))) := by
  unfold decodeSync
  rw [h]
  rfl
theorem decodeCopy_0 {w : Word} (h : w.extractLsb' 0 5 = 0) :
    decodeCopy w = (needZero w 19 7 <| .ok (.cpy (w.extractLsb' 12 7) (w.extractLsb' 5 7))) := by
  unfold decodeCopy
  rw [h]
  rfl
theorem decodeCopy_2 {w : Word} (h : w.extractLsb' 0 5 = 2) :
    decodeCopy w = (needZero w 5 7 <| needZero w 19 7 <| .ok (.chain (w.extractLsb' 12 7))) := by
  unfold decodeCopy
  rw [h]
  rfl
theorem decodeMatrix_0 {w : Word} (h : w.extractLsb' 4 4 = 0) :
    decodeMatrix w = (.ok (.mxMma (w.extractLsb' 23 3) (w.extractLsb' 20 3) (w.extractLsb' 14 6) (w.extractLsb' 8 6) (w.getLsbD 0) (w.getLsbD 1) (w.getLsbD 2) (w.getLsbD 3))) := by
  unfold decodeMatrix
  rw [h]
  rfl
theorem decodeMatrix_1 {w : Word} (h : w.extractLsb' 4 4 = 1) :
    decodeMatrix w = (needZero w 3 1 <| .ok (.mxKmma (w.extractLsb' 23 3) (w.extractLsb' 20 3) (w.extractLsb' 14 6) (w.extractLsb' 8 6) (w.getLsbD 0) (w.getLsbD 1) (w.getLsbD 2))) := by
  unfold decodeMatrix
  rw [h]
  rfl
theorem decodeMatrix_2 {w : Word} (h : w.extractLsb' 4 4 = 2) :
    decodeMatrix w = (needZero w 0 4 <| needZero w 8 15 <| .ok (.mxZero (w.extractLsb' 23 3))) := by
  unfold decodeMatrix
  rw [h]
  rfl
theorem decodeMatrix_3 {w : Word} (h : w.extractLsb' 4 4 = 3) :
    decodeMatrix w = (needZero w 0 4 <| needZero w 20 3 <| .ok (.mxAccrd (w.extractLsb' 23 3) (w.extractLsb' 14 6) (w.extractLsb' 8 6))) := by
  unfold decodeMatrix
  rw [h]
  rfl
theorem decodeMatrix_4 {w : Word} (h : w.extractLsb' 4 4 = 4) :
    decodeMatrix w = (needZero w 0 4 <| needZero w 20 3 <| .ok (.mxAccwr (w.extractLsb' 23 3) (w.extractLsb' 14 6) (w.extractLsb' 8 6))) := by
  unfold decodeMatrix
  rw [h]
  rfl
theorem decodeMatrix_5 {w : Word} (h : w.extractLsb' 4 4 = 5) :
    decodeMatrix w = (needZero w 0 4 <| needZero w 8 6 <| needZero w 20 6 <| .ok (.mxFence (w.extractLsb' 14 6))) := by
  unfold decodeMatrix
  rw [h]
  rfl
theorem decodeMatrix_6 {w : Word} (h : w.extractLsb' 4 4 = 6) :
    decodeMatrix w = (needZero w 0 4 <| needZero w 8 6 <| needZero w 20 6 <| .ok (.mxWait (w.extractLsb' 14 6))) := by
  unfold decodeMatrix
  rw [h]
  rfl
theorem decodeMatrix_7 {w : Word} (h : w.extractLsb' 4 4 = 7) :
    decodeMatrix w = (needZero w 0 4 <| needZero w 8 6 <| needZero w 20 6 <| .ok (.mxSave (w.extractLsb' 14 6))) := by
  unfold decodeMatrix
  rw [h]
  rfl
theorem decodeMatrix_8 {w : Word} (h : w.extractLsb' 4 4 = 8) :
    decodeMatrix w = (needZero w 0 4 <| needZero w 8 6 <| needZero w 20 6 <| .ok (.mxResume (w.extractLsb' 14 6))) := by
  unfold decodeMatrix
  rw [h]
  rfl
theorem decodeMatrix_9 {w : Word} (h : w.extractLsb' 4 4 = 9) :
    decodeMatrix w = (needZero w 0 4 <| needZero w 20 6 <| .ok (.mxStreamOpen (w.extractLsb' 14 6) (w.extractLsb' 8 6))) := by
  unfold decodeMatrix
  rw [h]
  rfl
theorem decodeMatrix_10 {w : Word} (h : w.extractLsb' 4 4 = 10) :
    decodeMatrix w = (needZero w 0 4 <| needZero w 20 6 <| .ok (.mxSub (w.extractLsb' 14 6) (w.extractLsb' 8 6))) := by
  unfold decodeMatrix
  rw [h]
  rfl
theorem decodeMatrix_11 {w : Word} (h : w.extractLsb' 4 4 = 11) :
    decodeMatrix w = (needZero w 0 4 <| needZero w 8 6 <| needZero w 20 6 <| .ok (.mxSetgang (w.extractLsb' 14 6))) := by
  unfold decodeMatrix
  rw [h]
  rfl
theorem decodeTable_0 {w : Word} (h : w.extractLsb' 4 4 = 0) :
    decodeTable w = (needZero w 0 4 <| needZero w 8 6 <| .ok (.tblKbuild (w.extractLsb' 23 3) (w.extractLsb' 20 3) (w.extractLsb' 14 6))) := by
  unfold decodeTable
  rw [h]
  rfl
theorem decodeTable_1 {w : Word} (h : w.extractLsb' 4 4 = 1) :
    decodeTable w = (needZero w 0 4 <| needZero w 8 15 <| .ok (.tblKinv (w.extractLsb' 23 3))) := by
  unfold decodeTable
  rw [h]
  rfl
theorem decodeTable_2 {w : Word} (h : w.extractLsb' 4 4 = 2) :
    decodeTable w = (needZero w 0 4 <| needZero w 8 15 <| .ok (.tblKdetach (w.extractLsb' 23 3))) := by
  unfold decodeTable
  rw [h]
  rfl
theorem decodeTable_3 {w : Word} (h : w.extractLsb' 4 4 = 3) :
    decodeTable w = (needZero w 0 4 <| needZero w 8 6 <| needZero w 20 3 <| .ok (.tblKtest (w.extractLsb' 23 3) (w.extractLsb' 14 6))) := by
  unfold decodeTable
  rw [h]
  rfl

/-- Decoding is reading the fields and checking them. -/
theorem decode_of_fields {w : Word} {i : Instr} (hf : decodeFields w = .ok i) (hi : i.illFormed = none) : decode w = .ok i := by
  unfold decode
  rw [hf]
  simp only [hi]

namespace Laws.Encoding

/-- The word of an instruction that no check refuses decodes to the instruction. -/
def Statement (i : Instr) : Prop := i.illFormed = none → ∀ w, encode i = some w → decode w = .ok i

theorem of_fields {i : Instr} {x : Word} (he : encode i = some x) (hf : decodeFields x = .ok i) : Statement i := by
  intro hi w hw
  rw [he] at hw
  cases hw
  exact decode_of_fields hf hi

theorem of_event {i : Instr} (he : encode i = none) : Statement i := by
  intro _ w hw
  rw [he] at hw
  cases hw

theorem nop : Statement .nop := by
  refine of_fields rfl (((major0 (fmtRR_op ..)).trans (decodeSystem_0 (fmtRR_f ..))).trans ?_)
  simp only [needZero, fmtRR_dab]
  rfl
theorem trap (d : BitVec 7) : Statement (.trap d) := by
  refine of_fields rfl (((major0 (fmtRR_op ..)).trans (decodeSystem_1 (fmtRR_f ..))).trans ?_)
  simp only [needZero, fmtRR_ab, fmtRR_d]
  rfl
theorem eret : Statement .eret := by
  refine of_fields rfl (((major0 (fmtRR_op ..)).trans (decodeSystem_2 (fmtRR_f ..))).trans ?_)
  simp only [needZero, fmtRR_dab]
  rfl
theorem sysr (d : BitVec 7) (b : BitVec 7) : Statement (.sysr d b) := by
  refine of_fields rfl (((major0 (fmtRR_op ..)).trans (decodeSystem_3 (fmtRR_f ..))).trans ?_)
  simp only [needZero, fmtRR_b, fmtRR_a, fmtRR_d]
  rfl
theorem sysw (a : BitVec 7) (b : BitVec 7) : Statement (.sysw a b) := by
  refine of_fields rfl (((major0 (fmtRR_op ..)).trans (decodeSystem_4 (fmtRR_f ..))).trans ?_)
  simp only [needZero, fmtRR_b, fmtRR_a, fmtRR_d]
  rfl
theorem yield : Statement .yield := by
  refine of_fields rfl (((major0 (fmtRR_op ..)).trans (decodeSystem_5 (fmtRR_f ..))).trans ?_)
  simp only [needZero, fmtRR_dab]
  rfl
theorem perf (a : BitVec 7) : Statement (.perf a) := by
  refine of_fields rfl (((major0 (fmtRR_op ..)).trans (decodeSystem_6 (fmtRR_f ..))).trans ?_)
  simp only [needZero, fmtRR_b, fmtRR_a, fmtRR_d]
  rfl
theorem region : Statement .region := by
  refine of_fields rfl (((major0 (fmtRR_op ..)).trans (decodeSystem_7 (fmtRR_f ..))).trans ?_)
  simp only [needZero, fmtRR_dab]
  rfl
theorem vers (d : BitVec 7) : Statement (.vers d) := by
  refine of_fields rfl (((major0 (fmtRR_op ..)).trans (decodeSystem_8 (fmtRR_f ..))).trans ?_)
  simp only [needZero, fmtRR_ab, fmtRR_d]
  rfl
theorem cycles (d : BitVec 7) : Statement (.cycles d) := by
  refine of_fields rfl (((major0 (fmtRR_op ..)).trans (decodeSystem_9 (fmtRR_f ..))).trans ?_)
  simp only [needZero, fmtRR_ab, fmtRR_d]
  rfl
theorem icinv (a : BitVec 7) (b : BitVec 7) : Statement (.icinv a b) := by
  refine of_fields rfl (((major0 (fmtRR_op ..)).trans (decodeSystem_10 (fmtRR_f ..))).trans ?_)
  simp only [needZero, fmtRR_b, fmtRR_a, fmtRR_d]
  rfl
theorem pgreq (a : BitVec 7) : Statement (.pgreq a) := by
  refine of_fields rfl (((major0 (fmtRR_op ..)).trans (decodeSystem_11 (fmtRR_f ..))).trans ?_)
  simp only [needZero, fmtRR_b, fmtRR_a, fmtRR_d]
  rfl
theorem launch (a : BitVec 7) (b : BitVec 7) : Statement (.launch a b) := by
  refine of_fields rfl (((major0 (fmtRR_op ..)).trans (decodeSystem_12 (fmtRR_f ..))).trans ?_)
  simp only [needZero, fmtRR_b, fmtRR_a, fmtRR_d]
  rfl
theorem exit : Statement .exit := by
  refine of_fields rfl (((major0 (fmtRR_op ..)).trans (decodeSystem_13 (fmtRR_f ..))).trans ?_)
  simp only [needZero, fmtRR_dab]
  rfl
theorem bkpt : Statement .bkpt := by
  refine of_fields rfl (((major0 (fmtRR_op ..)).trans (decodeSystem_14 (fmtRR_f ..))).trans ?_)
  simp only [needZero, fmtRR_dab]
  rfl
theorem modeSet (a : BitVec 7) (b : BitVec 7) : Statement (.modeSet a b) := by
  refine of_fields rfl (((major0 (fmtRR_op ..)).trans (decodeSystem_15 (fmtRR_f ..))).trans ?_)
  simp only [needZero, fmtRR_b, fmtRR_a, fmtRR_d]
  rfl
theorem modeGet (d : BitVec 7) : Statement (.modeGet d) := by
  refine of_fields rfl (((major0 (fmtRR_op ..)).trans (decodeSystem_16 (fmtRR_f ..))).trans ?_)
  simp only [needZero, fmtRR_ab, fmtRR_d]
  rfl
theorem sAdd (d : BitVec 7) (a : BitVec 7) (b : BitVec 7) : Statement (.sAdd d a b) := by
  refine of_fields rfl (((major1 (fmtRR_op ..)).trans (decodeScalar_0 (fmtRR_f ..))).trans ?_)
  simp only [fmtRR_b, fmtRR_a, fmtRR_d]
theorem sSub (d : BitVec 7) (a : BitVec 7) (b : BitVec 7) : Statement (.sSub d a b) := by
  refine of_fields rfl (((major1 (fmtRR_op ..)).trans (decodeScalar_1 (fmtRR_f ..))).trans ?_)
  simp only [fmtRR_b, fmtRR_a, fmtRR_d]
theorem sMul (d : BitVec 7) (a : BitVec 7) (b : BitVec 7) : Statement (.sMul d a b) := by
  refine of_fields rfl (((major1 (fmtRR_op ..)).trans (decodeScalar_2 (fmtRR_f ..))).trans ?_)
  simp only [fmtRR_b, fmtRR_a, fmtRR_d]
theorem sMulh (d : BitVec 7) (a : BitVec 7) (b : BitVec 7) : Statement (.sMulh d a b) := by
  refine of_fields rfl (((major1 (fmtRR_op ..)).trans (decodeScalar_3 (fmtRR_f ..))).trans ?_)
  simp only [fmtRR_b, fmtRR_a, fmtRR_d]
theorem sMulhu (d : BitVec 7) (a : BitVec 7) (b : BitVec 7) : Statement (.sMulhu d a b) := by
  refine of_fields rfl (((major1 (fmtRR_op ..)).trans (decodeScalar_4 (fmtRR_f ..))).trans ?_)
  simp only [fmtRR_b, fmtRR_a, fmtRR_d]
theorem sDiv (d : BitVec 7) (a : BitVec 7) (b : BitVec 7) : Statement (.sDiv d a b) := by
  refine of_fields rfl (((major1 (fmtRR_op ..)).trans (decodeScalar_5 (fmtRR_f ..))).trans ?_)
  simp only [fmtRR_b, fmtRR_a, fmtRR_d]
theorem sDivu (d : BitVec 7) (a : BitVec 7) (b : BitVec 7) : Statement (.sDivu d a b) := by
  refine of_fields rfl (((major1 (fmtRR_op ..)).trans (decodeScalar_6 (fmtRR_f ..))).trans ?_)
  simp only [fmtRR_b, fmtRR_a, fmtRR_d]
theorem sRem (d : BitVec 7) (a : BitVec 7) (b : BitVec 7) : Statement (.sRem d a b) := by
  refine of_fields rfl (((major1 (fmtRR_op ..)).trans (decodeScalar_7 (fmtRR_f ..))).trans ?_)
  simp only [fmtRR_b, fmtRR_a, fmtRR_d]
theorem sRemu (d : BitVec 7) (a : BitVec 7) (b : BitVec 7) : Statement (.sRemu d a b) := by
  refine of_fields rfl (((major1 (fmtRR_op ..)).trans (decodeScalar_8 (fmtRR_f ..))).trans ?_)
  simp only [fmtRR_b, fmtRR_a, fmtRR_d]
theorem sAnd (d : BitVec 7) (a : BitVec 7) (b : BitVec 7) : Statement (.sAnd d a b) := by
  refine of_fields rfl (((major1 (fmtRR_op ..)).trans (decodeScalar_9 (fmtRR_f ..))).trans ?_)
  simp only [fmtRR_b, fmtRR_a, fmtRR_d]
theorem sOr (d : BitVec 7) (a : BitVec 7) (b : BitVec 7) : Statement (.sOr d a b) := by
  refine of_fields rfl (((major1 (fmtRR_op ..)).trans (decodeScalar_10 (fmtRR_f ..))).trans ?_)
  simp only [fmtRR_b, fmtRR_a, fmtRR_d]
theorem sXor (d : BitVec 7) (a : BitVec 7) (b : BitVec 7) : Statement (.sXor d a b) := by
  refine of_fields rfl (((major1 (fmtRR_op ..)).trans (decodeScalar_11 (fmtRR_f ..))).trans ?_)
  simp only [fmtRR_b, fmtRR_a, fmtRR_d]
theorem sShl (d : BitVec 7) (a : BitVec 7) (b : BitVec 7) : Statement (.sShl d a b) := by
  refine of_fields rfl (((major1 (fmtRR_op ..)).trans (decodeScalar_12 (fmtRR_f ..))).trans ?_)
  simp only [fmtRR_b, fmtRR_a, fmtRR_d]
theorem sShr (d : BitVec 7) (a : BitVec 7) (b : BitVec 7) : Statement (.sShr d a b) := by
  refine of_fields rfl (((major1 (fmtRR_op ..)).trans (decodeScalar_13 (fmtRR_f ..))).trans ?_)
  simp only [fmtRR_b, fmtRR_a, fmtRR_d]
theorem sSar (d : BitVec 7) (a : BitVec 7) (b : BitVec 7) : Statement (.sSar d a b) := by
  refine of_fields rfl (((major1 (fmtRR_op ..)).trans (decodeScalar_14 (fmtRR_f ..))).trans ?_)
  simp only [fmtRR_b, fmtRR_a, fmtRR_d]
theorem sMin (d : BitVec 7) (a : BitVec 7) (b : BitVec 7) : Statement (.sMin d a b) := by
  refine of_fields rfl (((major1 (fmtRR_op ..)).trans (decodeScalar_15 (fmtRR_f ..))).trans ?_)
  simp only [fmtRR_b, fmtRR_a, fmtRR_d]
theorem sMax (d : BitVec 7) (a : BitVec 7) (b : BitVec 7) : Statement (.sMax d a b) := by
  refine of_fields rfl (((major1 (fmtRR_op ..)).trans (decodeScalar_16 (fmtRR_f ..))).trans ?_)
  simp only [fmtRR_b, fmtRR_a, fmtRR_d]
theorem sMinu (d : BitVec 7) (a : BitVec 7) (b : BitVec 7) : Statement (.sMinu d a b) := by
  refine of_fields rfl (((major1 (fmtRR_op ..)).trans (decodeScalar_17 (fmtRR_f ..))).trans ?_)
  simp only [fmtRR_b, fmtRR_a, fmtRR_d]
theorem sMaxu (d : BitVec 7) (a : BitVec 7) (b : BitVec 7) : Statement (.sMaxu d a b) := by
  refine of_fields rfl (((major1 (fmtRR_op ..)).trans (decodeScalar_18 (fmtRR_f ..))).trans ?_)
  simp only [fmtRR_b, fmtRR_a, fmtRR_d]
theorem sSlt (d : BitVec 7) (a : BitVec 7) (b : BitVec 7) : Statement (.sSlt d a b) := by
  refine of_fields rfl (((major1 (fmtRR_op ..)).trans (decodeScalar_19 (fmtRR_f ..))).trans ?_)
  simp only [fmtRR_b, fmtRR_a, fmtRR_d]
theorem sSltu (d : BitVec 7) (a : BitVec 7) (b : BitVec 7) : Statement (.sSltu d a b) := by
  refine of_fields rfl (((major1 (fmtRR_op ..)).trans (decodeScalar_20 (fmtRR_f ..))).trans ?_)
  simp only [fmtRR_b, fmtRR_a, fmtRR_d]
theorem sSeq (d : BitVec 7) (a : BitVec 7) (b : BitVec 7) : Statement (.sSeq d a b) := by
  refine of_fields rfl (((major1 (fmtRR_op ..)).trans (decodeScalar_21 (fmtRR_f ..))).trans ?_)
  simp only [fmtRR_b, fmtRR_a, fmtRR_d]
theorem sClz (d : BitVec 7) (a : BitVec 7) : Statement (.sClz d a) := by
  refine of_fields rfl (((major1 (fmtRR_op ..)).trans (decodeScalar_22 (fmtRR_f ..))).trans ?_)
  simp only [needZero, fmtRR_b, fmtRR_a, fmtRR_d]
  rfl
theorem sPopc (d : BitVec 7) (a : BitVec 7) : Statement (.sPopc d a) := by
  refine of_fields rfl (((major1 (fmtRR_op ..)).trans (decodeScalar_23 (fmtRR_f ..))).trans ?_)
  simp only [needZero, fmtRR_b, fmtRR_a, fmtRR_d]
  rfl
theorem sAddi (d : BitVec 7) (a : BitVec 7) (imm : BitVec 12) : Statement (.sAddi d a imm) := by
  refine of_fields rfl ((major2 (fmtIM_op ..)).trans ?_)
  simp only [fmtIM_i, fmtIM_a, fmtIM_d]
theorem sAndi (d : BitVec 7) (a : BitVec 7) (imm : BitVec 12) : Statement (.sAndi d a imm) := by
  refine of_fields rfl ((major3 (fmtIM_op ..)).trans ?_)
  simp only [fmtIM_i, fmtIM_a, fmtIM_d]
theorem sOri (d : BitVec 7) (a : BitVec 7) (imm : BitVec 12) : Statement (.sOri d a imm) := by
  refine of_fields rfl ((major4 (fmtIM_op ..)).trans ?_)
  simp only [fmtIM_i, fmtIM_a, fmtIM_d]
theorem sXori (d : BitVec 7) (a : BitVec 7) (imm : BitVec 12) : Statement (.sXori d a imm) := by
  refine of_fields rfl ((major5 (fmtIM_op ..)).trans ?_)
  simp only [fmtIM_i, fmtIM_a, fmtIM_d]
theorem sShli (d : BitVec 7) (a : BitVec 7) (imm : BitVec 12) : Statement (.sShli d a imm) := by
  refine of_fields rfl ((major6 (fmtIM_op ..)).trans ?_)
  simp only [fmtIM_i, fmtIM_a, fmtIM_d]
theorem sShri (d : BitVec 7) (a : BitVec 7) (imm : BitVec 12) : Statement (.sShri d a imm) := by
  refine of_fields rfl ((major7 (fmtIM_op ..)).trans ?_)
  simp only [fmtIM_i, fmtIM_a, fmtIM_d]
theorem sSari (d : BitVec 7) (a : BitVec 7) (imm : BitVec 12) : Statement (.sSari d a imm) := by
  refine of_fields rfl ((major8 (fmtIM_op ..)).trans ?_)
  simp only [fmtIM_i, fmtIM_a, fmtIM_d]
theorem sSlti (d : BitVec 7) (a : BitVec 7) (imm : BitVec 12) : Statement (.sSlti d a imm) := by
  refine of_fields rfl ((major9 (fmtIM_op ..)).trans ?_)
  simp only [fmtIM_i, fmtIM_a, fmtIM_d]
theorem sLui (d : BitVec 6) (imm : BitVec 20) : Statement (.sLui d imm) := by
  refine of_fields rfl ((major10 (fmtUP_op ..)).trans ?_)
  simp only [fmtUP_i, fmtUP_d]
theorem sAupc (d : BitVec 6) (imm : BitVec 20) : Statement (.sAupc d imm) := by
  refine of_fields rfl ((major11 (fmtUP_op ..)).trans ?_)
  simp only [fmtUP_i, fmtUP_d]
theorem sLd (d : BitVec 6) (a : BitVec 6) (la : BitVec 4) (w : Strength) (size : Size) (imm : BitVec 7) : Statement (.sLd d a la w size imm) := by
  refine of_fields rfl ((major12 (fmtSM_op ..)).trans ?_)
  simp only [fmtSM_i, fmtSM_z, fmtSM_w, fmtSM_l, fmtSM_a, fmtSM_d, Strength.ofBits_bits, Size.ofBits_bits]
theorem sLdu (d : BitVec 6) (a : BitVec 6) (la : BitVec 4) (w : Strength) (size : Size) (imm : BitVec 7) : Statement (.sLdu d a la w size imm) := by
  refine of_fields rfl ((major13 (fmtSM_op ..)).trans ?_)
  simp only [fmtSM_i, fmtSM_z, fmtSM_w, fmtSM_l, fmtSM_a, fmtSM_d, Strength.ofBits_bits, Size.ofBits_bits]
theorem sSt (d : BitVec 6) (a : BitVec 6) (w : Strength) (size : Size) (imm : BitVec 7) : Statement (.sSt d a w size imm) := by
  refine of_fields rfl ((major14 (fmtSM_op ..)).trans ?_)
  simp only [needZero, fmtSM_i, fmtSM_z, fmtSM_w, fmtSM_l, fmtSM_a, fmtSM_d, Strength.ofBits_bits, Size.ofBits_bits]
  rfl
theorem sAtomAdd (d : BitVec 7) (a : BitVec 6) (b : BitVec 7) (order : Order) : Statement (.sAtomAdd d a b order) := by
  refine of_fields rfl (((major15 (fmtAT_op ..)).trans (decodeScalarAtomic_0 (fmtAT_f ..))).trans ?_)
  simp only [fmtAT_o, fmtAT_b, fmtAT_a, fmtAT_d, Order.ofBits_bits]
theorem sAtomAnd (d : BitVec 7) (a : BitVec 6) (b : BitVec 7) (order : Order) : Statement (.sAtomAnd d a b order) := by
  refine of_fields rfl (((major15 (fmtAT_op ..)).trans (decodeScalarAtomic_1 (fmtAT_f ..))).trans ?_)
  simp only [fmtAT_o, fmtAT_b, fmtAT_a, fmtAT_d, Order.ofBits_bits]
theorem sAtomOr (d : BitVec 7) (a : BitVec 6) (b : BitVec 7) (order : Order) : Statement (.sAtomOr d a b order) := by
  refine of_fields rfl (((major15 (fmtAT_op ..)).trans (decodeScalarAtomic_2 (fmtAT_f ..))).trans ?_)
  simp only [fmtAT_o, fmtAT_b, fmtAT_a, fmtAT_d, Order.ofBits_bits]
theorem sAtomXor (d : BitVec 7) (a : BitVec 6) (b : BitVec 7) (order : Order) : Statement (.sAtomXor d a b order) := by
  refine of_fields rfl (((major15 (fmtAT_op ..)).trans (decodeScalarAtomic_3 (fmtAT_f ..))).trans ?_)
  simp only [fmtAT_o, fmtAT_b, fmtAT_a, fmtAT_d, Order.ofBits_bits]
theorem sAtomMin (d : BitVec 7) (a : BitVec 6) (b : BitVec 7) (order : Order) : Statement (.sAtomMin d a b order) := by
  refine of_fields rfl (((major15 (fmtAT_op ..)).trans (decodeScalarAtomic_4 (fmtAT_f ..))).trans ?_)
  simp only [fmtAT_o, fmtAT_b, fmtAT_a, fmtAT_d, Order.ofBits_bits]
theorem sAtomMax (d : BitVec 7) (a : BitVec 6) (b : BitVec 7) (order : Order) : Statement (.sAtomMax d a b order) := by
  refine of_fields rfl (((major15 (fmtAT_op ..)).trans (decodeScalarAtomic_5 (fmtAT_f ..))).trans ?_)
  simp only [fmtAT_o, fmtAT_b, fmtAT_a, fmtAT_d, Order.ofBits_bits]
theorem sAtomMinu (d : BitVec 7) (a : BitVec 6) (b : BitVec 7) (order : Order) : Statement (.sAtomMinu d a b order) := by
  refine of_fields rfl (((major15 (fmtAT_op ..)).trans (decodeScalarAtomic_6 (fmtAT_f ..))).trans ?_)
  simp only [fmtAT_o, fmtAT_b, fmtAT_a, fmtAT_d, Order.ofBits_bits]
theorem sAtomMaxu (d : BitVec 7) (a : BitVec 6) (b : BitVec 7) (order : Order) : Statement (.sAtomMaxu d a b order) := by
  refine of_fields rfl (((major15 (fmtAT_op ..)).trans (decodeScalarAtomic_7 (fmtAT_f ..))).trans ?_)
  simp only [fmtAT_o, fmtAT_b, fmtAT_a, fmtAT_d, Order.ofBits_bits]
theorem sAtomSwap (d : BitVec 7) (a : BitVec 6) (b : BitVec 7) (order : Order) : Statement (.sAtomSwap d a b order) := by
  refine of_fields rfl (((major15 (fmtAT_op ..)).trans (decodeScalarAtomic_8 (fmtAT_f ..))).trans ?_)
  simp only [fmtAT_o, fmtAT_b, fmtAT_a, fmtAT_d, Order.ofBits_bits]
theorem sAtomCas (d : BitVec 7) (a : BitVec 6) (order : Order) : Statement (.sAtomCas d a order) := by
  refine of_fields rfl (((major15 (fmtAT_op ..)).trans (decodeScalarAtomic_9 (fmtAT_f ..))).trans ?_)
  simp only [needZero, fmtAT_o, fmtAT_b, fmtAT_a, fmtAT_d, Order.ofBits_bits]
  rfl
theorem sAtomLd (d : BitVec 7) (a : BitVec 6) (order : Order) : Statement (.sAtomLd d a order) := by
  refine of_fields rfl (((major15 (fmtAT_op ..)).trans (decodeScalarAtomic_12 (fmtAT_f ..))).trans ?_)
  simp only [needZero, fmtAT_o, fmtAT_b, fmtAT_a, fmtAT_d, Order.ofBits_bits]
  rfl
theorem sAtomSt (a : BitVec 6) (b : BitVec 7) (order : Order) : Statement (.sAtomSt a b order) := by
  refine of_fields rfl (((major15 (fmtAT_op ..)).trans (decodeScalarAtomic_13 (fmtAT_f ..))).trans ?_)
  simp only [needZero, fmtAT_o, fmtAT_b, fmtAT_a, fmtAT_d, Order.ofBits_bits]
  rfl
theorem br (off : BitVec 26) : Statement (.br off) := by
  refine of_fields rfl ((major16 (fmtJP_op ..)).trans ?_)
  simp only [fmtJP_o]
theorem call (off : BitVec 26) : Statement (.call off) := by
  refine of_fields rfl ((major17 (fmtJP_op ..)).trans ?_)
  simp only [fmtJP_o]
theorem brz (c : BitVec 7) (off : BitVec 19) : Statement (.brz c off) := by
  refine of_fields rfl ((major18 (fmtBC_op ..)).trans ?_)
  simp only [fmtBC_o, fmtBC_c]
theorem brnz (c : BitVec 7) (off : BitVec 19) : Statement (.brnz c off) := by
  refine of_fields rfl ((major19 (fmtBC_op ..)).trans ?_)
  simp only [fmtBC_o, fmtBC_c]
theorem brp (p : BitVec 4) (test : Test) (off : BitVec 19) : Statement (.brp p test off) := by
  refine of_fields rfl ((major20 (fmtBC_op ..)).trans ?_)
  simp only [fmtBC_c_lo3, fmtBC_c_hi4, fmtBC_o, extract_lo p test.bits 0 3 (by decide), extract_hi p test.bits 3 4 (by decide),
    Nat.sub_self, extract_all, Test.ofBits_bits]
  rfl
theorem brd (p : BitVec 4) (off : BitVec 19) : Statement (.brd p off) := by
  refine of_fields rfl ((major21 (fmtBC_op ..)).trans ?_)
  simp only [needZero, fmtBC_c_lo3, fmtBC_c_hi4, fmtBC_o, extract_lo p 0#3 0 3 (by decide), extract_hi p 0#3 3 4 (by decide),
    Nat.sub_self, extract_all]
  rfl
theorem recv (off : BitVec 19) : Statement (.recv off) := by
  refine of_fields rfl ((major22 (fmtBC_op ..)).trans ?_)
  simp only [needZero, fmtBC_o, fmtBC_c]
  rfl
theorem loop (c : BitVec 7) (off : BitVec 19) : Statement (.loop c off) := by
  refine of_fields rfl ((major23 (fmtBC_op ..)).trans ?_)
  simp only [fmtBC_o, fmtBC_c]
theorem callr (a : BitVec 7) : Statement (.callr a) := by
  refine of_fields rfl (((major24 (fmtRR_op ..)).trans (decodeControl_0 (fmtRR_f ..))).trans ?_)
  simp only [needZero, fmtRR_b, fmtRR_a, fmtRR_d]
  rfl
theorem jmpr (a : BitVec 7) : Statement (.jmpr a) := by
  refine of_fields rfl (((major24 (fmtRR_op ..)).trans (decodeControl_1 (fmtRR_f ..))).trans ?_)
  simp only [needZero, fmtRR_b, fmtRR_a, fmtRR_d]
  rfl
theorem ret : Statement .ret := by
  refine of_fields rfl (((major24 (fmtRR_op ..)).trans (decodeControl_2 (fmtRR_f ..))).trans ?_)
  simp only [needZero, fmtRR_dab]
  rfl
theorem ppush (a : BitVec 7) : Statement (.ppush a) := by
  refine of_fields rfl (((major24 (fmtRR_op ..)).trans (decodeControl_3 (fmtRR_f ..))).trans ?_)
  simp only [needZero, fmtRR_b, fmtRR_a, fmtRR_d]
  rfl
theorem pinv : Statement .pinv := by
  refine of_fields rfl (((major24 (fmtRR_op ..)).trans (decodeControl_4 (fmtRR_f ..))).trans ?_)
  simp only [needZero, fmtRR_dab]
  rfl
theorem ppop : Statement .ppop := by
  refine of_fields rfl (((major24 (fmtRR_op ..)).trans (decodeControl_5 (fmtRR_f ..))).trans ?_)
  simp only [needZero, fmtRR_dab]
  rfl
theorem pstkGet (d : BitVec 7) : Statement (.pstkGet d) := by
  refine of_fields rfl (((major24 (fmtRR_op ..)).trans (decodeControl_6 (fmtRR_f ..))).trans ?_)
  simp only [needZero, fmtRR_ab, fmtRR_d]
  rfl
theorem vAdd (d : BitVec 7) (a : BitVec 7) (b : BitVec 7) : Statement (.vAdd d a b) := by
  refine of_fields rfl (((major25 (fmtRR_op ..)).trans (decodeLaneArith_0 (fmtRR_f ..))).trans ?_)
  simp only [fmtRR_b, fmtRR_a, fmtRR_d]
theorem vSub (d : BitVec 7) (a : BitVec 7) (b : BitVec 7) : Statement (.vSub d a b) := by
  refine of_fields rfl (((major25 (fmtRR_op ..)).trans (decodeLaneArith_1 (fmtRR_f ..))).trans ?_)
  simp only [fmtRR_b, fmtRR_a, fmtRR_d]
theorem vMul (d : BitVec 7) (a : BitVec 7) (b : BitVec 7) : Statement (.vMul d a b) := by
  refine of_fields rfl (((major25 (fmtRR_op ..)).trans (decodeLaneArith_2 (fmtRR_f ..))).trans ?_)
  simp only [fmtRR_b, fmtRR_a, fmtRR_d]
theorem vMulh (d : BitVec 7) (a : BitVec 7) (b : BitVec 7) : Statement (.vMulh d a b) := by
  refine of_fields rfl (((major25 (fmtRR_op ..)).trans (decodeLaneArith_3 (fmtRR_f ..))).trans ?_)
  simp only [fmtRR_b, fmtRR_a, fmtRR_d]
theorem vFma (d : BitVec 7) (a : BitVec 7) (b : BitVec 7) : Statement (.vFma d a b) := by
  refine of_fields rfl (((major25 (fmtRR_op ..)).trans (decodeLaneArith_4 (fmtRR_f ..))).trans ?_)
  simp only [fmtRR_b, fmtRR_a, fmtRR_d]
theorem vFms (d : BitVec 7) (a : BitVec 7) (b : BitVec 7) : Statement (.vFms d a b) := by
  refine of_fields rfl (((major25 (fmtRR_op ..)).trans (decodeLaneArith_5 (fmtRR_f ..))).trans ?_)
  simp only [fmtRR_b, fmtRR_a, fmtRR_d]
theorem vFnma (d : BitVec 7) (a : BitVec 7) (b : BitVec 7) : Statement (.vFnma d a b) := by
  refine of_fields rfl (((major25 (fmtRR_op ..)).trans (decodeLaneArith_6 (fmtRR_f ..))).trans ?_)
  simp only [fmtRR_b, fmtRR_a, fmtRR_d]
theorem vMin (d : BitVec 7) (a : BitVec 7) (b : BitVec 7) : Statement (.vMin d a b) := by
  refine of_fields rfl (((major25 (fmtRR_op ..)).trans (decodeLaneArith_7 (fmtRR_f ..))).trans ?_)
  simp only [fmtRR_b, fmtRR_a, fmtRR_d]
theorem vMax (d : BitVec 7) (a : BitVec 7) (b : BitVec 7) : Statement (.vMax d a b) := by
  refine of_fields rfl (((major25 (fmtRR_op ..)).trans (decodeLaneArith_8 (fmtRR_f ..))).trans ?_)
  simp only [fmtRR_b, fmtRR_a, fmtRR_d]
theorem vAbs (d : BitVec 7) (a : BitVec 7) : Statement (.vAbs d a) := by
  refine of_fields rfl (((major25 (fmtRR_op ..)).trans (decodeLaneArith_9 (fmtRR_f ..))).trans ?_)
  simp only [needZero, fmtRR_b, fmtRR_a, fmtRR_d]
  rfl
theorem vNeg (d : BitVec 7) (a : BitVec 7) : Statement (.vNeg d a) := by
  refine of_fields rfl (((major25 (fmtRR_op ..)).trans (decodeLaneArith_10 (fmtRR_f ..))).trans ?_)
  simp only [needZero, fmtRR_b, fmtRR_a, fmtRR_d]
  rfl
theorem vDot2 (d : BitVec 7) (a : BitVec 7) (b : BitVec 7) : Statement (.vDot2 d a b) := by
  refine of_fields rfl (((major25 (fmtRR_op ..)).trans (decodeLaneArith_11 (fmtRR_f ..))).trans ?_)
  simp only [fmtRR_b, fmtRR_a, fmtRR_d]
theorem vMov (d : BitVec 7) (a : BitVec 7) : Statement (.vMov d a) := by
  refine of_fields rfl (((major25 (fmtRR_op ..)).trans (decodeLaneArith_12 (fmtRR_f ..))).trans ?_)
  simp only [needZero, fmtRR_b, fmtRR_a, fmtRR_d]
  rfl
theorem vAnd (d : BitVec 7) (a : BitVec 7) (b : BitVec 7) : Statement (.vAnd d a b) := by
  refine of_fields rfl (((major26 (fmtRR_op ..)).trans (decodeLaneBit_0 (fmtRR_f ..))).trans ?_)
  simp only [fmtRR_b, fmtRR_a, fmtRR_d]
theorem vOr (d : BitVec 7) (a : BitVec 7) (b : BitVec 7) : Statement (.vOr d a b) := by
  refine of_fields rfl (((major26 (fmtRR_op ..)).trans (decodeLaneBit_1 (fmtRR_f ..))).trans ?_)
  simp only [fmtRR_b, fmtRR_a, fmtRR_d]
theorem vXor (d : BitVec 7) (a : BitVec 7) (b : BitVec 7) : Statement (.vXor d a b) := by
  refine of_fields rfl (((major26 (fmtRR_op ..)).trans (decodeLaneBit_2 (fmtRR_f ..))).trans ?_)
  simp only [fmtRR_b, fmtRR_a, fmtRR_d]
theorem vNot (d : BitVec 7) (a : BitVec 7) : Statement (.vNot d a) := by
  refine of_fields rfl (((major26 (fmtRR_op ..)).trans (decodeLaneBit_3 (fmtRR_f ..))).trans ?_)
  simp only [needZero, fmtRR_b, fmtRR_a, fmtRR_d]
  rfl
theorem vShl (d : BitVec 7) (a : BitVec 7) (b : BitVec 7) : Statement (.vShl d a b) := by
  refine of_fields rfl (((major26 (fmtRR_op ..)).trans (decodeLaneBit_4 (fmtRR_f ..))).trans ?_)
  simp only [fmtRR_b, fmtRR_a, fmtRR_d]
theorem vShr (d : BitVec 7) (a : BitVec 7) (b : BitVec 7) : Statement (.vShr d a b) := by
  refine of_fields rfl (((major26 (fmtRR_op ..)).trans (decodeLaneBit_5 (fmtRR_f ..))).trans ?_)
  simp only [fmtRR_b, fmtRR_a, fmtRR_d]
theorem vSar (d : BitVec 7) (a : BitVec 7) (b : BitVec 7) : Statement (.vSar d a b) := by
  refine of_fields rfl (((major26 (fmtRR_op ..)).trans (decodeLaneBit_6 (fmtRR_f ..))).trans ?_)
  simp only [fmtRR_b, fmtRR_a, fmtRR_d]
theorem vRotl (d : BitVec 7) (a : BitVec 7) (b : BitVec 7) : Statement (.vRotl d a b) := by
  refine of_fields rfl (((major26 (fmtRR_op ..)).trans (decodeLaneBit_7 (fmtRR_f ..))).trans ?_)
  simp only [fmtRR_b, fmtRR_a, fmtRR_d]
theorem vSel (d : BitVec 7) (a : BitVec 7) (b : BitVec 7) : Statement (.vSel d a b) := by
  refine of_fields rfl (((major26 (fmtRR_op ..)).trans (decodeLaneBit_8 (fmtRR_f ..))).trans ?_)
  simp only [fmtRR_b, fmtRR_a, fmtRR_d]
theorem vClz (d : BitVec 7) (a : BitVec 7) : Statement (.vClz d a) := by
  refine of_fields rfl (((major26 (fmtRR_op ..)).trans (decodeLaneBit_9 (fmtRR_f ..))).trans ?_)
  simp only [needZero, fmtRR_b, fmtRR_a, fmtRR_d]
  rfl
theorem vPopc (d : BitVec 7) (a : BitVec 7) : Statement (.vPopc d a) := by
  refine of_fields rfl (((major26 (fmtRR_op ..)).trans (decodeLaneBit_10 (fmtRR_f ..))).trans ?_)
  simp only [needZero, fmtRR_b, fmtRR_a, fmtRR_d]
  rfl
theorem vCmpEq (d : BitVec 7) (a : BitVec 7) (b : BitVec 7) : Statement (.vCmpEq d a b) := by
  refine of_fields rfl (((major27 (fmtRR_op ..)).trans (decodeCompare_0 (fmtRR_f ..))).trans ?_)
  simp only [fmtRR_b, fmtRR_a, fmtRR_d]
theorem vCmpNe (d : BitVec 7) (a : BitVec 7) (b : BitVec 7) : Statement (.vCmpNe d a b) := by
  refine of_fields rfl (((major27 (fmtRR_op ..)).trans (decodeCompare_1 (fmtRR_f ..))).trans ?_)
  simp only [fmtRR_b, fmtRR_a, fmtRR_d]
theorem vCmpLt (d : BitVec 7) (a : BitVec 7) (b : BitVec 7) : Statement (.vCmpLt d a b) := by
  refine of_fields rfl (((major27 (fmtRR_op ..)).trans (decodeCompare_2 (fmtRR_f ..))).trans ?_)
  simp only [fmtRR_b, fmtRR_a, fmtRR_d]
theorem vCmpLe (d : BitVec 7) (a : BitVec 7) (b : BitVec 7) : Statement (.vCmpLe d a b) := by
  refine of_fields rfl (((major27 (fmtRR_op ..)).trans (decodeCompare_3 (fmtRR_f ..))).trans ?_)
  simp only [fmtRR_b, fmtRR_a, fmtRR_d]
theorem vCmpGt (d : BitVec 7) (a : BitVec 7) (b : BitVec 7) : Statement (.vCmpGt d a b) := by
  refine of_fields rfl (((major27 (fmtRR_op ..)).trans (decodeCompare_4 (fmtRR_f ..))).trans ?_)
  simp only [fmtRR_b, fmtRR_a, fmtRR_d]
theorem vCmpGe (d : BitVec 7) (a : BitVec 7) (b : BitVec 7) : Statement (.vCmpGe d a b) := by
  refine of_fields rfl (((major27 (fmtRR_op ..)).trans (decodeCompare_5 (fmtRR_f ..))).trans ?_)
  simp only [fmtRR_b, fmtRR_a, fmtRR_d]
theorem vCmpLtu (d : BitVec 7) (a : BitVec 7) (b : BitVec 7) : Statement (.vCmpLtu d a b) := by
  refine of_fields rfl (((major27 (fmtRR_op ..)).trans (decodeCompare_6 (fmtRR_f ..))).trans ?_)
  simp only [fmtRR_b, fmtRR_a, fmtRR_d]
theorem vCmpLeu (d : BitVec 7) (a : BitVec 7) (b : BitVec 7) : Statement (.vCmpLeu d a b) := by
  refine of_fields rfl (((major27 (fmtRR_op ..)).trans (decodeCompare_7 (fmtRR_f ..))).trans ?_)
  simp only [fmtRR_b, fmtRR_a, fmtRR_d]
theorem vCmpGtu (d : BitVec 7) (a : BitVec 7) (b : BitVec 7) : Statement (.vCmpGtu d a b) := by
  refine of_fields rfl (((major27 (fmtRR_op ..)).trans (decodeCompare_8 (fmtRR_f ..))).trans ?_)
  simp only [fmtRR_b, fmtRR_a, fmtRR_d]
theorem vCmpGeu (d : BitVec 7) (a : BitVec 7) (b : BitVec 7) : Statement (.vCmpGeu d a b) := by
  refine of_fields rfl (((major27 (fmtRR_op ..)).trans (decodeCompare_9 (fmtRR_f ..))).trans ?_)
  simp only [fmtRR_b, fmtRR_a, fmtRR_d]
theorem vCmpUn (d : BitVec 7) (a : BitVec 7) (b : BitVec 7) : Statement (.vCmpUn d a b) := by
  refine of_fields rfl (((major27 (fmtRR_op ..)).trans (decodeCompare_10 (fmtRR_f ..))).trans ?_)
  simp only [fmtRR_b, fmtRR_a, fmtRR_d]
theorem vCmpOrd (d : BitVec 7) (a : BitVec 7) (b : BitVec 7) : Statement (.vCmpOrd d a b) := by
  refine of_fields rfl (((major27 (fmtRR_op ..)).trans (decodeCompare_11 (fmtRR_f ..))).trans ?_)
  simp only [fmtRR_b, fmtRR_a, fmtRR_d]
theorem vRcp (d : BitVec 7) (a : BitVec 7) : Statement (.vRcp d a) := by
  refine of_fields rfl (((major28 (fmtRR_op ..)).trans (decodeSpecial_0 (fmtRR_f ..))).trans ?_)
  simp only [needZero, fmtRR_b, fmtRR_a, fmtRR_d]
  rfl
theorem vRsq (d : BitVec 7) (a : BitVec 7) : Statement (.vRsq d a) := by
  refine of_fields rfl (((major28 (fmtRR_op ..)).trans (decodeSpecial_1 (fmtRR_f ..))).trans ?_)
  simp only [needZero, fmtRR_b, fmtRR_a, fmtRR_d]
  rfl
theorem vSqrt (d : BitVec 7) (a : BitVec 7) : Statement (.vSqrt d a) := by
  refine of_fields rfl (((major28 (fmtRR_op ..)).trans (decodeSpecial_2 (fmtRR_f ..))).trans ?_)
  simp only [needZero, fmtRR_b, fmtRR_a, fmtRR_d]
  rfl
theorem vExp2 (d : BitVec 7) (a : BitVec 7) : Statement (.vExp2 d a) := by
  refine of_fields rfl (((major28 (fmtRR_op ..)).trans (decodeSpecial_3 (fmtRR_f ..))).trans ?_)
  simp only [needZero, fmtRR_b, fmtRR_a, fmtRR_d]
  rfl
theorem vLog2 (d : BitVec 7) (a : BitVec 7) : Statement (.vLog2 d a) := by
  refine of_fields rfl (((major28 (fmtRR_op ..)).trans (decodeSpecial_4 (fmtRR_f ..))).trans ?_)
  simp only [needZero, fmtRR_b, fmtRR_a, fmtRR_d]
  rfl
theorem vRred (d : BitVec 7) (a : BitVec 7) : Statement (.vRred d a) := by
  refine of_fields rfl (((major28 (fmtRR_op ..)).trans (decodeSpecial_5 (fmtRR_f ..))).trans ?_)
  simp only [needZero, fmtRR_b, fmtRR_a, fmtRR_d]
  rfl
theorem vSinr (d : BitVec 7) (a : BitVec 7) : Statement (.vSinr d a) := by
  refine of_fields rfl (((major28 (fmtRR_op ..)).trans (decodeSpecial_6 (fmtRR_f ..))).trans ?_)
  simp only [needZero, fmtRR_b, fmtRR_a, fmtRR_d]
  rfl
theorem vCosr (d : BitVec 7) (a : BitVec 7) : Statement (.vCosr d a) := by
  refine of_fields rfl (((major28 (fmtRR_op ..)).trans (decodeSpecial_7 (fmtRR_f ..))).trans ?_)
  simp only [needZero, fmtRR_b, fmtRR_a, fmtRR_d]
  rfl
theorem vCvt (d : BitVec 7) (a : BitVec 7) (rnd : RoundOverride) (target : ConvTarget) : Statement (.vCvt d a rnd target) := by
  refine of_fields rfl (((major28 (fmtRR_op ..)).trans (decodeSpecial_8 (fmtRR_f ..))).trans ?_)
  rw [fmtRR_d, fmtRR_a, fmtRR_b_lo5, fmtRR_b_hi2, extract_lo _ _ _ _ (by decide), extract_hi _ _ _ _ (by decide), extract_all, extract_all,
    ConvTarget.ofBits_bits, RoundOverride.ofBits_bits]
  rfl
theorem vPack (d : BitVec 7) (a : BitVec 7) (rnd : RoundOverride) (target : ConvTarget) : Statement (.vPack d a rnd target) := by
  refine of_fields rfl (((major28 (fmtRR_op ..)).trans (decodeSpecial_9 (fmtRR_f ..))).trans ?_)
  rw [fmtRR_d, fmtRR_a, fmtRR_b_lo5, fmtRR_b_hi2, extract_lo _ _ _ _ (by decide), extract_hi _ _ _ _ (by decide), extract_all, extract_all,
    ConvTarget.ofBits_bits, RoundOverride.ofBits_bits]
  rfl
theorem vUnpk (d : BitVec 7) (a : BitVec 7) (half : Half) : Statement (.vUnpk d a half) := by
  refine of_fields rfl (((major28 (fmtRR_op ..)).trans (decodeSpecial_10 (fmtRR_f ..))).trans ?_)
  simp only [needZero, fmtRR_d, fmtRR_a, fmtRR_b_lo1, fmtRR_b_hi6]
  cases half <;> rfl
theorem vPermXor (d : BitVec 7) (a : BitVec 7) (b : BitVec 7) : Statement (.vPermXor d a b) := by
  refine of_fields rfl (((major29 (fmtRR_op ..)).trans (decodeCrossLane_0 (fmtRR_f ..))).trans ?_)
  simp only [fmtRR_b, fmtRR_a, fmtRR_d]
theorem vPermRot (d : BitVec 7) (a : BitVec 7) (b : BitVec 7) : Statement (.vPermRot d a b) := by
  refine of_fields rfl (((major29 (fmtRR_op ..)).trans (decodeCrossLane_1 (fmtRR_f ..))).trans ?_)
  simp only [fmtRR_b, fmtRR_a, fmtRR_d]
theorem vPermBc (d : BitVec 7) (a : BitVec 7) (b : BitVec 7) : Statement (.vPermBc d a b) := by
  refine of_fields rfl (((major29 (fmtRR_op ..)).trans (decodeCrossLane_2 (fmtRR_f ..))).trans ?_)
  simp only [fmtRR_b, fmtRR_a, fmtRR_d]
theorem vPermIdx (d : BitVec 7) (a : BitVec 7) (b : BitVec 7) : Statement (.vPermIdx d a b) := by
  refine of_fields rfl (((major29 (fmtRR_op ..)).trans (decodeCrossLane_3 (fmtRR_f ..))).trans ?_)
  simp only [fmtRR_b, fmtRR_a, fmtRR_d]
theorem vBcast (d : BitVec 7) (a : BitVec 7) : Statement (.vBcast d a) := by
  refine of_fields rfl (((major29 (fmtRR_op ..)).trans (decodeCrossLane_4 (fmtRR_f ..))).trans ?_)
  simp only [needZero, fmtRR_b, fmtRR_a, fmtRR_d]
  rfl
theorem vLaneid (d : BitVec 7) (sel : LaneSel) : Statement (.vLaneid d sel) := by
  refine of_fields rfl (((major29 (fmtRR_op ..)).trans (decodeCrossLane_5 (fmtRR_f ..))).trans ?_)
  simp only [needZero, fmtRR_b, fmtRR_a, fmtRR_d, LaneSel.ofBits_bits]
  rfl
theorem vRed (d : BitVec 7) (a : BitVec 7) (op : RedOp) : Statement (.vRed d a op) := by
  refine of_fields rfl (((major29 (fmtRR_op ..)).trans (decodeCrossLane_6 (fmtRR_f ..))).trans ?_)
  simp only [fmtRR_b, fmtRR_a, fmtRR_d, RedOp.ofBits_bits]
  rfl
theorem vScan (d : BitVec 7) (a : BitVec 7) (op : RedOp) : Statement (.vScan d a op) := by
  refine of_fields rfl (((major29 (fmtRR_op ..)).trans (decodeCrossLane_7 (fmtRR_f ..))).trans ?_)
  simp only [fmtRR_b, fmtRR_a, fmtRR_d, RedOp.ofBits_bits]
  rfl
theorem vVtos (d : BitVec 7) (a : BitVec 7) : Statement (.vVtos d a) := by
  refine of_fields rfl (((major29 (fmtRR_op ..)).trans (decodeCrossLane_8 (fmtRR_f ..))).trans ?_)
  simp only [needZero, fmtRR_b, fmtRR_a, fmtRR_d]
  rfl
theorem vBallot (d : BitVec 7) (a : BitVec 7) (b : BitVec 7) : Statement (.vBallot d a b) := by
  refine of_fields rfl (((major29 (fmtRR_op ..)).trans (decodeCrossLane_9 (fmtRR_f ..))).trans ?_)
  simp only [fmtRR_b, fmtRR_a, fmtRR_d]
theorem vAddi (d : BitVec 7) (a : BitVec 7) (imm : BitVec 12) : Statement (.vAddi d a imm) := by
  refine of_fields rfl ((major30 (fmtIM_op ..)).trans ?_)
  simp only [fmtIM_i, fmtIM_a, fmtIM_d]
theorem vMovi (d : BitVec 7) (imm : BitVec 19) : Statement (.vMovi d imm) := by
  refine of_fields rfl ((major31 (fmtVI_op ..)).trans ?_)
  simp only [fmtVI_i, fmtVI_d]
theorem predAnd (d : BitVec 7) (a : BitVec 7) (b : BitVec 7) : Statement (.predAnd d a b) := by
  refine of_fields rfl (((major32 (fmtRR_op ..)).trans (decodePredicate_0 (fmtRR_f ..))).trans ?_)
  simp only [fmtRR_b, fmtRR_a, fmtRR_d]
theorem predOr (d : BitVec 7) (a : BitVec 7) (b : BitVec 7) : Statement (.predOr d a b) := by
  refine of_fields rfl (((major32 (fmtRR_op ..)).trans (decodePredicate_1 (fmtRR_f ..))).trans ?_)
  simp only [fmtRR_b, fmtRR_a, fmtRR_d]
theorem predXor (d : BitVec 7) (a : BitVec 7) (b : BitVec 7) : Statement (.predXor d a b) := by
  refine of_fields rfl (((major32 (fmtRR_op ..)).trans (decodePredicate_2 (fmtRR_f ..))).trans ?_)
  simp only [fmtRR_b, fmtRR_a, fmtRR_d]
theorem predAndn (d : BitVec 7) (a : BitVec 7) (b : BitVec 7) : Statement (.predAndn d a b) := by
  refine of_fields rfl (((major32 (fmtRR_op ..)).trans (decodePredicate_3 (fmtRR_f ..))).trans ?_)
  simp only [fmtRR_b, fmtRR_a, fmtRR_d]
theorem predNot (d : BitVec 7) (a : BitVec 7) : Statement (.predNot d a) := by
  refine of_fields rfl (((major32 (fmtRR_op ..)).trans (decodePredicate_4 (fmtRR_f ..))).trans ?_)
  simp only [needZero, fmtRR_b, fmtRR_a, fmtRR_d]
  rfl
theorem predMov (d : BitVec 7) (a : BitVec 7) : Statement (.predMov d a) := by
  refine of_fields rfl (((major32 (fmtRR_op ..)).trans (decodePredicate_5 (fmtRR_f ..))).trans ?_)
  simp only [needZero, fmtRR_b, fmtRR_a, fmtRR_d]
  rfl
theorem predSet (d : BitVec 7) : Statement (.predSet d) := by
  refine of_fields rfl (((major32 (fmtRR_op ..)).trans (decodePredicate_6 (fmtRR_f ..))).trans ?_)
  simp only [needZero, fmtRR_ab, fmtRR_d]
  rfl
theorem predClr (d : BitVec 7) : Statement (.predClr d) := by
  refine of_fields rfl (((major32 (fmtRR_op ..)).trans (decodePredicate_7 (fmtRR_f ..))).trans ?_)
  simp only [needZero, fmtRR_ab, fmtRR_d]
  rfl
theorem predAny (d : BitVec 7) (a : BitVec 7) : Statement (.predAny d a) := by
  refine of_fields rfl (((major32 (fmtRR_op ..)).trans (decodePredicate_8 (fmtRR_f ..))).trans ?_)
  simp only [needZero, fmtRR_b, fmtRR_a, fmtRR_d]
  rfl
theorem predAll (d : BitVec 7) (a : BitVec 7) : Statement (.predAll d a) := by
  refine of_fields rfl (((major32 (fmtRR_op ..)).trans (decodePredicate_9 (fmtRR_f ..))).trans ?_)
  simp only [needZero, fmtRR_b, fmtRR_a, fmtRR_d]
  rfl
theorem predCount (d : BitVec 7) (a : BitVec 7) : Statement (.predCount d a) := by
  refine of_fields rfl (((major32 (fmtRR_op ..)).trans (decodePredicate_10 (fmtRR_f ..))).trans ?_)
  simp only [needZero, fmtRR_b, fmtRR_a, fmtRR_d]
  rfl
theorem predFroms (d : BitVec 7) (a : BitVec 7) : Statement (.predFroms d a) := by
  refine of_fields rfl (((major32 (fmtRR_op ..)).trans (decodePredicate_11 (fmtRR_f ..))).trans ?_)
  simp only [needZero, fmtRR_b, fmtRR_a, fmtRR_d]
  rfl
theorem vLd (d : BitVec 7) (a : BitVec 6) (b : BitVec 7) (la : BitVec 4) (size : Size) : Statement (.vLd d a b la size) := by
  refine of_fields rfl ((major33 (fmtVM_op ..)).trans ?_)
  simp only [fmtVM_z, fmtVM_l, fmtVM_b, fmtVM_a, fmtVM_d, Size.ofBits_bits]
theorem vLdu (d : BitVec 7) (a : BitVec 6) (b : BitVec 7) (la : BitVec 4) (size : Size) : Statement (.vLdu d a b la size) := by
  refine of_fields rfl ((major34 (fmtVM_op ..)).trans ?_)
  simp only [fmtVM_z, fmtVM_l, fmtVM_b, fmtVM_a, fmtVM_d, Size.ofBits_bits]
theorem vSt (d : BitVec 7) (a : BitVec 6) (b : BitVec 7) (size : Size) : Statement (.vSt d a b size) := by
  refine of_fields rfl ((major35 (fmtVM_op ..)).trans ?_)
  simp only [needZero, fmtVM_z, fmtVM_l, fmtVM_b, fmtVM_a, fmtVM_d, Size.ofBits_bits]
  rfl
theorem vLdx (d : BitVec 7) (a : BitVec 6) (b : BitVec 7) (la : BitVec 4) (size : Size) : Statement (.vLdx d a b la size) := by
  refine of_fields rfl ((major36 (fmtVM_op ..)).trans ?_)
  simp only [fmtVM_z, fmtVM_l, fmtVM_b, fmtVM_a, fmtVM_d, Size.ofBits_bits]
theorem vStx (d : BitVec 7) (a : BitVec 6) (b : BitVec 7) (size : Size) : Statement (.vStx d a b size) := by
  refine of_fields rfl ((major37 (fmtVM_op ..)).trans ?_)
  simp only [needZero, fmtVM_z, fmtVM_l, fmtVM_b, fmtVM_a, fmtVM_d, Size.ofBits_bits]
  rfl
theorem vAtomAdd (d : BitVec 7) (a : BitVec 6) (b : BitVec 7) (order : Order) : Statement (.vAtomAdd d a b order) := by
  refine of_fields rfl (((major38 (fmtAT_op ..)).trans (decodeLaneAtomic_0 (fmtAT_f ..))).trans ?_)
  simp only [fmtAT_o, fmtAT_b, fmtAT_a, fmtAT_d, Order.ofBits_bits]
theorem vAtomAnd (d : BitVec 7) (a : BitVec 6) (b : BitVec 7) (order : Order) : Statement (.vAtomAnd d a b order) := by
  refine of_fields rfl (((major38 (fmtAT_op ..)).trans (decodeLaneAtomic_1 (fmtAT_f ..))).trans ?_)
  simp only [fmtAT_o, fmtAT_b, fmtAT_a, fmtAT_d, Order.ofBits_bits]
theorem vAtomOr (d : BitVec 7) (a : BitVec 6) (b : BitVec 7) (order : Order) : Statement (.vAtomOr d a b order) := by
  refine of_fields rfl (((major38 (fmtAT_op ..)).trans (decodeLaneAtomic_2 (fmtAT_f ..))).trans ?_)
  simp only [fmtAT_o, fmtAT_b, fmtAT_a, fmtAT_d, Order.ofBits_bits]
theorem vAtomXor (d : BitVec 7) (a : BitVec 6) (b : BitVec 7) (order : Order) : Statement (.vAtomXor d a b order) := by
  refine of_fields rfl (((major38 (fmtAT_op ..)).trans (decodeLaneAtomic_3 (fmtAT_f ..))).trans ?_)
  simp only [fmtAT_o, fmtAT_b, fmtAT_a, fmtAT_d, Order.ofBits_bits]
theorem vAtomMin (d : BitVec 7) (a : BitVec 6) (b : BitVec 7) (order : Order) : Statement (.vAtomMin d a b order) := by
  refine of_fields rfl (((major38 (fmtAT_op ..)).trans (decodeLaneAtomic_4 (fmtAT_f ..))).trans ?_)
  simp only [fmtAT_o, fmtAT_b, fmtAT_a, fmtAT_d, Order.ofBits_bits]
theorem vAtomMax (d : BitVec 7) (a : BitVec 6) (b : BitVec 7) (order : Order) : Statement (.vAtomMax d a b order) := by
  refine of_fields rfl (((major38 (fmtAT_op ..)).trans (decodeLaneAtomic_5 (fmtAT_f ..))).trans ?_)
  simp only [fmtAT_o, fmtAT_b, fmtAT_a, fmtAT_d, Order.ofBits_bits]
theorem vAtomMinu (d : BitVec 7) (a : BitVec 6) (b : BitVec 7) (order : Order) : Statement (.vAtomMinu d a b order) := by
  refine of_fields rfl (((major38 (fmtAT_op ..)).trans (decodeLaneAtomic_6 (fmtAT_f ..))).trans ?_)
  simp only [fmtAT_o, fmtAT_b, fmtAT_a, fmtAT_d, Order.ofBits_bits]
theorem vAtomMaxu (d : BitVec 7) (a : BitVec 6) (b : BitVec 7) (order : Order) : Statement (.vAtomMaxu d a b order) := by
  refine of_fields rfl (((major38 (fmtAT_op ..)).trans (decodeLaneAtomic_7 (fmtAT_f ..))).trans ?_)
  simp only [fmtAT_o, fmtAT_b, fmtAT_a, fmtAT_d, Order.ofBits_bits]
theorem vAtomSwap (d : BitVec 7) (a : BitVec 6) (b : BitVec 7) (order : Order) : Statement (.vAtomSwap d a b order) := by
  refine of_fields rfl (((major38 (fmtAT_op ..)).trans (decodeLaneAtomic_8 (fmtAT_f ..))).trans ?_)
  simp only [fmtAT_o, fmtAT_b, fmtAT_a, fmtAT_d, Order.ofBits_bits]
theorem vAtomCas (d : BitVec 7) (a : BitVec 6) (b : BitVec 7) (order : Order) : Statement (.vAtomCas d a b order) := by
  refine of_fields rfl (((major38 (fmtAT_op ..)).trans (decodeLaneAtomic_9 (fmtAT_f ..))).trans ?_)
  simp only [fmtAT_o, fmtAT_b, fmtAT_a, fmtAT_d, Order.ofBits_bits]
theorem vAtomAddf (d : BitVec 7) (a : BitVec 6) (b : BitVec 7) (order : Order) : Statement (.vAtomAddf d a b order) := by
  refine of_fields rfl (((major38 (fmtAT_op ..)).trans (decodeLaneAtomic_10 (fmtAT_f ..))).trans ?_)
  simp only [fmtAT_o, fmtAT_b, fmtAT_a, fmtAT_d, Order.ofBits_bits]
theorem vAtomAddbf (d : BitVec 7) (a : BitVec 6) (b : BitVec 7) (order : Order) : Statement (.vAtomAddbf d a b order) := by
  refine of_fields rfl (((major38 (fmtAT_op ..)).trans (decodeLaneAtomic_11 (fmtAT_f ..))).trans ?_)
  simp only [fmtAT_o, fmtAT_b, fmtAT_a, fmtAT_d, Order.ofBits_bits]
theorem vAtomLd (d : BitVec 7) (a : BitVec 6) (b : BitVec 7) (order : Order) : Statement (.vAtomLd d a b order) := by
  refine of_fields rfl (((major38 (fmtAT_op ..)).trans (decodeLaneAtomic_12 (fmtAT_f ..))).trans ?_)
  simp only [fmtAT_o, fmtAT_b, fmtAT_a, fmtAT_d, Order.ofBits_bits]
theorem vAtomSt (d : BitVec 7) (a : BitVec 6) (b : BitVec 7) (order : Order) : Statement (.vAtomSt d a b order) := by
  refine of_fields rfl (((major38 (fmtAT_op ..)).trans (decodeLaneAtomic_13 (fmtAT_f ..))).trans ?_)
  simp only [fmtAT_o, fmtAT_b, fmtAT_a, fmtAT_d, Order.ofBits_bits]
theorem pLd (g : BitVec 3) (a : BitVec 6) (b : BitVec 6) (lay : Layout) (la : BitVec 4) (w : Strength) : Statement (.pLd g a b lay la w) := by
  refine of_fields rfl ((major39 (fmtPM_op ..)).trans ?_)
  simp only [needZero, fmtPM_x, fmtPM_w, fmtPM_l, fmtPM_y, fmtPM_b, fmtPM_a, fmtPM_g, Layout.ofBits_bits, Strength.ofBits_bits]
  rfl
theorem pSt (g : BitVec 3) (a : BitVec 6) (b : BitVec 6) (lay : Layout) (w : Strength) : Statement (.pSt g a b lay w) := by
  refine of_fields rfl ((major40 (fmtPM_op ..)).trans ?_)
  simp only [needZero, fmtPM_x, fmtPM_w, fmtPM_l, fmtPM_y, fmtPM_b, fmtPM_a, fmtPM_g, Layout.ofBits_bits, Strength.ofBits_bits]
  rfl
theorem pShift (gd : BitVec 3) (gs : BitVec 3) (axis : Axis) (b : BitVec 6) (imm : BitVec 8) : Statement (.pShift gd gs axis b imm) := by
  refine of_fields rfl (((major41 (fmtPL_op ..)).trans (decodePlane_0 (fmtPL_f ..))).trans ?_)
  simp only [fmtPL_i, fmtPL_b, fmtPL_x, fmtPL_h, fmtPL_g, Axis.ofBits_bits]
theorem pRot (gd : BitVec 3) (gs : BitVec 3) (axis : Axis) (b : BitVec 6) (imm : BitVec 8) : Statement (.pRot gd gs axis b imm) := by
  refine of_fields rfl (((major41 (fmtPL_op ..)).trans (decodePlane_1 (fmtPL_f ..))).trans ?_)
  simp only [fmtPL_i, fmtPL_b, fmtPL_x, fmtPL_h, fmtPL_g, Axis.ofBits_bits]
theorem pSpread (gd : BitVec 3) (gs : BitVec 3) (axis : Axis) (b : BitVec 6) (imm : BitVec 8) : Statement (.pSpread gd gs axis b imm) := by
  refine of_fields rfl (((major41 (fmtPL_op ..)).trans (decodePlane_2 (fmtPL_f ..))).trans ?_)
  simp only [fmtPL_i, fmtPL_b, fmtPL_x, fmtPL_h, fmtPL_g, Axis.ofBits_bits]
theorem pFoldAdd (gd : BitVec 3) (gs : BitVec 3) (axis : Axis) : Statement (.pFoldAdd gd gs axis) := by
  refine of_fields rfl (((major41 (fmtPL_op ..)).trans (decodePlane_3 (fmtPL_f ..))).trans ?_)
  simp only [needZero, fmtPL_i, fmtPL_b, fmtPL_x, fmtPL_h, fmtPL_g, Axis.ofBits_bits]
  rfl
theorem pFoldMax (gd : BitVec 3) (gs : BitVec 3) (axis : Axis) : Statement (.pFoldMax gd gs axis) := by
  refine of_fields rfl (((major41 (fmtPL_op ..)).trans (decodePlane_4 (fmtPL_f ..))).trans ?_)
  simp only [needZero, fmtPL_i, fmtPL_b, fmtPL_x, fmtPL_h, fmtPL_g, Axis.ofBits_bits]
  rfl
theorem pFoldMin (gd : BitVec 3) (gs : BitVec 3) (axis : Axis) : Statement (.pFoldMin gd gs axis) := by
  refine of_fields rfl (((major41 (fmtPL_op ..)).trans (decodePlane_5 (fmtPL_f ..))).trans ?_)
  simp only [needZero, fmtPL_i, fmtPL_b, fmtPL_x, fmtPL_h, fmtPL_g, Axis.ofBits_bits]
  rfl
theorem pFoldStack (gd : BitVec 3) (gs : BitVec 3) (axis : Axis) : Statement (.pFoldStack gd gs axis) := by
  refine of_fields rfl (((major41 (fmtPL_op ..)).trans (decodePlane_6 (fmtPL_f ..))).trans ?_)
  simp only [needZero, fmtPL_i, fmtPL_b, fmtPL_x, fmtPL_h, fmtPL_g, Axis.ofBits_bits]
  rfl
theorem pRefold (gd : BitVec 3) (gs : BitVec 3) : Statement (.pRefold gd gs) := by
  refine of_fields rfl (((major41 (fmtPL_op ..)).trans (decodePlane_7 (fmtPL_f ..))).trans ?_)
  simp only [needZero, fmtPL_i, fmtPL_xb, fmtPL_h, fmtPL_g]
  rfl
theorem pGset (gd : BitVec 3) (b : BitVec 6) : Statement (.pGset gd b) := by
  refine of_fields rfl (((major41 (fmtPL_op ..)).trans (decodePlane_8 (fmtPL_f ..))).trans ?_)
  simp only [needZero, fmtPL_i, fmtPL_b, fmtPL_hx, fmtPL_g]
  rfl
theorem pGget (gs : BitVec 3) (b : BitVec 6) : Statement (.pGget gs b) := by
  refine of_fields rfl (((major41 (fmtPL_op ..)).trans (decodePlane_9 (fmtPL_f ..))).trans ?_)
  simp only [needZero, fmtPL_i, fmtPL_b, fmtPL_x, fmtPL_h, fmtPL_g]
  rfl
theorem lWr (a : BitVec 7) (b : BitVec 7) : Statement (.lWr a b) := by
  refine of_fields rfl (((major42 (fmtRR_op ..)).trans (decodeLoupe_0 (fmtRR_f ..))).trans ?_)
  simp only [needZero, fmtRR_b, fmtRR_a, fmtRR_d]
  rfl
theorem lRdt (d : BitVec 7) : Statement (.lRdt d) := by
  refine of_fields rfl (((major42 (fmtRR_op ..)).trans (decodeLoupe_1 (fmtRR_f ..))).trans ?_)
  simp only [needZero, fmtRR_ab, fmtRR_d]
  rfl
theorem lRd (d : BitVec 7) : Statement (.lRd d) := by
  refine of_fields rfl (((major42 (fmtRR_op ..)).trans (decodeLoupe_2 (fmtRR_f ..))).trans ?_)
  simp only [needZero, fmtRR_ab, fmtRR_d]
  rfl
theorem lClr : Statement .lClr := by
  refine of_fields rfl (((major42 (fmtRR_op ..)).trans (decodeLoupe_3 (fmtRR_f ..))).trans ?_)
  simp only [needZero, fmtRR_dab]
  rfl
theorem fence : Statement .fence := by
  refine of_fields rfl (((major43 (fmtRR_op ..)).trans (decodeSync_0 (fmtRR_f ..))).trans ?_)
  simp only [needZero, fmtRR_dab]
  rfl
theorem fenceAcq : Statement .fenceAcq := by
  refine of_fields rfl (((major43 (fmtRR_op ..)).trans (decodeSync_1 (fmtRR_f ..))).trans ?_)
  simp only [needZero, fmtRR_dab]
  rfl
theorem fenceRel : Statement .fenceRel := by
  refine of_fields rfl (((major43 (fmtRR_op ..)).trans (decodeSync_2 (fmtRR_f ..))).trans ?_)
  simp only [needZero, fmtRR_dab]
  rfl
theorem barInit (a : BitVec 7) (b : BitVec 7) : Statement (.barInit a b) := by
  refine of_fields rfl (((major43 (fmtRR_op ..)).trans (decodeSync_3 (fmtRR_f ..))).trans ?_)
  simp only [needZero, fmtRR_b, fmtRR_a, fmtRR_d]
  rfl
theorem barArrive (d : BitVec 7) (a : BitVec 7) : Statement (.barArrive d a) := by
  refine of_fields rfl (((major43 (fmtRR_op ..)).trans (decodeSync_4 (fmtRR_f ..))).trans ?_)
  simp only [needZero, fmtRR_b, fmtRR_a, fmtRR_d]
  rfl
theorem barExpect (a : BitVec 7) (b : BitVec 7) : Statement (.barExpect a b) := by
  refine of_fields rfl (((major43 (fmtRR_op ..)).trans (decodeSync_5 (fmtRR_f ..))).trans ?_)
  simp only [needZero, fmtRR_b, fmtRR_a, fmtRR_d]
  rfl
theorem barWait (a : BitVec 7) (b : BitVec 7) : Statement (.barWait a b) := by
  refine of_fields rfl (((major43 (fmtRR_op ..)).trans (decodeSync_6 (fmtRR_f ..))).trans ?_)
  simp only [needZero, fmtRR_b, fmtRR_a, fmtRR_d]
  rfl
theorem wait (path : BitVec 3) (a : BitVec 7) : Statement (.wait path a) := by
  refine of_fields rfl (((major43 (fmtRR_op ..)).trans (decodeSync_7 (fmtRR_f ..))).trans ?_)
  simp only [needZero, fmtRR_b, fmtRR_a, fmtRR_d_lo3, fmtRR_d_hi4, extract_hi 0#4 path 3 4 (by decide),
    extract_lo 0#4 path 0 3 (by decide), extract_all]
  rfl
theorem qfence (a : BitVec 7) : Statement (.qfence a) := by
  refine of_fields rfl (((major43 (fmtRR_op ..)).trans (decodeSync_8 (fmtRR_f ..))).trans ?_)
  simp only [needZero, fmtRR_b, fmtRR_a, fmtRR_d]
  rfl
theorem walksync : Statement .walksync := by
  refine of_fields rfl (((major43 (fmtRR_op ..)).trans (decodeSync_10 (fmtRR_f ..))).trans ?_)
  simp only [needZero, fmtRR_dab]
  rfl
theorem scWb (a : BitVec 7) (b : BitVec 7) : Statement (.scWb a b) := by
  refine of_fields rfl (((major43 (fmtRR_op ..)).trans (decodeSync_11 (fmtRR_f ..))).trans ?_)
  simp only [needZero, fmtRR_b, fmtRR_a, fmtRR_d]
  rfl
theorem scDrop (a : BitVec 7) (b : BitVec 7) : Statement (.scDrop a b) := by
  refine of_fields rfl (((major43 (fmtRR_op ..)).trans (decodeSync_12 (fmtRR_f ..))).trans ?_)
  simp only [needZero, fmtRR_b, fmtRR_a, fmtRR_d]
  rfl
theorem cpy (a : BitVec 7) (b : BitVec 7) : Statement (.cpy a b) := by
  refine of_fields rfl (((major44 (fmtRR_op ..)).trans (decodeCopy_0 (fmtRR_f ..))).trans ?_)
  simp only [needZero, fmtRR_b, fmtRR_a, fmtRR_d]
  rfl
theorem chain (a : BitVec 7) : Statement (.chain a) := by
  refine of_fields rfl (((major44 (fmtRR_op ..)).trans (decodeCopy_2 (fmtRR_f ..))).trans ?_)
  simp only [needZero, fmtRR_b, fmtRR_a, fmtRR_d]
  rfl
theorem mxMma (t : BitVec 3) (sl : BitVec 3) (a : BitVec 6) (b : BitVec 6) (acc : Bool) (gang : Bool) (ta : Bool) (tb : Bool) : Statement (.mxMma t sl a b acc gang ta tb) := by
  refine of_fields rfl (((major45 (fmtMX_op ..)).trans (decodeMatrix_0 (fmtMX_f ..))).trans ?_)
  simp only [fmtMX_b, fmtMX_a, fmtMX_s, fmtMX_t, fmtMX_x0, fmtMX_x1, fmtMX_x2, fmtMX_x3]
  cases acc <;> cases gang <;> cases ta <;> cases tb <;> rfl
theorem mxKmma (t : BitVec 3) (sl : BitVec 3) (a : BitVec 6) (b : BitVec 6) (acc : Bool) (gang : Bool) (hi : Bool) : Statement (.mxKmma t sl a b acc gang hi) := by
  refine of_fields rfl (((major45 (fmtMX_op ..)).trans (decodeMatrix_1 (fmtMX_f ..))).trans ?_)
  simp only [needZero, fmtMX_x3', fmtMX_b, fmtMX_a, fmtMX_s, fmtMX_t, fmtMX_x0, fmtMX_x1, fmtMX_x2]
  cases acc <;> cases gang <;> cases hi <;> rfl
theorem mxZero (t : BitVec 3) : Statement (.mxZero t) := by
  refine of_fields rfl (((major45 (fmtMX_op ..)).trans (decodeMatrix_2 (fmtMX_f ..))).trans ?_)
  simp only [needZero, fmtMX_x, fmtMX_sab, fmtMX_t]
  rfl
theorem mxAccrd (t : BitVec 3) (a : BitVec 6) (b : BitVec 6) : Statement (.mxAccrd t a b) := by
  refine of_fields rfl (((major45 (fmtMX_op ..)).trans (decodeMatrix_3 (fmtMX_f ..))).trans ?_)
  simp only [needZero, fmtMX_x, fmtMX_b, fmtMX_a, fmtMX_s, fmtMX_t]
  rfl
theorem mxAccwr (t : BitVec 3) (a : BitVec 6) (b : BitVec 6) : Statement (.mxAccwr t a b) := by
  refine of_fields rfl (((major45 (fmtMX_op ..)).trans (decodeMatrix_4 (fmtMX_f ..))).trans ?_)
  simp only [needZero, fmtMX_x, fmtMX_b, fmtMX_a, fmtMX_s, fmtMX_t]
  rfl
theorem mxFence (a : BitVec 6) : Statement (.mxFence a) := by
  refine of_fields rfl (((major45 (fmtMX_op ..)).trans (decodeMatrix_5 (fmtMX_f ..))).trans ?_)
  simp only [needZero, fmtMX_x, fmtMX_b, fmtMX_a, fmtMX_ts]
  rfl
theorem mxWait (a : BitVec 6) : Statement (.mxWait a) := by
  refine of_fields rfl (((major45 (fmtMX_op ..)).trans (decodeMatrix_6 (fmtMX_f ..))).trans ?_)
  simp only [needZero, fmtMX_x, fmtMX_b, fmtMX_a, fmtMX_ts]
  rfl
theorem mxSave (a : BitVec 6) : Statement (.mxSave a) := by
  refine of_fields rfl (((major45 (fmtMX_op ..)).trans (decodeMatrix_7 (fmtMX_f ..))).trans ?_)
  simp only [needZero, fmtMX_x, fmtMX_b, fmtMX_a, fmtMX_ts]
  rfl
theorem mxResume (a : BitVec 6) : Statement (.mxResume a) := by
  refine of_fields rfl (((major45 (fmtMX_op ..)).trans (decodeMatrix_8 (fmtMX_f ..))).trans ?_)
  simp only [needZero, fmtMX_x, fmtMX_b, fmtMX_a, fmtMX_ts]
  rfl
theorem mxStreamOpen (a : BitVec 6) (b : BitVec 6) : Statement (.mxStreamOpen a b) := by
  refine of_fields rfl (((major45 (fmtMX_op ..)).trans (decodeMatrix_9 (fmtMX_f ..))).trans ?_)
  simp only [needZero, fmtMX_x, fmtMX_b, fmtMX_a, fmtMX_ts]
  rfl
theorem mxSub (a : BitVec 6) (b : BitVec 6) : Statement (.mxSub a b) := by
  refine of_fields rfl (((major45 (fmtMX_op ..)).trans (decodeMatrix_10 (fmtMX_f ..))).trans ?_)
  simp only [needZero, fmtMX_x, fmtMX_b, fmtMX_a, fmtMX_ts]
  rfl
theorem mxSetgang (a : BitVec 6) : Statement (.mxSetgang a) := by
  refine of_fields rfl (((major45 (fmtMX_op ..)).trans (decodeMatrix_11 (fmtMX_f ..))).trans ?_)
  simp only [needZero, fmtMX_x, fmtMX_b, fmtMX_a, fmtMX_ts]
  rfl
theorem tblKbuild (t : BitVec 3) (sl : BitVec 3) (a : BitVec 6) : Statement (.tblKbuild t sl a) := by
  refine of_fields rfl (((major46 (fmtMX_op ..)).trans (decodeTable_0 (fmtMX_f ..))).trans ?_)
  simp only [needZero, fmtMX_x, fmtMX_b, fmtMX_a, fmtMX_s, fmtMX_t]
  rfl
theorem tblKinv (t : BitVec 3) : Statement (.tblKinv t) := by
  refine of_fields rfl (((major46 (fmtMX_op ..)).trans (decodeTable_1 (fmtMX_f ..))).trans ?_)
  simp only [needZero, fmtMX_x, fmtMX_sab, fmtMX_t]
  rfl
theorem tblKdetach (t : BitVec 3) : Statement (.tblKdetach t) := by
  refine of_fields rfl (((major46 (fmtMX_op ..)).trans (decodeTable_2 (fmtMX_f ..))).trans ?_)
  simp only [needZero, fmtMX_x, fmtMX_sab, fmtMX_t]
  rfl
theorem tblKtest (t : BitVec 3) (a : BitVec 6) : Statement (.tblKtest t a) := by
  refine of_fields rfl (((major46 (fmtMX_op ..)).trans (decodeTable_3 (fmtMX_f ..))).trans ?_)
  simp only [needZero, fmtMX_x, fmtMX_b, fmtMX_a, fmtMX_s, fmtMX_t]
  rfl
theorem reservedEncoding (w : Word) : Statement (.reservedEncoding w) := of_event rfl
theorem windowClose (team : Nat) : Statement (.windowClose team) := of_event rfl
theorem transientExpire (team : Nat) : Statement (.transientExpire team) := of_event rfl
theorem resultReady (team : Nat) (n : Nat) : Statement (.resultReady team n) := of_event rfl
theorem loadReturn (team : Nat) (op : Nat) : Statement (.loadReturn team op) := of_event rfl
theorem storeRegister (team : Nat) (op : Nat) (word : Nat) : Statement (.storeRegister team op word) := of_event rfl
theorem trapEntry (team : Nat) (frag : Nat) : Statement (.trapEntry team frag) := of_event rfl
theorem issueSelect (cluster : Nat) : Statement (.issueSelect cluster) := of_event rfl
theorem teamBoost (team : Nat) : Statement (.teamBoost team) := of_event rfl
theorem yieldExpire (team : Nat) : Statement (.yieldExpire team) := of_event rfl
theorem unitPowerDown (cluster : Nat) (core : Nat) (u : CoreUnit) : Statement (.unitPowerDown cluster core u) := of_event rfl
theorem unitWake (cluster : Nat) (core : Nat) (u : CoreUnit) : Statement (.unitWake cluster core u) := of_event rfl
theorem clockLevelChange (cluster : Nat) : Statement (.clockLevelChange cluster) := of_event rfl
theorem shutterStep (cluster : Nat) : Statement (.shutterStep cluster) := of_event rfl
theorem engineReady (team : Nat) (q : EngineQueue) : Statement (.engineReady team q) := of_event rfl
theorem engineOpStart (team : Nat) (q : EngineQueue) : Statement (.engineOpStart team q) := of_event rfl
theorem tileFetch (team : Nat) (q : EngineQueue) (va : DWord) : Statement (.tileFetch team q va) := of_event rfl
theorem engineOpComplete (team : Nat) (q : EngineQueue) : Statement (.engineOpComplete team q) := of_event rfl
theorem copyOpStart (team : Nat) (q : Nat) : Statement (.copyOpStart team q) := of_event rfl
theorem copyComplete (team : Nat) (q : Nat) : Statement (.copyComplete team q) := of_event rfl
theorem copyCredit (team : Nat) (q : Nat) : Statement (.copyCredit team q) := of_event rfl
theorem chainComplete (team : Nat) : Statement (.chainComplete team) := of_event rfl
theorem barWaitComplete (team : Nat) : Statement (.barWaitComplete team) := of_event rfl
theorem remoteBarrierPoll (team : Nat) : Statement (.remoteBarrierPoll team) := of_event rfl
theorem waitComplete (team : Nat) : Statement (.waitComplete team) := of_event rfl
theorem mxWaitComplete (team : Nat) : Statement (.mxWaitComplete team) := of_event rfl
theorem fenceAcqComplete (team : Nat) : Statement (.fenceAcqComplete team) := of_event rfl
theorem gangRendezvous (team : Nat) : Statement (.gangRendezvous team) := of_event rfl
theorem streamTileFetch (cluster : Nat) (stream : Nat) : Statement (.streamTileFetch cluster stream) := of_event rfl
theorem pageWalk (core : Nat) (asid : BitVec 12) (va : DWord) (leaf : Option (BitVec 5)) : Statement (.pageWalk core asid va leaf) := of_event rfl
theorem scratchMapFill (team : Nat) (offset : Nat) : Statement (.scratchMapFill team offset) := of_event rfl
theorem prqdoneWrite (vi : Nat) (seq : Word) (res : BitVec 2) : Statement (.prqdoneWrite vi seq res) := of_event rfl
theorem tlbiRange (vi : Nat) (asid : BitVec 12) (va : DWord) (len : DWord) : Statement (.tlbiRange vi asid va len) := of_event rfl
theorem tlbiAsid (vi : Nat) (asid : BitVec 12) : Statement (.tlbiAsid vi asid) := of_event rfl
theorem tlbiInterface (vi : Nat) : Statement (.tlbiInterface vi) := of_event rfl
theorem tlbiComplete (vi : Nat) : Statement (.tlbiComplete vi) := of_event rfl
theorem recordTake (q : Nat) : Statement (.recordTake q) := of_event rfl
theorem launchDistribute (launch : Nat) : Statement (.launchDistribute launch) := of_event rfl
theorem placeAdmit (launch : Nat) (areas : List Area) : Statement (.placeAdmit launch areas) := of_event rfl
theorem teamResident (team : Nat) : Statement (.teamResident team) := of_event rfl
theorem clusterPreempt (team : Nat) : Statement (.clusterPreempt team) := of_event rfl
theorem teamPark (team : Nat) (step : Nat) : Statement (.teamPark team step) := of_event rfl
theorem drainExpire (cluster : Nat) : Statement (.drainExpire cluster) := of_event rfl
theorem forcedSave (team : Nat) (step : Nat) : Statement (.forcedSave team step) := of_event rfl
theorem teamUnpark (team : Nat) (core : Nat) : Statement (.teamUnpark team core) := of_event rfl
theorem teamRetire (team : Nat) : Statement (.teamRetire team) := of_event rfl
theorem gridComplete (launch : Nat) : Statement (.gridComplete launch) := of_event rfl
theorem placeMigrate (launch : Nat) (place : Nat) (cluster : Nat) (areas : List Area) : Statement (.placeMigrate launch place cluster areas) := of_event rfl
theorem queueCfgReload (q : Nat) : Statement (.queueCfgReload q) := of_event rfl
theorem checkerMismatch (site : CheckerSite) : Statement (.checkerMismatch site) := of_event rfl
theorem eccError (place : EccPlace) : Statement (.eccError place) := of_event rfl
theorem schedulerIllegalState (cluster : Nat) : Statement (.schedulerIllegalState cluster) := of_event rfl
theorem schedulerRebuildDone (cluster : Nat) : Statement (.schedulerRebuildDone cluster) := of_event rfl
theorem portLaneFail (port : Nat) : Statement (.portLaneFail port) := of_event rfl
theorem portRetrainDone (port : Nat) : Statement (.portRetrainDone port) := of_event rfl
theorem remoteRequest (req : RemoteReq) : Statement (.remoteRequest req) := of_event rfl
theorem remoteResponse (id : Nat) (ans : RemoteAnswer) : Statement (.remoteResponse id ans) := of_event rfl
theorem remoteTimeout (id : Nat) : Statement (.remoteTimeout id) := of_event rfl
theorem memberWrite (n : BitVec 4) (mask : DWord) : Statement (.memberWrite n mask) := of_event rfl
theorem memberClearApply (dev : BitVec 10) : Statement (.memberClearApply dev) := of_event rfl
theorem shelfFrame (frame : DWord) : Statement (.shelfFrame frame) := of_event rfl
theorem frameLoss : Statement .frameLoss := of_event rfl
theorem capUpdate : Statement .capUpdate := of_event rfl
theorem shedForceSave (team : Nat) (step : Nat) : Statement (.shedForceSave team step) := of_event rfl
theorem classRestore (cls : BitVec 2) : Statement (.classRestore cls) := of_event rfl
theorem hostCxlMemAccess (acc : HostAccess) : Statement (.hostCxlMemAccess acc) := of_event rfl
theorem hostCxlCacheSnoop (line : Nat) (kind : SnoopKind) : Statement (.hostCxlCacheSnoop line kind) := of_event rfl
theorem powerOn : Statement .powerOn := of_event rfl
theorem hostResetAssert : Statement .hostResetAssert := of_event rfl
theorem powerRemove : Statement .powerRemove := of_event rfl
theorem vfFlr (vi : Nat) : Statement (.vfFlr vi) := of_event rfl
theorem victlWrite (vi : Nat) (val : DWord) : Statement (.victlWrite vi val) := of_event rfl
theorem viperfWrite (vi : Nat) (val : DWord) : Statement (.viperfWrite vi val) := of_event rfl
theorem registerWrite (reg : RegPlace) (val : DWord) : Statement (.registerWrite reg val) := of_event rfl
theorem mbLoad : Statement .mbLoad := of_event rfl
theorem mbExtend : Statement .mbExtend := of_event rfl
theorem mbQuote : Statement .mbQuote := of_event rfl
theorem mbIdkey : Statement .mbIdkey := of_event rfl
theorem mbShutdown : Statement .mbShutdown := of_event rfl
theorem objectLoad (req : LoadReq) : Statement (.objectLoad req) := of_event rfl
theorem objectUnload (asid : BitVec 12) (handle : DWord) : Statement (.objectUnload asid handle) := of_event rfl
theorem textCompaction (handle : DWord) (base : Nat) (tables : List (Nat × DWord)) : Statement (.textCompaction handle base tables) := of_event rfl
theorem retranslationSwap (handle : DWord) (req : LoadReq) : Statement (.retranslationSwap handle req) := of_event rfl
theorem loaderSweep (handle : DWord) : Statement (.loaderSweep handle) := of_event rfl
theorem icinvComplete (team : Nat) : Statement (.icinvComplete team) := of_event rfl
theorem walksyncComplete (team : Nat) : Statement (.walksyncComplete team) := of_event rfl
theorem teamDiscard (team : Nat) : Statement (.teamDiscard team) := of_event rfl

end Laws.Encoding

end Sys2Proof
end

