-- ==== Sys2Proof/Laws/State.lean ====
section
/-! SUPPORT. What each update of a team's or the package's record leaves as it was, field by field, and what a read of a
register gives after a write. -/

namespace Sys2Proof.Machine

/-! Updates of a team. -/

@[simp] theorem Team.setFrag_id (t : Team) (i : Nat) (f : Frag) : (t.setFrag i f).id = t.id := rfl
@[simp] theorem Team.setFrag_const (t : Team) (i : Nat) (f : Frag) : (t.setFrag i f).const = t.const := rfl
@[simp] theorem Team.setFrag_sched (t : Team) (i : Nat) (f : Frag) : (t.setFrag i f).sched = t.sched := rfl
@[simp] theorem Team.setFrag_regs (t : Team) (i : Nat) (f : Frag) : (t.setFrag i f).regs = t.regs := rfl
@[simp] theorem Team.setFrag_sys (t : Team) (i : Nat) (f : Frag) : (t.setFrag i f).sys = t.sys := rfl
@[simp] theorem Team.setFrag_iss (t : Team) (i : Nat) (f : Frag) : (t.setFrag i f).iss = t.iss := rfl
@[simp] theorem Team.setFrag_rep (t : Team) (i : Nat) (f : Frag) : (t.setFrag i f).rep = t.rep := rfl
@[simp] theorem Team.setFrag_eng (t : Team) (i : Nat) (f : Frag) : (t.setFrag i f).eng = t.eng := rfl
@[simp] theorem Team.setFrag_maps (t : Team) (i : Nat) (f : Frag) : (t.setFrag i f).maps = t.maps := rfl

@[simp] theorem Team.writeG_id (t : Team) (n : Nat) (x : QWord) : (t.writeG n x).id = t.id := rfl
@[simp] theorem Team.writeG_const (t : Team) (n : Nat) (x : QWord) : (t.writeG n x).const = t.const := rfl
@[simp] theorem Team.writeG_sched (t : Team) (n : Nat) (x : QWord) : (t.writeG n x).sched = t.sched := rfl
@[simp] theorem Team.writeG_sys (t : Team) (n : Nat) (x : QWord) : (t.writeG n x).sys = t.sys := rfl
@[simp] theorem Team.writeG_ctl (t : Team) (n : Nat) (x : QWord) : (t.writeG n x).ctl = t.ctl := rfl
@[simp] theorem Team.writeG_iss (t : Team) (n : Nat) (x : QWord) : (t.writeG n x).iss = t.iss := rfl
@[simp] theorem Team.writeG_rep (t : Team) (n : Nat) (x : QWord) : (t.writeG n x).rep = t.rep := rfl
@[simp] theorem Team.writeG_eng (t : Team) (n : Nat) (x : QWord) : (t.writeG n x).eng = t.eng := rfl
@[simp] theorem Team.writeG_maps (t : Team) (n : Nat) (x : QWord) : (t.writeG n x).maps = t.maps := rfl

@[simp] theorem Team.setFlags_id (t : Team) (b : Nat) : (t.setFlags b).id = t.id := rfl
@[simp] theorem Team.setFlags_const (t : Team) (b : Nat) : (t.setFlags b).const = t.const := rfl
@[simp] theorem Team.setFlags_sched (t : Team) (b : Nat) : (t.setFlags b).sched = t.sched := rfl
@[simp] theorem Team.setFlags_regs (t : Team) (b : Nat) : (t.setFlags b).regs = t.regs := rfl
@[simp] theorem Team.setFlags_ctl (t : Team) (b : Nat) : (t.setFlags b).ctl = t.ctl := rfl
@[simp] theorem Team.setFlags_iss (t : Team) (b : Nat) : (t.setFlags b).iss = t.iss := rfl
@[simp] theorem Team.setFlags_rep (t : Team) (b : Nat) : (t.setFlags b).rep = t.rep := rfl
@[simp] theorem Team.setFlags_eng (t : Team) (b : Nat) : (t.setFlags b).eng = t.eng := rfl
@[simp] theorem Team.setFlags_maps (t : Team) (b : Nat) : (t.setFlags b).maps = t.maps := rfl

@[simp] theorem Team.countIssue_id (t : Team)  : (t.countIssue ).id = t.id := rfl
@[simp] theorem Team.countIssue_const (t : Team)  : (t.countIssue ).const = t.const := rfl
@[simp] theorem Team.countIssue_sched (t : Team)  : (t.countIssue ).sched = t.sched := rfl
@[simp] theorem Team.countIssue_regs (t : Team)  : (t.countIssue ).regs = t.regs := rfl
@[simp] theorem Team.countIssue_sys (t : Team)  : (t.countIssue ).sys = t.sys := rfl
@[simp] theorem Team.countIssue_ctl (t : Team)  : (t.countIssue ).ctl = t.ctl := rfl
@[simp] theorem Team.countIssue_rep (t : Team)  : (t.countIssue ).rep = t.rep := rfl
@[simp] theorem Team.countIssue_eng (t : Team)  : (t.countIssue ).eng = t.eng := rfl
@[simp] theorem Team.countIssue_maps (t : Team)  : (t.countIssue ).maps = t.maps := rfl

@[simp] theorem Team.openRegion_id (t : Team) (f : Frag) (pc : DWord) : (t.openRegion f pc).id = t.id := rfl
@[simp] theorem Team.openRegion_const (t : Team) (f : Frag) (pc : DWord) : (t.openRegion f pc).const = t.const := rfl
@[simp] theorem Team.openRegion_sched (t : Team) (f : Frag) (pc : DWord) : (t.openRegion f pc).sched = t.sched := rfl
@[simp] theorem Team.openRegion_regs (t : Team) (f : Frag) (pc : DWord) : (t.openRegion f pc).regs = t.regs := rfl
@[simp] theorem Team.openRegion_stalled (t : Team) (f : Frag) (pc : DWord) : (t.openRegion f pc).iss.stalled = t.iss.stalled := rfl
@[simp] theorem Team.openRegion_begun (t : Team) (f : Frag) (pc : DWord) : (t.openRegion f pc).iss.begun = t.iss.begun := rfl
@[simp] theorem Team.openRegion_charge (t : Team) (f : Frag) (pc : DWord) : (t.openRegion f pc).iss.charge = t.iss.charge := rfl
@[simp] theorem Team.openRegion_issued (t : Team) (f : Frag) (pc : DWord) : (t.openRegion f pc).iss.issued = t.iss.issued := rfl
@[simp] theorem Team.openRegion_bypass (t : Team) (f : Frag) (pc : DWord) : (t.openRegion f pc).iss.bypass = t.iss.bypass := rfl
@[simp] theorem Team.openRegion_busy (t : Team) (f : Frag) (pc : DWord) : (t.openRegion f pc).iss.busy = t.iss.busy := rfl
@[simp] theorem Team.openRegion_ahead (t : Team) (f : Frag) (pc : DWord) : (t.openRegion f pc).iss.ahead = t.iss.ahead := rfl
@[simp] theorem Team.openRegion_withheld (t : Team) (f : Frag) (pc : DWord) : (t.openRegion f pc).iss.withheld = t.iss.withheld := rfl
@[simp] theorem Team.openRegion_dtrap (t : Team) (f : Frag) (pc : DWord) : (t.openRegion f pc).iss.dtrap = t.iss.dtrap := rfl
@[simp] theorem Team.openRegion_eng (t : Team) (f : Frag) (pc : DWord) : (t.openRegion f pc).eng = t.eng := rfl
@[simp] theorem Team.openRegion_maps (t : Team) (f : Frag) (pc : DWord) : (t.openRegion f pc).maps = t.maps := rfl

@[simp] theorem Team.resumeEngine_id (t : Team)  : (t.resumeEngine ).id = t.id := rfl
@[simp] theorem Team.resumeEngine_const (t : Team)  : (t.resumeEngine ).const = t.const := rfl
@[simp] theorem Team.resumeEngine_sched (t : Team)  : (t.resumeEngine ).sched = t.sched := rfl
@[simp] theorem Team.resumeEngine_regs (t : Team)  : (t.resumeEngine ).regs = t.regs := rfl
@[simp] theorem Team.resumeEngine_sys (t : Team)  : (t.resumeEngine ).sys = t.sys := rfl
@[simp] theorem Team.resumeEngine_ctl (t : Team)  : (t.resumeEngine ).ctl = t.ctl := rfl
@[simp] theorem Team.resumeEngine_iss (t : Team)  : (t.resumeEngine ).iss = t.iss := rfl
@[simp] theorem Team.resumeEngine_rep (t : Team)  : (t.resumeEngine ).rep = t.rep := rfl
@[simp] theorem Team.resumeEngine_maps (t : Team)  : (t.resumeEngine ).maps = t.maps := rfl

@[simp] theorem Team.popLinkTo_id (t : Team) (d : Nat) : (t.popLinkTo d).id = t.id := rfl
@[simp] theorem Team.popLinkTo_const (t : Team) (d : Nat) : (t.popLinkTo d).const = t.const := rfl
@[simp] theorem Team.popLinkTo_sched (t : Team) (d : Nat) : (t.popLinkTo d).sched = t.sched := rfl
@[simp] theorem Team.popLinkTo_regs (t : Team) (d : Nat) : (t.popLinkTo d).regs = t.regs := rfl
@[simp] theorem Team.popLinkTo_iss (t : Team) (d : Nat) : (t.popLinkTo d).iss = t.iss := rfl
@[simp] theorem Team.popLinkTo_rep (t : Team) (d : Nat) : (t.popLinkTo d).rep = t.rep := rfl
@[simp] theorem Team.popLinkTo_eng (t : Team) (d : Nat) : (t.popLinkTo d).eng = t.eng := rfl
@[simp] theorem Team.popLinkTo_maps (t : Team) (d : Nat) : (t.popLinkTo d).maps = t.maps := rfl

@[simp] theorem Team.addFlights_id (t : Team) (fs : List Flight) : (t.addFlights fs).id = t.id := rfl
@[simp] theorem Team.addFlights_const (t : Team) (fs : List Flight) : (t.addFlights fs).const = t.const := rfl
@[simp] theorem Team.addFlights_sched (t : Team) (fs : List Flight) : (t.addFlights fs).sched = t.sched := rfl
@[simp] theorem Team.addFlights_regs (t : Team) (fs : List Flight) : (t.addFlights fs).regs = t.regs := rfl
@[simp] theorem Team.addFlights_sys (t : Team) (fs : List Flight) : (t.addFlights fs).sys = t.sys := rfl
@[simp] theorem Team.addFlights_ctl (t : Team) (fs : List Flight) : (t.addFlights fs).ctl = t.ctl := rfl
@[simp] theorem Team.addFlights_rep (t : Team) (fs : List Flight) : (t.addFlights fs).rep = t.rep := rfl
@[simp] theorem Team.addFlights_eng (t : Team) (fs : List Flight) : (t.addFlights fs).eng = t.eng := rfl
@[simp] theorem Team.addFlights_maps (t : Team) (fs : List Flight) : (t.addFlights fs).maps = t.maps := rfl

@[simp] theorem Team.settleFlights_id (t : Team)  : (t.settleFlights ).id = t.id := rfl
@[simp] theorem Team.settleFlights_const (t : Team)  : (t.settleFlights ).const = t.const := rfl
@[simp] theorem Team.settleFlights_sched (t : Team)  : (t.settleFlights ).sched = t.sched := rfl
@[simp] theorem Team.settleFlights_regs (t : Team)  : (t.settleFlights ).regs = t.regs := rfl
@[simp] theorem Team.settleFlights_sys (t : Team)  : (t.settleFlights ).sys = t.sys := rfl
@[simp] theorem Team.settleFlights_ctl (t : Team)  : (t.settleFlights ).ctl = t.ctl := rfl
@[simp] theorem Team.settleFlights_rep (t : Team)  : (t.settleFlights ).rep = t.rep := rfl
@[simp] theorem Team.settleFlights_eng (t : Team)  : (t.settleFlights ).eng = t.eng := rfl
@[simp] theorem Team.settleFlights_maps (t : Team)  : (t.settleFlights ).maps = t.maps := rfl

@[simp] theorem Team.openWindow_id (t : Team) (w : Window) : (t.openWindow w).id = t.id := rfl
@[simp] theorem Team.openWindow_const (t : Team) (w : Window) : (t.openWindow w).const = t.const := rfl
@[simp] theorem Team.openWindow_sched (t : Team) (w : Window) : (t.openWindow w).sched = t.sched := rfl
@[simp] theorem Team.openWindow_regs (t : Team) (w : Window) : (t.openWindow w).regs = t.regs := rfl
@[simp] theorem Team.openWindow_sys (t : Team) (w : Window) : (t.openWindow w).sys = t.sys := rfl
@[simp] theorem Team.openWindow_ctl (t : Team) (w : Window) : (t.openWindow w).ctl = t.ctl := rfl
@[simp] theorem Team.openWindow_rep (t : Team) (w : Window) : (t.openWindow w).rep = t.rep := rfl
@[simp] theorem Team.openWindow_eng (t : Team) (w : Window) : (t.openWindow w).eng = t.eng := rfl
@[simp] theorem Team.openWindow_maps (t : Team) (w : Window) : (t.openWindow w).maps = t.maps := rfl

@[simp] theorem Team.staleTables_id (t : Team) (bs : List (Nat × Byte)) : (t.staleTables bs).id = t.id := rfl
@[simp] theorem Team.staleTables_const (t : Team) (bs : List (Nat × Byte)) : (t.staleTables bs).const = t.const := rfl
@[simp] theorem Team.staleTables_sched (t : Team) (bs : List (Nat × Byte)) : (t.staleTables bs).sched = t.sched := rfl
@[simp] theorem Team.staleTables_regs (t : Team) (bs : List (Nat × Byte)) : (t.staleTables bs).regs = t.regs := rfl
@[simp] theorem Team.staleTables_sys (t : Team) (bs : List (Nat × Byte)) : (t.staleTables bs).sys = t.sys := rfl
@[simp] theorem Team.staleTables_ctl (t : Team) (bs : List (Nat × Byte)) : (t.staleTables bs).ctl = t.ctl := rfl
@[simp] theorem Team.staleTables_iss (t : Team) (bs : List (Nat × Byte)) : (t.staleTables bs).iss = t.iss := rfl
@[simp] theorem Team.staleTables_rep (t : Team) (bs : List (Nat × Byte)) : (t.staleTables bs).rep = t.rep := rfl
@[simp] theorem Team.staleTables_maps (t : Team) (bs : List (Nat × Byte)) : (t.staleTables bs).maps = t.maps := rfl

@[simp] theorem Team.setMap_id (t : Team) (m : ScratchMap) : (t.setMap m).id = t.id := rfl
@[simp] theorem Team.setMap_const (t : Team) (m : ScratchMap) : (t.setMap m).const = t.const := rfl
@[simp] theorem Team.setMap_sched (t : Team) (m : ScratchMap) : (t.setMap m).sched = t.sched := rfl
@[simp] theorem Team.setMap_regs (t : Team) (m : ScratchMap) : (t.setMap m).regs = t.regs := rfl
@[simp] theorem Team.setMap_sys (t : Team) (m : ScratchMap) : (t.setMap m).sys = t.sys := rfl
@[simp] theorem Team.setMap_ctl (t : Team) (m : ScratchMap) : (t.setMap m).ctl = t.ctl := rfl
@[simp] theorem Team.setMap_iss (t : Team) (m : ScratchMap) : (t.setMap m).iss = t.iss := rfl
@[simp] theorem Team.setMap_rep (t : Team) (m : ScratchMap) : (t.setMap m).rep = t.rep := rfl
@[simp] theorem Team.setMap_eng (t : Team) (m : ScratchMap) : (t.setMap m).eng = t.eng := rfl

@[simp] theorem Team.setStack_id (t : Team) (f : Frag) (d : Nat) (x : LaneMask) : (t.setStack f d x).id = t.id := rfl
@[simp] theorem Team.setStack_const (t : Team) (f : Frag) (d : Nat) (x : LaneMask) : (t.setStack f d x).const = t.const := rfl
@[simp] theorem Team.setStack_sched (t : Team) (f : Frag) (d : Nat) (x : LaneMask) : (t.setStack f d x).sched = t.sched := rfl
@[simp] theorem Team.setStack_regs (t : Team) (f : Frag) (d : Nat) (x : LaneMask) : (t.setStack f d x).regs = t.regs := rfl
@[simp] theorem Team.setStack_sys (t : Team) (f : Frag) (d : Nat) (x : LaneMask) : (t.setStack f d x).sys = t.sys := rfl
@[simp] theorem Team.setStack_iss (t : Team) (f : Frag) (d : Nat) (x : LaneMask) : (t.setStack f d x).iss = t.iss := rfl
@[simp] theorem Team.setStack_rep (t : Team) (f : Frag) (d : Nat) (x : LaneMask) : (t.setStack f d x).rep = t.rep := rfl
@[simp] theorem Team.setStack_eng (t : Team) (f : Frag) (d : Nat) (x : LaneMask) : (t.setStack f d x).eng = t.eng := rfl
@[simp] theorem Team.setStack_maps (t : Team) (f : Frag) (d : Nat) (x : LaneMask) : (t.setStack f d x).maps = t.maps := rfl

@[simp] theorem Team.clearReplayMarks_id (t : Team)  : (t.clearReplayMarks ).id = t.id := rfl
@[simp] theorem Team.clearReplayMarks_const (t : Team)  : (t.clearReplayMarks ).const = t.const := rfl
@[simp] theorem Team.clearReplayMarks_sched (t : Team)  : (t.clearReplayMarks ).sched = t.sched := rfl
@[simp] theorem Team.clearReplayMarks_regs (t : Team)  : (t.clearReplayMarks ).regs = t.regs := rfl
@[simp] theorem Team.clearReplayMarks_sys (t : Team)  : (t.clearReplayMarks ).sys = t.sys := rfl
@[simp] theorem Team.clearReplayMarks_iss (t : Team)  : (t.clearReplayMarks ).iss = t.iss := rfl
@[simp] theorem Team.clearReplayMarks_rep (t : Team)  : (t.clearReplayMarks ).rep = t.rep := rfl
@[simp] theorem Team.clearReplayMarks_eng (t : Team)  : (t.clearReplayMarks ).eng = t.eng := rfl
@[simp] theorem Team.clearReplayMarks_maps (t : Team)  : (t.clearReplayMarks ).maps = t.maps := rfl

@[simp] theorem Team.writeS_id (t : Team) (n : Nat) (x : DWord) : (t.writeS n x).id = t.id := by
  unfold Team.writeS; split <;> rfl
@[simp] theorem Team.writeS_const (t : Team) (n : Nat) (x : DWord) : (t.writeS n x).const = t.const := by
  unfold Team.writeS; split <;> rfl
@[simp] theorem Team.writeS_sched (t : Team) (n : Nat) (x : DWord) : (t.writeS n x).sched = t.sched := by
  unfold Team.writeS; split <;> rfl
@[simp] theorem Team.writeS_sys (t : Team) (n : Nat) (x : DWord) : (t.writeS n x).sys = t.sys := by
  unfold Team.writeS; split <;> rfl
@[simp] theorem Team.writeS_ctl (t : Team) (n : Nat) (x : DWord) : (t.writeS n x).ctl = t.ctl := by
  unfold Team.writeS; split <;> rfl
@[simp] theorem Team.writeS_iss (t : Team) (n : Nat) (x : DWord) : (t.writeS n x).iss = t.iss := by
  unfold Team.writeS; split <;> rfl
@[simp] theorem Team.writeS_rep (t : Team) (n : Nat) (x : DWord) : (t.writeS n x).rep = t.rep := by
  unfold Team.writeS; split <;> rfl
@[simp] theorem Team.writeS_eng (t : Team) (n : Nat) (x : DWord) : (t.writeS n x).eng = t.eng := by
  unfold Team.writeS; split <;> rfl
@[simp] theorem Team.writeS_maps (t : Team) (n : Nat) (x : DWord) : (t.writeS n x).maps = t.maps := by
  unfold Team.writeS; split <;> rfl

@[simp] theorem Team.writeP_id (t : Team) (n : Nat) (x : LaneMask) : (t.writeP n x).id = t.id := by
  unfold Team.writeP; split <;> rfl
@[simp] theorem Team.writeP_const (t : Team) (n : Nat) (x : LaneMask) : (t.writeP n x).const = t.const := by
  unfold Team.writeP; split <;> rfl
@[simp] theorem Team.writeP_sched (t : Team) (n : Nat) (x : LaneMask) : (t.writeP n x).sched = t.sched := by
  unfold Team.writeP; split <;> rfl
@[simp] theorem Team.writeP_sys (t : Team) (n : Nat) (x : LaneMask) : (t.writeP n x).sys = t.sys := by
  unfold Team.writeP; split <;> rfl
@[simp] theorem Team.writeP_ctl (t : Team) (n : Nat) (x : LaneMask) : (t.writeP n x).ctl = t.ctl := by
  unfold Team.writeP; split <;> rfl
@[simp] theorem Team.writeP_iss (t : Team) (n : Nat) (x : LaneMask) : (t.writeP n x).iss = t.iss := by
  unfold Team.writeP; split <;> rfl
@[simp] theorem Team.writeP_rep (t : Team) (n : Nat) (x : LaneMask) : (t.writeP n x).rep = t.rep := by
  unfold Team.writeP; split <;> rfl
@[simp] theorem Team.writeP_eng (t : Team) (n : Nat) (x : LaneMask) : (t.writeP n x).eng = t.eng := by
  unfold Team.writeP; split <;> rfl
@[simp] theorem Team.writeP_maps (t : Team) (n : Nat) (x : LaneMask) : (t.writeP n x).maps = t.maps := by
  unfold Team.writeP; split <;> rfl

@[simp] theorem Team.writePIn_id (t : Team) (n : Nat) (m x : LaneMask) : (t.writePIn n m x).id = t.id := by
  simp [Team.writePIn]
@[simp] theorem Team.writePIn_const (t : Team) (n : Nat) (m x : LaneMask) : (t.writePIn n m x).const = t.const := by
  simp [Team.writePIn]
@[simp] theorem Team.writePIn_sched (t : Team) (n : Nat) (m x : LaneMask) : (t.writePIn n m x).sched = t.sched := by
  simp [Team.writePIn]
@[simp] theorem Team.writePIn_sys (t : Team) (n : Nat) (m x : LaneMask) : (t.writePIn n m x).sys = t.sys := by
  simp [Team.writePIn]
@[simp] theorem Team.writePIn_ctl (t : Team) (n : Nat) (m x : LaneMask) : (t.writePIn n m x).ctl = t.ctl := by
  simp [Team.writePIn]
@[simp] theorem Team.writePIn_iss (t : Team) (n : Nat) (m x : LaneMask) : (t.writePIn n m x).iss = t.iss := by
  simp [Team.writePIn]
@[simp] theorem Team.writePIn_rep (t : Team) (n : Nat) (m x : LaneMask) : (t.writePIn n m x).rep = t.rep := by
  simp [Team.writePIn]
@[simp] theorem Team.writePIn_eng (t : Team) (n : Nat) (m x : LaneMask) : (t.writePIn n m x).eng = t.eng := by
  simp [Team.writePIn]
@[simp] theorem Team.writePIn_maps (t : Team) (n : Nat) (m x : LaneMask) : (t.writePIn n m x).maps = t.maps := by
  simp [Team.writePIn]

@[simp] theorem Team.writeV_id (t : Team) (n : Nat) (xs : List (Nat × Word)) : (t.writeV n xs).id = t.id := by
  unfold Team.writeV; split <;> rfl
@[simp] theorem Team.writeV_const (t : Team) (n : Nat) (xs : List (Nat × Word)) : (t.writeV n xs).const = t.const := by
  unfold Team.writeV; split <;> rfl
@[simp] theorem Team.writeV_sched (t : Team) (n : Nat) (xs : List (Nat × Word)) : (t.writeV n xs).sched = t.sched := by
  unfold Team.writeV; split <;> rfl
@[simp] theorem Team.writeV_sys (t : Team) (n : Nat) (xs : List (Nat × Word)) : (t.writeV n xs).sys = t.sys := by
  unfold Team.writeV; split <;> rfl
@[simp] theorem Team.writeV_ctl (t : Team) (n : Nat) (xs : List (Nat × Word)) : (t.writeV n xs).ctl = t.ctl := by
  unfold Team.writeV; split <;> rfl
@[simp] theorem Team.writeV_rep (t : Team) (n : Nat) (xs : List (Nat × Word)) : (t.writeV n xs).rep = t.rep := by
  unfold Team.writeV; split <;> rfl
@[simp] theorem Team.writeV_eng (t : Team) (n : Nat) (xs : List (Nat × Word)) : (t.writeV n xs).eng = t.eng := by
  unfold Team.writeV; split <;> rfl
@[simp] theorem Team.writeV_maps (t : Team) (n : Nat) (xs : List (Nat × Word)) : (t.writeV n xs).maps = t.maps := by
  unfold Team.writeV; split <;> rfl

@[simp] theorem Team.makeRoom_id (t : Team) (fi : Nat) : (t.makeRoom fi).id = t.id := by
  unfold Team.makeRoom; split <;> [skip; split] <;> rfl
@[simp] theorem Team.makeRoom_const (t : Team) (fi : Nat) : (t.makeRoom fi).const = t.const := by
  unfold Team.makeRoom; split <;> [skip; split] <;> rfl
@[simp] theorem Team.makeRoom_sched (t : Team) (fi : Nat) : (t.makeRoom fi).sched = t.sched := by
  unfold Team.makeRoom; split <;> [skip; split] <;> rfl
@[simp] theorem Team.makeRoom_regs (t : Team) (fi : Nat) : (t.makeRoom fi).regs = t.regs := by
  unfold Team.makeRoom; split <;> [skip; split] <;> rfl
@[simp] theorem Team.makeRoom_stalled (t : Team) (fi : Nat) : (t.makeRoom fi).iss.stalled = t.iss.stalled := by
  unfold Team.makeRoom; split <;> [skip; split] <;> rfl
@[simp] theorem Team.makeRoom_begun (t : Team) (fi : Nat) : (t.makeRoom fi).iss.begun = t.iss.begun := by
  unfold Team.makeRoom; split <;> [skip; split] <;> rfl
@[simp] theorem Team.makeRoom_charge (t : Team) (fi : Nat) : (t.makeRoom fi).iss.charge = t.iss.charge := by
  unfold Team.makeRoom; split <;> [skip; split] <;> rfl
@[simp] theorem Team.makeRoom_issued (t : Team) (fi : Nat) : (t.makeRoom fi).iss.issued = t.iss.issued := by
  unfold Team.makeRoom; split <;> [skip; split] <;> rfl
@[simp] theorem Team.makeRoom_bypass (t : Team) (fi : Nat) : (t.makeRoom fi).iss.bypass = t.iss.bypass := by
  unfold Team.makeRoom; split <;> [skip; split] <;> rfl
@[simp] theorem Team.makeRoom_busy (t : Team) (fi : Nat) : (t.makeRoom fi).iss.busy = t.iss.busy := by
  unfold Team.makeRoom; split <;> [skip; split] <;> rfl
@[simp] theorem Team.makeRoom_ahead (t : Team) (fi : Nat) : (t.makeRoom fi).iss.ahead = t.iss.ahead := by
  unfold Team.makeRoom; split <;> [skip; split] <;> rfl
@[simp] theorem Team.makeRoom_withheld (t : Team) (fi : Nat) : (t.makeRoom fi).iss.withheld = t.iss.withheld := by
  unfold Team.makeRoom; split <;> [skip; split] <;> rfl
@[simp] theorem Team.makeRoom_dtrap (t : Team) (fi : Nat) : (t.makeRoom fi).iss.dtrap = t.iss.dtrap := by
  unfold Team.makeRoom; split <;> [skip; split] <;> rfl
@[simp] theorem Team.makeRoom_eng (t : Team) (fi : Nat) : (t.makeRoom fi).eng = t.eng := by
  unfold Team.makeRoom; split <;> [skip; split] <;> rfl
@[simp] theorem Team.makeRoom_maps (t : Team) (fi : Nat) : (t.makeRoom fi).maps = t.maps := by
  unfold Team.makeRoom; split <;> [skip; split] <;> rfl

/-! Updates of the package. -/

@[simp] theorem State.setTeam_agenda (s : State) (t : Team) : (s.setTeam t).agenda = s.agenda := rfl
@[simp] theorem State.setTeam_idle (s : State) (t : Team) : (s.setTeam t).idle = s.idle := rfl
@[simp] theorem State.setTeam_now (s : State) (t : Team) : (s.setTeam t).now = s.now := rfl
@[simp] theorem State.setTeam_replies (s : State) (t : Team) : (s.setTeam t).replies = s.replies := rfl

@[simp] theorem State.setVi_agenda (s : State) (v : Nat) (i : VirtIf) : (s.setVi v i).agenda = s.agenda := rfl
@[simp] theorem State.setVi_slots (s : State) (v : Nat) (i : VirtIf) : (s.setVi v i).slots = s.slots := rfl
@[simp] theorem State.setVi_idle (s : State) (v : Nat) (i : VirtIf) : (s.setVi v i).idle = s.idle := rfl
@[simp] theorem State.setVi_now (s : State) (v : Nat) (i : VirtIf) : (s.setVi v i).now = s.now := rfl
@[simp] theorem State.setVi_mem (s : State) (v : Nat) (i : VirtIf) : (s.setVi v i).mem = s.mem := rfl
@[simp] theorem State.setVi_ms (s : State) (v : Nat) (i : VirtIf) : (s.setVi v i).ms = s.ms := rfl
@[simp] theorem State.setVi_teams (s : State) (v : Nat) (i : VirtIf) : (s.setVi v i).teams = s.teams := rfl
@[simp] theorem State.setVi_clusters (s : State) (v : Nat) (i : VirtIf) : (s.setVi v i).clusters = s.clusters := rfl
@[simp] theorem State.setVi_prq (s : State) (v : Nat) (i : VirtIf) : (s.setVi v i).prq = s.prq := rfl
@[simp] theorem State.setVi_sched (s : State) (v : Nat) (i : VirtIf) : (s.setVi v i).sched = s.sched := rfl
@[simp] theorem State.setVi_pod (s : State) (v : Nat) (i : VirtIf) : (s.setVi v i).pod = s.pod := rfl
@[simp] theorem State.setVi_pwr (s : State) (v : Nat) (i : VirtIf) : (s.setVi v i).pwr = s.pwr := rfl
@[simp] theorem State.setVi_boot (s : State) (v : Nat) (i : VirtIf) : (s.setVi v i).boot = s.boot := rfl
@[simp] theorem State.setVi_ldr (s : State) (v : Nat) (i : VirtIf) : (s.setVi v i).ldr = s.ldr := rfl
@[simp] theorem State.setVi_replies (s : State) (v : Nat) (i : VirtIf) : (s.setVi v i).replies = s.replies := rfl

@[simp] theorem State.signal_agenda (s : State) (f v : Nat) : (s.signal f v).agenda = s.agenda := rfl
@[simp] theorem State.signal_slots (s : State) (f v : Nat) : (s.signal f v).slots = s.slots := rfl
@[simp] theorem State.signal_idle (s : State) (f v : Nat) : (s.signal f v).idle = s.idle := rfl
@[simp] theorem State.signal_now (s : State) (f v : Nat) : (s.signal f v).now = s.now := rfl
@[simp] theorem State.signal_mem (s : State) (f v : Nat) : (s.signal f v).mem = s.mem := rfl
@[simp] theorem State.signal_ms (s : State) (f v : Nat) : (s.signal f v).ms = s.ms := rfl
@[simp] theorem State.signal_teams (s : State) (f v : Nat) : (s.signal f v).teams = s.teams := rfl
@[simp] theorem State.signal_clusters (s : State) (f v : Nat) : (s.signal f v).clusters = s.clusters := rfl
@[simp] theorem State.signal_vis (s : State) (f v : Nat) : (s.signal f v).vis = s.vis := rfl
@[simp] theorem State.signal_prq (s : State) (f v : Nat) : (s.signal f v).prq = s.prq := rfl
@[simp] theorem State.signal_sched (s : State) (f v : Nat) : (s.signal f v).sched = s.sched := rfl
@[simp] theorem State.signal_pod (s : State) (f v : Nat) : (s.signal f v).pod = s.pod := rfl
@[simp] theorem State.signal_pwr (s : State) (f v : Nat) : (s.signal f v).pwr = s.pwr := rfl
@[simp] theorem State.signal_ldr (s : State) (f v : Nat) : (s.signal f v).ldr = s.ldr := rfl
@[simp] theorem State.signal_replies (s : State) (f v : Nat) : (s.signal f v).replies = s.replies := rfl

@[simp] theorem State.dropRequests_agenda (s : State) (team : Nat) (accs : List Acc) : (s.dropRequests team accs).agenda = s.agenda := rfl
@[simp] theorem State.dropRequests_slots (s : State) (team : Nat) (accs : List Acc) : (s.dropRequests team accs).slots = s.slots := rfl
@[simp] theorem State.dropRequests_idle (s : State) (team : Nat) (accs : List Acc) : (s.dropRequests team accs).idle = s.idle := rfl
@[simp] theorem State.dropRequests_now (s : State) (team : Nat) (accs : List Acc) : (s.dropRequests team accs).now = s.now := rfl
@[simp] theorem State.dropRequests_mem (s : State) (team : Nat) (accs : List Acc) : (s.dropRequests team accs).mem = s.mem := rfl
@[simp] theorem State.dropRequests_ms (s : State) (team : Nat) (accs : List Acc) : (s.dropRequests team accs).ms = s.ms := rfl
@[simp] theorem State.dropRequests_teams (s : State) (team : Nat) (accs : List Acc) : (s.dropRequests team accs).teams = s.teams := rfl
@[simp] theorem State.dropRequests_clusters (s : State) (team : Nat) (accs : List Acc) : (s.dropRequests team accs).clusters = s.clusters := rfl
@[simp] theorem State.dropRequests_vis (s : State) (team : Nat) (accs : List Acc) : (s.dropRequests team accs).vis = s.vis := rfl
@[simp] theorem State.dropRequests_prq (s : State) (team : Nat) (accs : List Acc) : (s.dropRequests team accs).prq = s.prq := rfl
@[simp] theorem State.dropRequests_sched (s : State) (team : Nat) (accs : List Acc) : (s.dropRequests team accs).sched = s.sched := rfl
@[simp] theorem State.dropRequests_pwr (s : State) (team : Nat) (accs : List Acc) : (s.dropRequests team accs).pwr = s.pwr := rfl
@[simp] theorem State.dropRequests_boot (s : State) (team : Nat) (accs : List Acc) : (s.dropRequests team accs).boot = s.boot := rfl
@[simp] theorem State.dropRequests_ldr (s : State) (team : Nat) (accs : List Acc) : (s.dropRequests team accs).ldr = s.ldr := rfl
@[simp] theorem State.dropRequests_replies (s : State) (team : Nat) (accs : List Acc) : (s.dropRequests team accs).replies = s.replies := rfl

@[simp] theorem State.send_agenda (s : State) (team : Nat) (u : RemoteFor) (dev : BitVec 10) (pa va : Nat) (k : RemoteKind) : (s.send team u dev pa va k).agenda = s.agenda := rfl
@[simp] theorem State.send_slots (s : State) (team : Nat) (u : RemoteFor) (dev : BitVec 10) (pa va : Nat) (k : RemoteKind) : (s.send team u dev pa va k).slots = s.slots := rfl
@[simp] theorem State.send_idle (s : State) (team : Nat) (u : RemoteFor) (dev : BitVec 10) (pa va : Nat) (k : RemoteKind) : (s.send team u dev pa va k).idle = s.idle := rfl
@[simp] theorem State.send_now (s : State) (team : Nat) (u : RemoteFor) (dev : BitVec 10) (pa va : Nat) (k : RemoteKind) : (s.send team u dev pa va k).now = s.now := rfl
@[simp] theorem State.send_mem (s : State) (team : Nat) (u : RemoteFor) (dev : BitVec 10) (pa va : Nat) (k : RemoteKind) : (s.send team u dev pa va k).mem = s.mem := rfl
@[simp] theorem State.send_teams (s : State) (team : Nat) (u : RemoteFor) (dev : BitVec 10) (pa va : Nat) (k : RemoteKind) : (s.send team u dev pa va k).teams = s.teams := rfl
@[simp] theorem State.send_clusters (s : State) (team : Nat) (u : RemoteFor) (dev : BitVec 10) (pa va : Nat) (k : RemoteKind) : (s.send team u dev pa va k).clusters = s.clusters := rfl
@[simp] theorem State.send_vis (s : State) (team : Nat) (u : RemoteFor) (dev : BitVec 10) (pa va : Nat) (k : RemoteKind) : (s.send team u dev pa va k).vis = s.vis := rfl
@[simp] theorem State.send_prq (s : State) (team : Nat) (u : RemoteFor) (dev : BitVec 10) (pa va : Nat) (k : RemoteKind) : (s.send team u dev pa va k).prq = s.prq := rfl
@[simp] theorem State.send_sched (s : State) (team : Nat) (u : RemoteFor) (dev : BitVec 10) (pa va : Nat) (k : RemoteKind) : (s.send team u dev pa va k).sched = s.sched := rfl
@[simp] theorem State.send_pwr (s : State) (team : Nat) (u : RemoteFor) (dev : BitVec 10) (pa va : Nat) (k : RemoteKind) : (s.send team u dev pa va k).pwr = s.pwr := rfl
@[simp] theorem State.send_boot (s : State) (team : Nat) (u : RemoteFor) (dev : BitVec 10) (pa va : Nat) (k : RemoteKind) : (s.send team u dev pa va k).boot = s.boot := rfl
@[simp] theorem State.send_ldr (s : State) (team : Nat) (u : RemoteFor) (dev : BitVec 10) (pa va : Nat) (k : RemoteKind) : (s.send team u dev pa va k).ldr = s.ldr := rfl
@[simp] theorem State.send_replies (s : State) (team : Nat) (u : RemoteFor) (dev : BitVec 10) (pa va : Nat) (k : RemoteKind) : (s.send team u dev pa va k).replies = s.replies := rfl

@[simp] theorem State.setLaunch_agenda (s : State) (l : Launch) : (s.setLaunch l).agenda = s.agenda := rfl
@[simp] theorem State.setLaunch_slots (s : State) (l : Launch) : (s.setLaunch l).slots = s.slots := rfl
@[simp] theorem State.setLaunch_idle (s : State) (l : Launch) : (s.setLaunch l).idle = s.idle := rfl
@[simp] theorem State.setLaunch_now (s : State) (l : Launch) : (s.setLaunch l).now = s.now := rfl
@[simp] theorem State.setLaunch_mem (s : State) (l : Launch) : (s.setLaunch l).mem = s.mem := rfl
@[simp] theorem State.setLaunch_ms (s : State) (l : Launch) : (s.setLaunch l).ms = s.ms := rfl
@[simp] theorem State.setLaunch_teams (s : State) (l : Launch) : (s.setLaunch l).teams = s.teams := rfl
@[simp] theorem State.setLaunch_clusters (s : State) (l : Launch) : (s.setLaunch l).clusters = s.clusters := rfl
@[simp] theorem State.setLaunch_vis (s : State) (l : Launch) : (s.setLaunch l).vis = s.vis := rfl
@[simp] theorem State.setLaunch_prq (s : State) (l : Launch) : (s.setLaunch l).prq = s.prq := rfl
@[simp] theorem State.setLaunch_pod (s : State) (l : Launch) : (s.setLaunch l).pod = s.pod := rfl
@[simp] theorem State.setLaunch_pwr (s : State) (l : Launch) : (s.setLaunch l).pwr = s.pwr := rfl
@[simp] theorem State.setLaunch_boot (s : State) (l : Launch) : (s.setLaunch l).boot = s.boot := rfl
@[simp] theorem State.setLaunch_ldr (s : State) (l : Launch) : (s.setLaunch l).ldr = s.ldr := rfl
@[simp] theorem State.setLaunch_replies (s : State) (l : Launch) : (s.setLaunch l).replies = s.replies := rfl

@[simp] theorem State.dropGate_agenda (s : State) (id n : Nat) : (s.dropGate id n).agenda = s.agenda := rfl
@[simp] theorem State.dropGate_slots (s : State) (id n : Nat) : (s.dropGate id n).slots = s.slots := rfl
@[simp] theorem State.dropGate_idle (s : State) (id n : Nat) : (s.dropGate id n).idle = s.idle := rfl
@[simp] theorem State.dropGate_now (s : State) (id n : Nat) : (s.dropGate id n).now = s.now := rfl
@[simp] theorem State.dropGate_mem (s : State) (id n : Nat) : (s.dropGate id n).mem = s.mem := rfl
@[simp] theorem State.dropGate_ms (s : State) (id n : Nat) : (s.dropGate id n).ms = s.ms := rfl
@[simp] theorem State.dropGate_teams (s : State) (id n : Nat) : (s.dropGate id n).teams = s.teams := rfl
@[simp] theorem State.dropGate_clusters (s : State) (id n : Nat) : (s.dropGate id n).clusters = s.clusters := rfl
@[simp] theorem State.dropGate_vis (s : State) (id n : Nat) : (s.dropGate id n).vis = s.vis := rfl
@[simp] theorem State.dropGate_prq (s : State) (id n : Nat) : (s.dropGate id n).prq = s.prq := rfl
@[simp] theorem State.dropGate_sched (s : State) (id n : Nat) : (s.dropGate id n).sched = s.sched := rfl
@[simp] theorem State.dropGate_pwr (s : State) (id n : Nat) : (s.dropGate id n).pwr = s.pwr := rfl
@[simp] theorem State.dropGate_boot (s : State) (id n : Nat) : (s.dropGate id n).boot = s.boot := rfl
@[simp] theorem State.dropGate_ldr (s : State) (id n : Nat) : (s.dropGate id n).ldr = s.ldr := rfl
@[simp] theorem State.dropGate_replies (s : State) (id n : Nat) : (s.dropGate id n).replies = s.replies := rfl

@[simp] theorem State.register_agenda (s : State) (core : Option Nat) (cached : Bool) (bs : List (Nat × Byte)) : (s.register core cached bs).agenda = s.agenda := rfl
@[simp] theorem State.register_slots (s : State) (core : Option Nat) (cached : Bool) (bs : List (Nat × Byte)) : (s.register core cached bs).slots = s.slots := rfl
@[simp] theorem State.register_idle (s : State) (core : Option Nat) (cached : Bool) (bs : List (Nat × Byte)) : (s.register core cached bs).idle = s.idle := rfl
@[simp] theorem State.register_now (s : State) (core : Option Nat) (cached : Bool) (bs : List (Nat × Byte)) : (s.register core cached bs).now = s.now := rfl
@[simp] theorem State.register_clusters (s : State) (core : Option Nat) (cached : Bool) (bs : List (Nat × Byte)) : (s.register core cached bs).clusters = s.clusters := rfl
@[simp] theorem State.register_vis (s : State) (core : Option Nat) (cached : Bool) (bs : List (Nat × Byte)) : (s.register core cached bs).vis = s.vis := rfl
@[simp] theorem State.register_prq (s : State) (core : Option Nat) (cached : Bool) (bs : List (Nat × Byte)) : (s.register core cached bs).prq = s.prq := rfl
@[simp] theorem State.register_sched (s : State) (core : Option Nat) (cached : Bool) (bs : List (Nat × Byte)) : (s.register core cached bs).sched = s.sched := rfl
@[simp] theorem State.register_pod (s : State) (core : Option Nat) (cached : Bool) (bs : List (Nat × Byte)) : (s.register core cached bs).pod = s.pod := rfl
@[simp] theorem State.register_pwr (s : State) (core : Option Nat) (cached : Bool) (bs : List (Nat × Byte)) : (s.register core cached bs).pwr = s.pwr := rfl
@[simp] theorem State.register_boot (s : State) (core : Option Nat) (cached : Bool) (bs : List (Nat × Byte)) : (s.register core cached bs).boot = s.boot := rfl
@[simp] theorem State.register_ldr (s : State) (core : Option Nat) (cached : Bool) (bs : List (Nat × Byte)) : (s.register core cached bs).ldr = s.ldr := rfl
@[simp] theorem State.register_replies (s : State) (core : Option Nat) (cached : Bool) (bs : List (Nat × Byte)) : (s.register core cached bs).replies = s.replies := rfl

@[simp] theorem State.deviceWrite_agenda (s : State) (pa : Nat) (bs : List Byte) : (s.deviceWrite pa bs).agenda = s.agenda := by
  unfold State.deviceWrite; split <;> rfl
@[simp] theorem State.deviceWrite_slots (s : State) (pa : Nat) (bs : List Byte) : (s.deviceWrite pa bs).slots = s.slots := by
  unfold State.deviceWrite; split <;> rfl
@[simp] theorem State.deviceWrite_idle (s : State) (pa : Nat) (bs : List Byte) : (s.deviceWrite pa bs).idle = s.idle := by
  unfold State.deviceWrite; split <;> rfl
@[simp] theorem State.deviceWrite_now (s : State) (pa : Nat) (bs : List Byte) : (s.deviceWrite pa bs).now = s.now := by
  unfold State.deviceWrite; split <;> rfl
@[simp] theorem State.deviceWrite_clusters (s : State) (pa : Nat) (bs : List Byte) : (s.deviceWrite pa bs).clusters = s.clusters := by
  unfold State.deviceWrite; split <;> rfl
@[simp] theorem State.deviceWrite_vis (s : State) (pa : Nat) (bs : List Byte) : (s.deviceWrite pa bs).vis = s.vis := by
  unfold State.deviceWrite; split <;> rfl
@[simp] theorem State.deviceWrite_prq (s : State) (pa : Nat) (bs : List Byte) : (s.deviceWrite pa bs).prq = s.prq := by
  unfold State.deviceWrite; split <;> rfl
@[simp] theorem State.deviceWrite_sched (s : State) (pa : Nat) (bs : List Byte) : (s.deviceWrite pa bs).sched = s.sched := by
  unfold State.deviceWrite; split <;> rfl
@[simp] theorem State.deviceWrite_pod (s : State) (pa : Nat) (bs : List Byte) : (s.deviceWrite pa bs).pod = s.pod := by
  unfold State.deviceWrite; split <;> rfl
@[simp] theorem State.deviceWrite_pwr (s : State) (pa : Nat) (bs : List Byte) : (s.deviceWrite pa bs).pwr = s.pwr := by
  unfold State.deviceWrite; split <;> rfl
@[simp] theorem State.deviceWrite_boot (s : State) (pa : Nat) (bs : List Byte) : (s.deviceWrite pa bs).boot = s.boot := by
  unfold State.deviceWrite; split <;> rfl
@[simp] theorem State.deviceWrite_ldr (s : State) (pa : Nat) (bs : List Byte) : (s.deviceWrite pa bs).ldr = s.ldr := by
  unfold State.deviceWrite; split <;> rfl
@[simp] theorem State.deviceWrite_replies (s : State) (pa : Nat) (bs : List Byte) : (s.deviceWrite pa bs).replies = s.replies := by
  unfold State.deviceWrite; split <;> rfl

@[simp] theorem State.device8_agenda (s : State) (pa : Nat) (x : DWord) : (s.device8 pa x).agenda = s.agenda := by
  simp [State.device8]
@[simp] theorem State.device8_slots (s : State) (pa : Nat) (x : DWord) : (s.device8 pa x).slots = s.slots := by
  simp [State.device8]
@[simp] theorem State.device8_idle (s : State) (pa : Nat) (x : DWord) : (s.device8 pa x).idle = s.idle := by
  simp [State.device8]
@[simp] theorem State.device8_now (s : State) (pa : Nat) (x : DWord) : (s.device8 pa x).now = s.now := by
  simp [State.device8]
@[simp] theorem State.device8_clusters (s : State) (pa : Nat) (x : DWord) : (s.device8 pa x).clusters = s.clusters := by
  simp [State.device8]
@[simp] theorem State.device8_vis (s : State) (pa : Nat) (x : DWord) : (s.device8 pa x).vis = s.vis := by
  simp [State.device8]
@[simp] theorem State.device8_prq (s : State) (pa : Nat) (x : DWord) : (s.device8 pa x).prq = s.prq := by
  simp [State.device8]
@[simp] theorem State.device8_sched (s : State) (pa : Nat) (x : DWord) : (s.device8 pa x).sched = s.sched := by
  simp [State.device8]
@[simp] theorem State.device8_pod (s : State) (pa : Nat) (x : DWord) : (s.device8 pa x).pod = s.pod := by
  simp [State.device8]
@[simp] theorem State.device8_pwr (s : State) (pa : Nat) (x : DWord) : (s.device8 pa x).pwr = s.pwr := by
  simp [State.device8]
@[simp] theorem State.device8_boot (s : State) (pa : Nat) (x : DWord) : (s.device8 pa x).boot = s.boot := by
  simp [State.device8]
@[simp] theorem State.device8_ldr (s : State) (pa : Nat) (x : DWord) : (s.device8 pa x).ldr = s.ldr := by
  simp [State.device8]
@[simp] theorem State.device8_replies (s : State) (pa : Nat) (x : DWord) : (s.device8 pa x).replies = s.replies := by
  simp [State.device8]

@[simp] theorem State.mapCluster_agenda (s : State) (n : Nat) (f : Cluster → Cluster) : (s.mapCluster n f).agenda = s.agenda := by
  unfold State.mapCluster; split <;> rfl
@[simp] theorem State.mapCluster_slots (s : State) (n : Nat) (f : Cluster → Cluster) : (s.mapCluster n f).slots = s.slots := by
  unfold State.mapCluster; split <;> rfl
@[simp] theorem State.mapCluster_idle (s : State) (n : Nat) (f : Cluster → Cluster) : (s.mapCluster n f).idle = s.idle := by
  unfold State.mapCluster; split <;> rfl
@[simp] theorem State.mapCluster_now (s : State) (n : Nat) (f : Cluster → Cluster) : (s.mapCluster n f).now = s.now := by
  unfold State.mapCluster; split <;> rfl
@[simp] theorem State.mapCluster_mem (s : State) (n : Nat) (f : Cluster → Cluster) : (s.mapCluster n f).mem = s.mem := by
  unfold State.mapCluster; split <;> rfl
@[simp] theorem State.mapCluster_ms (s : State) (n : Nat) (f : Cluster → Cluster) : (s.mapCluster n f).ms = s.ms := by
  unfold State.mapCluster; split <;> rfl
@[simp] theorem State.mapCluster_teams (s : State) (n : Nat) (f : Cluster → Cluster) : (s.mapCluster n f).teams = s.teams := by
  unfold State.mapCluster; split <;> rfl
@[simp] theorem State.mapCluster_vis (s : State) (n : Nat) (f : Cluster → Cluster) : (s.mapCluster n f).vis = s.vis := by
  unfold State.mapCluster; split <;> rfl
@[simp] theorem State.mapCluster_prq (s : State) (n : Nat) (f : Cluster → Cluster) : (s.mapCluster n f).prq = s.prq := by
  unfold State.mapCluster; split <;> rfl
@[simp] theorem State.mapCluster_sched (s : State) (n : Nat) (f : Cluster → Cluster) : (s.mapCluster n f).sched = s.sched := by
  unfold State.mapCluster; split <;> rfl
@[simp] theorem State.mapCluster_pod (s : State) (n : Nat) (f : Cluster → Cluster) : (s.mapCluster n f).pod = s.pod := by
  unfold State.mapCluster; split <;> rfl
@[simp] theorem State.mapCluster_pwr (s : State) (n : Nat) (f : Cluster → Cluster) : (s.mapCluster n f).pwr = s.pwr := by
  unfold State.mapCluster; split <;> rfl
@[simp] theorem State.mapCluster_boot (s : State) (n : Nat) (f : Cluster → Cluster) : (s.mapCluster n f).boot = s.boot := by
  unfold State.mapCluster; split <;> rfl
@[simp] theorem State.mapCluster_ldr (s : State) (n : Nat) (f : Cluster → Cluster) : (s.mapCluster n f).ldr = s.ldr := by
  unfold State.mapCluster; split <;> rfl
@[simp] theorem State.mapCluster_replies (s : State) (n : Nat) (f : Cluster → Cluster) : (s.mapCluster n f).replies = s.replies := by
  unfold State.mapCluster; split <;> rfl

/-! Registers: a read after a write. -/

/-- S[k] after a write of S[n]; S0 stays zero (R27). -/
theorem Team.readS_writeS (t : Team) (n k : Nat) (x : DWord) :
    (t.writeS n x).readS k = if k = n ∧ n ≠ 0 then x else t.readS k := by
  unfold Team.writeS Team.readS
  by_cases hn : n = 0
  · simp [hn]
  · by_cases hk : k = 0
    · simp [hk, Ne.symm hn]
    · simp [hn, hk, Sparse.get_set]

/-- P[k] after a write of P[n]; P0 stays one in every lane (R28). -/
theorem Team.readP_writeP (t : Team) (n k : Nat) (x : LaneMask) :
    (t.writeP n x).readP k = if k = n ∧ n ≠ 0 then x else t.readP k := by
  unfold Team.writeP Team.readP
  by_cases hn : n = 0
  · simp [hn]
  · by_cases hk : k = 0
    · simp [hk, Ne.symm hn]
    · simp [hn, hk, Sparse.get_set]

/-- P[k] after a write of the lanes of a mask: only those lanes of P[n] change. -/
theorem Team.readP_writePIn (t : Team) (n k : Nat) (m x : LaneMask) :
    (t.writePIn n m x).readP k = if k = n ∧ n ≠ 0 then (t.readP n &&& ~~~m) ||| (x &&& m) else t.readP k :=
  t.readP_writeP n k _

/-- G[k] after a write of G[n]. -/
theorem Team.readG_writeG (t : Team) (n k : Nat) (x : QWord) : (t.writeG n x).readG k = if k = n then x else t.readG k := by
  simp [Team.writeG, Team.readG, Sparse.get_set]

/-- V[k] in a lane that a write of V[n] does not name. -/
theorem Team.readV_writeV_other (t : Team) {n k l : Nat} (xs : List (Nat × Word)) (hn : n ≠ 127) (hk : k ≠ 127)
    (h : ∀ x ∈ xs, 1024 * n + x.1 ≠ 1024 * k + l) : (t.writeV n xs).readV k l = t.readV k l := by
  simp only [Team.writeV, Team.readV, hn, hk, if_false]
  refine Sparse.get_setAll_other _ _ _ ?_
  intro y hy
  obtain ⟨x, hx, rfl⟩ := List.mem_map.mp hy
  exact h x hx

/-- What a word registered at its home leaves of every byte that it does not name. -/
theorem State.register_byte_other (s : State) (core : Option Nat) (cached : Bool) (bs : List (Nat × Byte)) (a : Nat)
    (h : ∀ b ∈ bs, b.1 ≠ a) : (s.register core cached bs).mem.byte a = s.mem.byte a :=
  Memory.byte_writeBytes_other s.mem bs a h

/-- Registering keeps memory in its canonical form. -/
theorem State.register_wf {s : State} (h : s.mem.wf = true) (core : Option Nat) (cached : Bool) (bs : List (Nat × Byte)) :
    (s.register core cached bs).mem.wf = true :=
  Memory.writeBytes_wf h bs

/-- A write of a device agent keeps memory in its canonical form. -/
theorem State.deviceWrite_wf {s : State} (h : s.mem.wf = true) (pa : Nat) (bs : List Byte) : (s.deviceWrite pa bs).mem.wf = true := by
  unfold State.deviceWrite
  split
  · exact State.register_wf h ..
  · exact h

end Sys2Proof.Machine
end

