-- ==== Sys2Proof/Laws/Traps.lean ====
section
/-! SUPPORT. Closing windows and taking a trap. -/

namespace Sys2Proof.Machine

/-! Closing windows. -/

theorem Team.closeWrite_eq (t : Team) (k : Nat) (w : WinWrite) :
    ∃ s v b, t.closeWrite k w = { t with regs.s := s, regs.v := v, iss.bypass := b } := by
  unfold Team.closeWrite
  split
  · unfold Team.writeS
    split
    · exact ⟨t.regs.s, t.regs.v, t.iss.bypass, rfl⟩
    · exact ⟨_, t.regs.v, t.iss.bypass, rfl⟩
  · simp only
    split
    · split
      · exact ⟨t.regs.s, t.regs.v, _, rfl⟩
      · exact ⟨t.regs.s, t.regs.v, _, rfl⟩
    · exact ⟨t.regs.s, _, t.iss.bypass, rfl⟩

theorem Team.closeWrites_eq (t : Team) (k : Nat) (ws : List WinWrite) :
    ∃ s v b, ws.foldl (fun t x => t.closeWrite k x) t = { t with regs.s := s, regs.v := v, iss.bypass := b } := by
  induction ws generalizing t with
  | nil => exact ⟨t.regs.s, t.regs.v, t.iss.bypass, rfl⟩
  | cons w r ih =>
    obtain ⟨s, v, b, h⟩ := t.closeWrite_eq k w
    obtain ⟨s', v', b', h'⟩ := ih (t.closeWrite k w)
    exact ⟨s', v', b', by rw [List.foldl_cons, h', h]⟩

theorem Team.closeFirst_eq (t : Team) (ws : List Window) :
    ∃ s v b r, t.closeFirst ws = { t with regs.s := s, regs.v := v, iss.bypass := b, iss.windows := r } := by
  induction ws generalizing t with
  | nil => exact ⟨t.regs.s, t.regs.v, t.iss.bypass, [], rfl⟩
  | cons w r ih =>
    unfold Team.closeFirst
    split
    · obtain ⟨s, v, b, h⟩ := t.closeWrites_eq w.opened w.writes
      obtain ⟨s', v', b', r', h'⟩ := ih (t.closeWindow w)
      refine ⟨s', v', b', r', ?_⟩
      rw [h', Team.closeWindow, h]
    · exact ⟨t.regs.s, t.regs.v, t.iss.bypass, w :: r, rfl⟩

/-- Closing every window changes S and V registers, the bypass and the list of windows. -/
theorem Team.closeAll_eq (t : Team) :
    ∃ s v b r, t.closeAll = { t with regs.s := s, regs.v := v, iss.bypass := b, iss.windows := r } :=
  t.closeFirst_eq _

/-- Where no window waits for bytes, all of them close. -/
theorem Team.closeFirst_all (t : Team) (ws : List Window) (h : ∀ w ∈ ws, w.waits = []) : (t.closeFirst ws).iss.windows = [] := by
  induction ws generalizing t with
  | nil => rfl
  | cons w r ih =>
    unfold Team.closeFirst
    rw [if_pos (by simp [h w (by simp)])]
    exact ih _ fun x hx => h x (by simp [hx])

theorem Team.closeAll_none (t : Team) (h : ∀ w ∈ t.iss.windows, w.waits = []) : t.closeAll.iss.windows = [] := by
  refine t.closeFirst_all _ fun w hw => ?_
  obtain ⟨x, hx, rfl⟩ := List.mem_map.mp hw
  exact h x hx

/-! Traps. -/

/-- Trap entry outside trap mode is what `TookTrap` says. -/
theorem Team.takeTrap_took {t : Team} {fi : Nat} (htm : t.tm = false) (hfi : fi < t.ctl.frags.length) (cause : BitVec 8)
    (tinfo : DWord) (kind : TrapKind) : TookTrap t fi cause tinfo kind (t.takeTrap fi cause tinfo kind) := by
  obtain ⟨s, v, b, ws, h⟩ := t.closeAll_eq
  unfold Team.takeTrap
  have htm' : t.closeAll.tm = false := by rw [h]; exact htm
  have hr : ∀ (r : Bool) (tpc : DWord), (restarts t kind → r = true ∧ tpc = t.restartPc) →
      (¬ restarts t kind → r = false ∧ ∀ p, kind = .precise p ∨ kind = .resumable p → tpc = p) →
      TookTrap t fi cause tinfo kind { t.closeAll with
        sys.tcause := BitVec.ofNat 64 (512 + (if r then 256 else 0) + cause.toNat), sys.tpc := tpc,
        sys.tinfo := if r then tinfo ||| t.closeAll.kentryBit else tinfo,
        ctl.frags := setAt t.closeAll.ctl.frags fi { t.closeAll.frag fi with pc := addr57 (t.closeAll.sys.tvec + BitVec.ofNat 64 (64 * cause.toNat)) },
        iss.begun := none, iss.charge := none, iss.trapFrag := some fi, iss.withheld := none } := by
    intro r tpc h1 h2
    have hw := t.closeAll_none
    rw [h] at hw ⊢
    refine ⟨fun hx => ?_, fun hx => ?_, getD_setAt_same _ _ _ _ hfi, fun k hk => getD_setAt_other _ _ _ _ _ hk, rfl, rfl, ?_, ?_,
      ⟨rfl, rfl⟩, ?_, ?_⟩
    · obtain ⟨hr, hp⟩ := h1 hx
      subst hr hp
      refine ⟨rfl, ?_, ?_⟩
      · unfold Team.restartPc; cases t.rep.kentry <;> rfl
      · simp only [Team.kentryBit]; cases t.rep.kentry <;> simp
    · obtain ⟨hr, hp⟩ := h2 hx
      subst hr
      exact ⟨rfl, rfl, hp⟩
    · rw [h]
    · exact ⟨by rw [h], hw⟩
    · rw [h]
    · rfl
  have htm2 : { t.closeAll with iss.begun := none, iss.charge := none : Team }.tm = false := htm'
  simp only [htm2, Bool.false_eq_true, if_false]
  have hrp : t.closeAll.restartPc = t.restartPc := by rw [h]; rfl
  cases kind with
  | region => exact hr true _ (fun _ => ⟨rfl, hrp⟩) (fun hx => absurd trivial hx)
  | resumable p =>
    refine hr false p (fun hx => hx.elim) fun _ => ⟨rfl, ?_⟩
    rintro q (e | e)
    · exact absurd e (by simp)
    · exact TrapKind.resumable.inj e
  | precise p =>
    refine hr t.closeAll.transientLive _ (fun hx => ?_) fun hx => ?_
    · have hx : t.closeAll.transientLive = true := hx
      exact ⟨hx, (if_pos hx).trans hrp⟩
    · have hx : t.closeAll.transientLive = false := by simpa [restarts] using hx
      refine ⟨hx, ?_⟩
      rintro q (e | e)
      · exact (if_neg (Bool.eq_false_iff.mp hx)).trans (TrapKind.precise.inj e)
      · exact absurd e (by simp)

/-- A trap in trap mode is what `DoubleTrapped` says. -/
theorem Team.takeTrap_double {t : Team} {fi : Nat} (htm : t.tm = true) (cause : BitVec 8) (tinfo : DWord) (kind : TrapKind) :
    DoubleTrapped t fi cause tinfo kind (t.takeTrap fi cause tinfo kind) := by
  obtain ⟨s, v, b, ws, h⟩ := t.closeAll_eq
  have htm' : { t.closeAll with iss.begun := none, iss.charge := none : Team }.tm = true := by
    show t.closeAll.tm = true
    rw [h]; exact htm
  unfold Team.takeTrap
  simp only [htm', if_true]
  have hf : { t.closeAll with iss.begun := none, iss.charge := none : Team }.frag fi = t.frag fi := by
    show t.closeAll.frag fi = _
    rw [h]; rfl
  have hk : { t.closeAll with iss.begun := none, iss.charge := none : Team }.kentryBit = t.kentryBit := by
    show t.closeAll.kentryBit = _
    rw [h]; rfl
  refine ⟨by rw [h], fun hx => ?_, fun hx => ?_, by rw [h], by rw [h], rfl⟩
  · rw [hf, hk]
    cases kind with
    | region => simp only [Team.kentryBit]; cases t.rep.kentry <;> simp
    | resumable p => exact hx.elim
    | precise p =>
      have hx : t.closeAll.transientLive = true := hx
      simp only [show { t.closeAll with iss.begun := none, iss.charge := none : Team }.transientLive = true from hx, if_true]
      simp only [Team.kentryBit]; cases t.rep.kentry <;> simp
  · rw [hf]
    cases kind with
    | region => exact absurd trivial hx
    | resumable p => rfl
    | precise p =>
      have hx : t.closeAll.transientLive = false := by simpa [restarts] using hx
      simp only [show { t.closeAll with iss.begun := none, iss.charge := none : Team }.transientLive = false from hx]
      rfl

/-- The trap of a team in a state where only clusters have changed. -/
theorem Ctx.trapped_is {s : State} {c : Ctx} (h : s.ctx? = some c) {s' : State} (hs : s' = { c.s with clusters := s'.clusters })
    {t : Team} (ht : t.id = c.t.id) (hc : (t.frag c.fi).st = .running) (cause : BitVec 8) (tinfo : DWord) (kind : TrapKind) :
    Trapped c t cause tinfo kind (c.trapped s' t cause tinfo kind) := by
  have hteam := Ctx.team_here h
  have hid : (t.takeTrap c.fi cause tinfo kind).id = c.t.id := by
    obtain ⟨s, v, b, ws, e⟩ := t.closeAll_eq
    unfold Team.takeTrap
    simp only
    rw [e]
    split <;> exact ht
  refine ⟨t.takeTrap c.fi cause tinfo kind, ?_, ?_, ?_, fun hm => Team.takeTrap_took hm (Team.frag_lt hc) .., fun hm => Team.takeTrap_double hm ..⟩
  · unfold Ctx.trapped
    rw [← hid]
    refine State.team?_setTeam (u := c.t) ?_
    rw [hid, hs]
    exact hteam
  · unfold Ctx.trapped
    rw [hs, ← hid]
    exact ⟨(SameBut.setTeam _).others, fun _ _ => Iff.rfl, rfl⟩
  · intro a
    unfold Ctx.trapped
    rw [hs]
    rfl

end Sys2Proof.Machine
end

