-- ==== Sys2Proof/Tests/Slice0.lean ====
section
/-! SUPPORT. Small tests. Words and results stand in the spec, in the rule or example that the comment names, or follow from its rule
by hand. The theorems `meets_…` show states and operands that meet the hypotheses of the obligation of that name. -/

namespace Sys2Proof.Machine

/-! Each theorem is checked before the next is read, so that few threads run at once. -/

set_option Elab.async false

/-! Small states. -/

/-- The machine whose loaded team, changed by f, is about to issue; some bytes of memory are written. -/
def small (f : Team → Team) (mem : List (Nat × Byte)) : State :=
  let s := State.reset.loaded
  { s with teams := s.teams.map f, mem := s.mem.writeBytes mem }

/-- The word of an instruction. -/
def wordOf (i : Instr) : Nat := ((encode i).getD 0).toNat

/-- The state after one step of a machine that fetches an instruction next. -/
def stepped (i : Instr) (s : State) : Option State :=
  match step (s.withFetchWord 32 (wordOf i)) with
  | .next n => some n
  | _ => none

/-- A value of the loaded team after one step. -/
def gives {α : Type} (i : Instr) (s : State) (get : Team → α) : Option α := ((stepped i s).bind fun n => n.team? 0).map get

/-- The team of a state with one team. -/
def State.one (s : State) : Team := (s.team? 0).getD (freshTeam 0 loadConst 0 loadSched)

/-- S4 and S5 hold two values. -/
def ab (a b : DWord) (t : Team) : Team := (t.writeS 4 a).writeS 5 b

/-- Some state in which an instruction can issue has a property. -/
def Meets (i : Instr) (P : Ctx → Prop) : Prop := ∃ s c, Ready s c i ∧ P c

theorem meets {i : Instr} {P : Ctx → Prop} [DecidablePred P] (s : State)
    (h : (match s.ctx? with
      | some c => c.t.operandsOk (Instr.operands c.t i) &&
          !c.s.interlocked c.t i (Instr.operands c.t i) &&
          !c.s.laneTaken c.t c.f ((encode i).getD 0) && decide (P c)
      | none => false) = true) : Meets i P := by
  cases hc : s.ctx? with
  | none => rw [hc] at h; cases h
  | some c =>
    rw [hc] at h
    simp only [Bool.and_eq_true, Bool.not_eq_true', decide_eq_true_eq] at h
    exact ⟨s, c, ⟨hc, h.1.1.1, h.1.1.2, h.1.2⟩, h.2⟩

/-- Some state in which a team is about to issue has a property. -/
def About (P : Ctx → Prop) : Prop := ∃ (s : State) (c : Ctx), s.ctx? = some c ∧ P c

theorem about {P : Ctx → Prop} [DecidablePred P] (s : State)
    (h : (match s.ctx? with | some c => decide (P c) | none => false) = true) : About P := by
  cases hc : s.ctx? with
  | none => rw [hc] at h; cases h
  | some c => rw [hc] at h; exact ⟨s, c, hc, of_decide_eq_true h⟩

theorem Meets.imp {i : Instr} {P Q : Ctx → Prop} (h : Meets i P) (hpq : ∀ c, P c → Q c) : Meets i Q :=
  let ⟨s, c, hr, hp⟩ := h
  ⟨s, c, hr, hpq c hp⟩

/-! Hypotheses of the obligations on scalar, control and system instructions. -/

/-- The fragment of a team, changed. -/
def Team.onFrag (f : Frag → Frag) (t : Team) : Team := t.setFrag 0 (f (t.frag 0))

/-- A team split in two by one split: the first fragment is at its PC, the second at 0x20000 with the other lanes; both fuse at 0x18000. -/
def halves (second : FragState) (t : Team) : Team :=
  { t with ctl.fuse := setAt t.ctl.fuse 0 (some 0x18000), ctl.splits := 2, ctl.frags := setAt (setAt t.ctl.frags 0
      ⟨0xFFFF, (t.frag 0).pc, 0, 1, .running, [(1, 0)], false⟩) 1 ⟨0xFFFF0000, 0x20000, 0, 1, second, [(1, 0)], false⟩ }

/-- The first fragment of two is about to come to the fuse address. -/
def arriving (second : FragState) (t : Team) : Team :=
  let t := halves second t
  { t with ctl.frags := setAt (setAt t.ctl.frags 0 { t.frag 0 with pc := 0x17FFC }) 1 { t.frag 1 with pc := 0x18000 } }

/-- A team in trap mode. -/
def inTrap (t : Team) : Team := { t with sys.tcause := 512 }

/-- A team with n return addresses. -/
def linked (n : Nat) (a : DWord) (t : Team) : Team := { t with ctl.link := List.replicate n a }

/-- A team in the last instruction of a loop with some passes left. -/
def looping (passes : DWord) (t : Team) : Team := { t with ctl.loop := [⟨0xFF00, 0x10000, passes, 0⟩] }

theorem meets_ScalarResults :
    Meets (.sDiv 63 4 5) (fun c => ¬ c.t.Arrives c.fi (c.t.nextPc c.fi) ∧ scalarResult c (.sDiv 63 4 5) = some (63, -3, 36)) ∧
    Meets (.sAdd 0 4 5) (fun c => ¬ c.t.Arrives c.fi (c.t.nextPc c.fi) ∧ scalarResult c (.sAdd 0 4 5) = some (0, -5, 1)) :=
  ⟨meets (small (ab (-7) 2) []) (by decide +kernel), meets (small (ab (-7) 2) []) (by decide +kernel)⟩

theorem meets_DivisionCorners :
    Meets (.sDiv 6 4 5) (fun c => c.t.readS 5 = 0) ∧
    Meets (.sRem 6 4 5) (fun c => (c.t.readS 4).toInt = -2 ^ 63 ∧ (c.t.readS 5).toInt = -1) ∧
    Meets (.sDivu 6 4 5) (fun c => c.t.readS 5 ≠ 0) ∧ Meets (.sRemu 6 4 5) (fun c => c.t.readS 5 = 0) :=
  ⟨meets (small (ab 7 0) []) (by decide +kernel), meets (small (ab 0x8000000000000000 (-1)) []) (by decide +kernel),
    meets (small (ab 7 1) []) (by decide +kernel), meets (small (ab 7 0) []) (by decide +kernel)⟩

theorem meets_Branches :
    Meets (.brz 4 (-4)) (fun c => branch c (.brz 4 (-4)) = some (true, 0xFFF0) ∧ ¬ c.t.Arrives c.fi 0xFFF0) ∧
    Meets (.brz 4 (-4)) (fun c => branch c (.brz 4 (-4)) = some (false, 0xFFF0) ∧ ¬ c.t.Arrives c.fi (c.t.nextPc c.fi)) ∧
    Meets (.jmpr 4) (fun c => branch c (.jmpr 4) = some (true, 0x1FFFFFFFFFFFFFC)) ∧
    Meets (.brp 0 .notall 1) (fun c => branch c (.brp 0 .notall 1) = some (false, 0x10004)) ∧
    Meets (.jmpr 4) (fun c => (c.t.readS 4).toNat % 4 ≠ 0) :=
  ⟨meets (small (ab 0 0) []) (by decide +kernel), meets (small (ab 1 0) []) (by decide +kernel), meets (small (ab (-4) 0) []) (by decide +kernel),
    meets (small id []) (by decide +kernel), meets (small (ab 0x20001 0) []) (by decide +kernel)⟩

theorem meets_SystemRegisters :
    Meets (.sysr 4 10) (fun c => sysValue c 10 = some (0x80 * 2 ^ 12 + 16) ∧ ¬ c.t.Arrives c.fi (c.t.nextPc c.fi)) ∧
    Meets (.sysr 4 31) (fun c => sysValue c 31 = some 0) ∧ Meets (.sysr 4 32) (fun c => sysValue c 32 = none) ∧
    Meets (.sysw 4 6) (fun c => ∃ t', sysWritten c.t 6 (c.t.readS 4) = some t') ∧
    Meets (.sysw 4 5) (fun c => sysWritten c.t 5 (c.t.readS 4) = none) ∧
    Meets (.modeSet 4 5) (fun c => c.t.closeAll.readS 4 = 0x3FFFFF ∧ c.t.closeAll.readS 5 = 0x3FF80F ∧
      modeAllowed ((c.t.mode &&& ~~~0x3FF80F) ||| (0x3FFFFF &&& 0x3FF80F))) ∧
    Meets (.modeSet 4 5) (fun c => c.t.closeAll.readS 4 = 0xD0 ∧ c.t.closeAll.readS 5 = 0xF0 ∧ ¬ modeAllowed ((c.t.mode &&& ~~~0xF0) ||| (0xD0 &&& 0xF0))) :=
  ⟨meets (small id []) (by decide +kernel), meets (small id []) (by decide +kernel), meets (small id []) (by decide +kernel),
    (meets (P := fun c => (sysWritten c.t 6 (c.t.readS 4)).isSome = true) (small id []) (by decide +kernel)).imp
      fun _ h => Option.isSome_iff_exists.mp h,
    meets (small id []) (by decide +kernel), meets (small (ab 0x3FFFFF 0x3FF80F) []) (by decide +kernel), meets (small (ab 0xD0 0xF0) []) (by decide +kernel)⟩

theorem meets_PlainFunctions : ∀ i ∈ [Instr.nop, .recv (-1), .perf 4, .yield], Meets i fun c => ¬ c.t.Arrives c.fi (c.t.nextPc c.fi) := by
  intro i hi
  fin_cases hi
  all_goals exact meets (small (ab 3 0) []) (by decide +kernel)

theorem meets_Calls :
    Meets (.call 0x100) (fun c => c.t.split = true) ∧
    Meets (.callr 4) (fun c => c.t.split = false ∧ (c.t.readS 4).toNat % 4 ≠ 0) ∧
    Meets (.call 0x100) (fun c => c.t.split = false ∧ c.t.ctl.link.length = 15 ∧ ¬ c.t.Arrives c.fi (addr57 (pcPlus c.pc 0x100))) ∧
    Meets (.callr 4) (fun c => c.t.split = false ∧ (c.t.readS 4).toNat % 4 = 0 ∧ c.t.ctl.link.length = 16 ∧ c.t.sys.lsp.toNat % 8 ≠ 0) ∧
    Meets (.call 0x100) (fun c => c.t.split = false ∧ c.t.ctl.link.length = 16 ∧ c.t.sys.lsp.toNat % 8 = 0 ∧
      c.s.pathsFull c.t [pathOf c.t.sys.lsp.toNat + 1] = false ∧ ¬ c.t.Arrives c.fi (addr57 (pcPlus c.pc 0x100)) ∧
      (match c.s.store c.t false 1 [(⟨1024 + c.fi, c.t.sys.lsp.toNat, 8⟩, toBytes 8 (c.t.ctl.link.getLastD 0).toNat)] with
      | .ok s' (t', none) => (s'.team? t'.id).isSome && t'.id == c.t.id && t'.ctl == c.t.ctl
      | _ => false) = true) :=
  ⟨meets (small (halves .running) []) (by decide +kernel), meets (small (ab 0x20002 0) []) (by decide +kernel),
    meets (small (linked 15 0x20000) []) (by decide +kernel),
    meets (small (fun t => { ab 0x20000 0 (linked 16 0x20000 t) with sys.lsp := 0x3000C }) []) (by decide +kernel),
    meets (small (fun t => { linked 16 0x20000 t with sys.lsp := 0x30000 }) []) (by decide +kernel)⟩

theorem meets_Returns :
    Meets .ret (fun c => c.t.split = true) ∧
    Meets .ret (fun c => c.t.split = false ∧ c.t.ctl.link = [] ∧ c.t.ctl.spilled = 0) ∧
    Meets .ret (fun c => c.t.split = false ∧ c.t.ctl.link = [0x20002]) ∧
    Meets .ret (fun c => c.t.split = false ∧ c.t.ctl.link = [0x20000] ∧ ¬ c.t.Arrives c.fi (addr57 0x20000)) ∧
    Meets .ret (fun c => c.t.split = false ∧ c.t.ctl.link = [] ∧ c.t.ctl.spilled = 1 ∧ (addr57 (c.t.sys.lsp - 8)).toNat = 0x30000 ∧
      ¬ c.t.Arrives c.fi 0x20000 ∧
      (match c.s.load c.t false [⟨1024 + c.fi, 0x30000, 8⟩] with
      | .ok s' [(_, .data bs)] => (s'.team? c.t.id).isSome && ofBytes bs == 0x20000
      | _ => false) = true) :=
  ⟨meets (small (halves .waiting) []) (by decide +kernel), meets (small id []) (by decide +kernel), meets (small (linked 1 0x20002) []) (by decide +kernel),
    meets (small (linked 1 0x20000) []) (by decide +kernel),
    meets (small (fun t => { t with ctl.spilled := 1, sys.lsp := 0x30008 }) [(0x30002, 2)]) (by decide +kernel)⟩

theorem meets_Loops :
    let atEnd := fun (c : Ctx) => ¬ c.t.Arrives c.fi (c.t.nextPc c.fi) ∧ c.t.ctl.loop.map (·.last) = [c.pc] ∧
      c.t.ctl.loop.map (·.linkDepth) = [c.t.linkDepth]
    Meets (.loop 4 0) (fun _ => True) ∧ Meets (.loop 4 1) (fun c => c.t.readS 4 = 0) ∧
    Meets (.loop 4 1) (fun c => c.t.readS 4 = 1 ∧ c.t.ctl.loop.length = 4) ∧
    Meets (.loop 4 1) (fun c => c.t.readS 4 = 1 ∧ c.t.ctl.loop.length = 0 ∧ c.t.split = true) ∧
    Meets (.loop 4 1) (fun c => c.t.readS 4 = 1 ∧ c.t.ctl.loop.length = 3 ∧ c.t.split = false ∧ ¬ c.t.Arrives c.fi (pcPlus c.pc 1)) ∧
    Meets .nop (fun c => atEnd c ∧ c.t.tm = false ∧ c.t.split = false ∧ (c.t.ctl.loop.map (·.remaining)) = [2]) ∧
    Meets .nop (fun c => atEnd c ∧ c.t.tm = false ∧ c.t.split = true) ∧
    Meets .nop (fun c => atEnd c ∧ c.t.tm = false ∧ c.t.split = false ∧ (c.t.ctl.loop.map (·.remaining)) = [1]) ∧
    Meets .nop (fun c => atEnd c ∧ c.t.tm = true) :=
  ⟨meets (small id []) (by decide +kernel), meets (small id []) (by decide +kernel),
    meets (small (fun t => { ab 1 0 t with ctl.loop := List.replicate 4 ⟨0, 0, 1, 0⟩ }) []) (by decide +kernel),
    meets (small (fun t => ab 1 0 (halves .running t)) []) (by decide +kernel),
    meets (small (fun t => { ab 1 0 t with ctl.loop := List.replicate 3 ⟨0, 0, 1, 0⟩ }) []) (by decide +kernel),
    meets (small (looping 2) []) (by decide +kernel), meets (small (fun t => looping 2 (halves .running t)) []) (by decide +kernel),
    meets (small (looping 1) []) (by decide +kernel), meets (small (fun t => looping 2 (inTrap t)) []) (by decide +kernel)⟩

theorem meets_DivergentBranch :
    let yes := fun (c : Ctx) => c.f.mask &&& c.t.stackTop c.f &&& c.t.readP 2
    let no := fun (c : Ctx) => c.f.mask &&& ~~~yes c
    Meets (.brd 2 3) (fun c => yes c = 0) ∧ Meets (.brd 2 3) (fun c => yes c ≠ 0 ∧ no c = 0) ∧
    Meets (.brd 2 3) (fun c => yes c = 1 ∧ no c ≠ 0 ∧ c.t.ctl.pend = none) ∧
    Meets (.brd 2 3) (fun c => yes c = 1 ∧ no c ≠ 0 ∧ c.t.ctl.pend ≠ none ∧ 8 ≤ c.f.level) ∧
    Meets (.brd 2 3) (fun c => yes c = 1 ∧ no c ≠ 0 ∧ c.t.ctl.pend = some 0x18000 ∧ (∃ f ∈ c.t.ctl.frags, f.live = false) ∧ c.f.level = 0) :=
  ⟨meets (small id []) (by decide +kernel), meets (small (fun t => t.writeP 2 allLanes) []) (by decide +kernel), meets (small (fun t => t.writeP 2 1) []) (by decide +kernel),
    meets (small (fun t => ({ t.writeP 2 1 with ctl.pend := some 0x18000 } : Team).onFrag fun f => { f with level := 8 }) []) (by decide +kernel),
    meets (small (fun t => { t.writeP 2 1 with ctl.pend := some 0x18000 }) []) (by decide +kernel)⟩

theorem meets_FuseArrival :
    let here := fun (c : Ctx) => (c.s.team? c.t.id).isSome ∧ (c.t.frag c.fi).st = .running ∧ c.t.Arrives c.fi (c.t.nextPc c.fi)
    Meets .nop (fun c => here c ∧ (c.t.frag c.fi).path = [(1, 0)] ∧ (c.t.frag c.fi).depth = 1 ∧ c.t.tm = false) ∧
    Meets .nop (fun c => here c ∧ (c.t.frag c.fi).path = [(1, 0)] ∧ (c.t.frag c.fi).depth = 0 ∧ (c.t.frag 1).live = true ∧
      (c.t.frag 1).path = [(1, 0)] ∧ (c.t.frag 1).st = .running) ∧
    Meets .nop (fun c => here c ∧ (c.t.frag c.fi).path = [(1, 0)] ∧ (c.t.frag c.fi).depth = 0 ∧ c.fi = 0 ∧
      (c.t.frag 1).st = .waiting ∧ (c.t.frag 1).path = [(1, 0)] ∧ (c.t.frag 1).level = (c.t.frag c.fi).level ∧
      (c.t.frag 1).pc = c.t.nextPc c.fi ∧ ∀ k ∈ [2, 3, 4, 5, 6, 7], (c.t.frag k).live = false) :=
  ⟨meets (small (fun t => (arriving .running t).onFrag fun f => { f with depth := 1 }) []) (by decide +kernel),
    meets (small (arriving .running) []) (by decide +kernel), meets (small (arriving .waiting) []) (by decide +kernel)⟩

theorem meets_PredicateStack :
    Meets (.ppush 1) (fun c => c.f.depth = 16) ∧ Meets (.ppush 1) (fun c => c.f.depth = 15 ∧ ¬ c.t.Arrives c.fi (c.t.nextPc c.fi)) ∧
    Meets .pinv (fun c => c.f.depth = 0) ∧ Meets .pinv (fun c => c.f.depth = 1 ∧ ¬ c.t.Arrives c.fi (c.t.nextPc c.fi)) ∧
    Meets .ppop (fun c => c.f.depth = 0) ∧ Meets .ppop (fun c => c.f.depth = 16 ∧ ¬ c.t.Arrives c.fi (c.t.nextPc c.fi)) :=
  ⟨meets (small (Team.onFrag fun f => { f with depth := 16 }) []) (by decide +kernel), meets (small (Team.onFrag fun f => { f with depth := 15 }) []) (by decide +kernel),
    meets (small id []) (by decide +kernel), meets (small (Team.onFrag fun f => { f with depth := 1 }) []) (by decide +kernel),
    meets (small id []) (by decide +kernel), meets (small (Team.onFrag fun f => { f with depth := 16 }) []) (by decide +kernel)⟩

theorem meets_TrapInstructions :
    Meets (.trap 127) (fun c => c.t.tm = false) ∧ Meets (.trap 0) (fun c => c.t.tm = true) ∧ Meets .bkpt (fun c => c.t.tm = false) :=
  ⟨meets (small id []) (by decide +kernel), meets (small inTrap []) (by decide +kernel), meets (small id []) (by decide +kernel)⟩

theorem meets_ReturnFromTrap :
    Meets .eret (fun c => c.t.tm = false) ∧
    Meets .eret (fun c => c.t.tm = true ∧ c.t.sys.tcause.getLsbD 8 = false ∧ ¬ c.t.Arrives c.fi c.t.sys.tpc) ∧
    Meets .eret (fun c => c.t.tm = true ∧ c.t.sys.tcause.getLsbD 8 = true ∧ c.t.sys.tinfo.getLsbD 63 = false) ∧
    Meets .eret (fun c => c.t.tm = true ∧ c.t.sys.tcause.getLsbD 8 = true ∧ c.t.sys.tinfo.getLsbD 63 = true) :=
  ⟨meets (small id []) (by decide +kernel), meets (small inTrap []) (by decide +kernel), meets (small (fun t => { t with sys.tcause := 768 }) []) (by decide +kernel),
    meets (small (fun t => { t with sys.tcause := 768, sys.tinfo := 0x8000000000000000 }) []) (by decide +kernel)⟩

theorem meets_RegionEntry :
    Meets .region (fun c => ¬ c.t.Arrives c.fi (c.t.nextPc c.fi) ∧ c.t.tm = true) ∧
    Meets .region (fun c => ¬ c.t.Arrives c.fi (c.t.nextPc c.fi) ∧ c.t.split = true) ∧
    Meets .region (fun c => ¬ c.t.Arrives c.fi (c.t.nextPc c.fi) ∧ c.t.tm = false ∧ c.t.split = false) :=
  ⟨meets (small inTrap []) (by decide +kernel), meets (small (halves .running) []) (by decide +kernel), meets (small id []) (by decide +kernel)⟩

/-- The issuing fragment has left a split with one that waits for it, within another split. -/
def nested (t : Team) : Team :=
  let t := halves .waiting t
  let a : Frag := { t.frag 0 with level := 2, path := [(2, 1), (1, 0)] }
  let b : Frag := { t.frag 1 with level := 2, pc := 0x19000, path := [(2, 1), (1, 0)] }
  (t.setFrag 0 a).setFrag 1 b

theorem meets_ExitEndsFragment :
    let ofSplit := fun (c : Ctx) (id k : Nat) => k ≠ c.fi ∧ k < 8 ∧ (c.t.frag k).live = true ∧ (c.t.frag k).path.any (·.1 == id) = true
    Meets .exit (fun c => c.fi = 0 ∧ c.t.ctl.frags.length = 8 ∧ ∀ k, k < 8 → k ≠ 0 → (c.t.frag k).live = false) ∧
    Meets .exit (fun c => c.f.path = [] ∧ c.fi = 0 ∧ (c.t.frag 1).live = true ∧ (c.t.frag 2).live = true) ∧
    Meets .exit (fun c => c.f.path = [(1, 0)] ∧ c.fi = 0 ∧ ofSplit c 1 1 ∧ (c.t.frag 1).st ≠ .waiting ∧ ∀ k, k < 8 → 1 < k → (c.t.frag k).live = false) ∧
    Meets .exit (fun c => c.f.path = [(1, 0)] ∧ ofSplit c 1 1 ∧ ∀ k, k < 8 → ofSplit c 1 k →
      (c.t.frag k).st = .waiting ∧ (c.t.frag k).path = [(1, 0)] ∧ (c.t.frag k).level = c.f.level ∧ (c.t.frag k).pc = 0x18000) ∧
    Meets .exit (fun c => c.f.path = [(2, 1), (1, 0)] ∧ ofSplit c 2 1 ∧ c.f.level = 2 ∧ c.t.ctl.fuse.getD 0 none ≠ some 0x19000 ∧
      ∀ k, k < 8 → ofSplit c 2 k →
        (c.t.frag k).st = .waiting ∧ (c.t.frag k).path = [(2, 1), (1, 0)] ∧ (c.t.frag k).level = c.f.level ∧ (c.t.frag k).pc = 0x19000) :=
  ⟨meets (small id []) (by decide +kernel),
    meets (small (fun t => let t := (halves .running t).onFrag fun f => { f with path := [] }; t.setFrag 2 (t.frag 1)) []) (by decide +kernel),
    meets (small (halves .running) []) (by decide +kernel), meets (small (arriving .waiting) []) (by decide +kernel),
    meets (small nested []) (by decide +kernel)⟩

theorem meets_ReservedWords :
    About (fun c => (encode (.vMov 8 4)).isSome = true ∧ c.t.operandsOk (Instr.operands c.t (.vMov 8 4)) = false) ∧
    About (fun c => decode 0xFC000000 = .error .permanentlyReserved ∧ c.t.mode.getLsbD 21 = true) ∧
    About (fun c => decode 0xBC000000 = .error .unlisted ∧ c.t.mode.getLsbD 21 = false) :=
  ⟨about (small (fun t => { t with const.n := 8 }) []) (by decide +kernel), about (small (fun t => { t with regs.mode := 0x200000 }) []) (by decide +kernel),
    about (small id []) (by decide +kernel)⟩

theorem meets_InterlockStalls : About fun c => (encode (.sAdd 4 4 5)).isSome = true ∧
    c.t.operandsOk (Instr.operands c.t (.sAdd 4 4 5)) = true ∧
    c.s.interlocked c.t (.sAdd 4 4 5) (Instr.operands c.t (.sAdd 4 4 5)) = true :=
  about (small (fun t => { t with iss.busy := [⟨.s, 5, false, 36⟩] }) []) (by decide +kernel)

/-! Hypotheses of the obligations on steps, encoding, lanes and planes. -/

/-- MODE holds a value. -/
def moded (m : Word) (t : Team) : Team := { t with regs.mode := m }

/-- Only lanes 0 and 31 are active. -/
def twoLanes (t : Team) : Team := t.onFrag fun f => { f with mask := 0x80000001 }

/-- The planes of the program in chapter 10: G0 is stacked at V8, G1 blocked at V10. -/
def planes (t : Team) : Team :=
  { t with regs.g := (t.regs.g.set 0 0x00000000000101004004000080020222).set 1 0x000000000001010040040000A3020222 }

theorem meets_StepRunsDecoded :
    let s := (small id []).withFetchWord 32 0x2C400003
    let t := s.one
    let begun : Team := { t with iss.begun := some (0, 0x2C400003) }
    (s.setTeam begun).slots = [(0, 0)] ∧ (s.setTeam begun).mayIssue begun 0 = true ∧ dueWindows begun = [] ∧
    s.slots = [(0, 0)] ∧ s.team? 0 = some t ∧ s.mayIssue t 0 = true ∧ dueWindows t = [] ∧ t.iss.begun = none ∧ t.iss.faults = [] ∧
      (match s.fetch t (t.frag 0).pc with | .word _ w => w == 0x2C400003 | _ => false) = true ∧ decode 0x2C400003 = .ok (.sAupc 4 3) := by
  decide +kernel

theorem meets_FetchedWord :
    let s := (small id []).withFetchWord 32 0x2C400003
    let t := s.one
    let u := t.onFrag fun f => { f with pc := 0x40000000 }
    let v : Team := { u with iss.ahead := [(0x40000000, 7)] }
    let w : Team := { t with iss.ahead := [(0x10000, 7)] }
    let p : State := { s with ms := { s.ms with poison := [0x10000] } }
    let raising := fun (n : State) (u : Team) =>
      n.slots = [(0, 0)] ∧ n.team? 0 = some u ∧ n.mayIssue u 0 = true ∧ dueWindows u = [] ∧ u.iss.begun = none ∧ u.iss.faults = [] ∧ u.tm = false
    (t.iss.ahead = [] ∧ s.xlate t 0x10000 needX = .ok (.home 0x10000) ∧ s.ms.icache = [] ∧ s.ms.poison = [] ∧
      ((s.clusters[t.sched.cluster]?).map fun k => (k.cores[t.sched.core]?).map (·.loopBuf)) = some (some [])) ∧
    (raising p t ∧ p.xlate t 0x10000 needX = .ok (.home 0x10000) ∧ (0x10000 / 4 * 4 ∈ p.ms.poison)) ∧
    (s.setTeam w).xlate w 0x10000 needX = .ok (.home 0x10000) ∧
    (raising (s.setTeam u) u ∧ (s.setTeam u).xlate u 0x40000000 needX = .noPerm) ∧
    raising (s.setTeam v) v ∧ (s.setTeam v).xlate v 0x40000000 needX = .noPerm := by
  decide +kernel

/-- An open window of the loaded team that is due. -/
def dueWindow (t : Team) : Team := { t with iss.windows := [⟨0, 0, [.s 4 7], [], 0⟩] }

theorem meets_StepOrder :
    let at_ := fun (f : Team → Team) (p : State → Team → Bool) =>
      let s := small f []
      s.slots == [(0, 0)] && s.team? 0 == some s.one && p s s.one
    at_ (fun t => { t with iss.withheld := some (0, .shed) }) (fun s t => !s.mayIssue t 0 && t.iss.charge == none) = true ∧
    at_ (fun t => { t with iss.withheld := some (0, .shed), iss.charge := some ⟨4, 1, 0, 0, 3, false⟩ })
      (fun s t => !s.mayIssue t 0 && ((s.clusters[t.sched.cluster]?).bind fun k => k.cores[t.sched.core]?).isSome) = true ∧
    at_ dueWindow (fun s t => s.mayIssue t 0 && dueWindows t != []) = true ∧
    at_ (fun t => { t with iss.faults := [⟨0x0A, 1, 0, false, false, false⟩] })
      (fun s t => s.mayIssue t 0 && dueWindows t == [] && t.iss.begun == none && !t.tm && t.iss.faults != []) = true ∧
    (let s := (small id []).withFetchWord 32 0xBC000000
     s.slots = [(0, 0)] ∧ s.mayIssue s.one 0 = true ∧ (match s.fetch s.one 0x10000 with | .word _ w => decode w == .error .unlisted | _ => false) = true) ∧
    { State.reset with agenda := [.event .capUpdate] }.slots = [] ∧ State.reset.agenda = [] := by
  decide +kernel

theorem meets_DecodeEncode : (Instr.vPack 8 2 .rne (.type .bf16)).WellFormed ∧ encode (.vPack 8 2 .rne (.type .bf16)) = some 0x704024E9 :=
  ⟨rfl, by decide +kernel⟩

theorem meets_MemoryStaysCanonical : State.reset.Canonical ∧ (match step State.reset with | .next _ => true | _ => false) = true := by
  decide +kernel

theorem meets_LaneWords :
    Meets (.vPermXor 126 3 4) (fun c => (laneResult c (.vPermXor 126 3 4)).isSome = true ∧ ¬ c.t.Arrives c.fi (c.t.nextPc c.fi) ∧ guardedLanes c = [0, 31]) ∧
    Meets (.vMov 127 3) (fun c => (laneResult c (.vMov 127 3)).isSome = true) :=
  ⟨meets (small twoLanes []) (by decide +kernel), meets (small id []) (by decide +kernel)⟩

theorem meets_Predicates :
    Meets (.predNot 0 3) (fun c => (predResult c (.predNot 0 3)).isSome = true ∧ ¬ c.t.Arrives c.fi (c.t.nextPc c.fi)) ∧
    Meets (.vCmpLt 3 4 5) (fun c => (relation c.t.et (c.t.mode.getLsbD 11) (.vCmpLt 3 4 5)).map (·.1) = some true) ∧
    Meets (.vCmpLtu 3 4 5) (fun c => (relation c.t.et (c.t.mode.getLsbD 11) (.vCmpLtu 3 4 5)).map (·.1) = some false) :=
  ⟨meets (small id []) (by decide +kernel), meets (small (moded 0x60) []) (by decide +kernel), meets (small (moded 0x60) []) (by decide +kernel)⟩

theorem meets_LaneScalars :
    Meets (.vBallot 7 2 5) fun c => (laneToScalar c (.vBallot 7 2 5)).isSome = true ∧ ¬ c.t.Arrives c.fi (c.t.nextPc c.fi) :=
  meets (small id []) (by decide +kernel)

theorem meets_LoupeWrites :
    Meets (.lWr 4 5) (fun c => ¬ c.t.Arrives c.fi (c.t.nextPc c.fi) ∧ guardedLanes c = [0, 31] ∧ c.t.readS 5 = 31) ∧
    Meets .lClr (fun c => ¬ c.t.Arrives c.fi (c.t.nextPc c.fi)) :=
  ⟨meets (small (fun t => twoLanes (ab 0 31 t)) []) (by decide +kernel), meets (small id []) (by decide +kernel)⟩

theorem meets_TypedLanes :
    Meets (.vSqrt 5 4) (fun c => (typedLane c (.vSqrt 5 4)).map (fun x => (x.1, x.2.1, x.2.2.1)) = some (true, 5, 1)) ∧
    Meets (.vSqrt 5 4) (fun c => (typedLane c (.vSqrt 5 4)).map (·.1) = some false) ∧
    Meets (.vRred 5 4) (fun c => (typedLane c (.vRred 5 4)).map (fun x => (x.1, x.2.2.1)) = some (true, 2)) :=
  ⟨meets (small (moded 0x60) []) (by decide +kernel), meets (small (moded 0x50) []) (by decide +kernel), meets (small (moded 0x60) []) (by decide +kernel)⟩

/-- A register of lane 0 holds a value. -/
def laneZero (r : Nat) (x : Word) (t : Team) : Team := twoLanes (t.writeV r [(0, x)])

theorem meets_TypedLanes_values :
    let goes := fun (c : Ctx) => ¬ c.t.Arrives c.fi (c.t.nextPc c.fi) ∧ c.t.mode.getLsbD 11 = false ∧ guarded c 0 = true
    Meets (.vSqrt 5 4) (fun c => goes c ∧ c.t.et.fmt = some fp32 ∧ c.t.et.code.toNat ≤ 8 ∧
      specialCase c.t.et fp32 c.t.rm (.vSqrt 5 4) (fp32.decode (elemBits c.t.et (c.t.readV 4 0) 0)) = none) ∧
    Meets (.vLog2 5 4) (fun c => goes c ∧ specialCase c.t.et fp32 c.t.rm (.vLog2 5 4) (fp32.decode (elemBits c.t.et (c.t.readV 4 0) 0)) = some (0xFF800000, 2)) ∧
    Meets (.vRred 5 4) (fun c => goes c ∧ c.t.et = .fp32 ∧ finitePattern fp32 (c.t.readV 4 0).toNat = true ∧
      2 ^ 20 < |patternRat fp32 (c.t.readV 4 0).toNat|) ∧
    Meets (.vCosr 5 4) (fun c => goes c ∧ c.t.et = .fp32 ∧ finitePattern fp32 (c.t.readV 4 0).toNat = true ∧
      |patternRat fp32 (c.t.readV 4 0).toNat| ≤ 1) ∧
    Meets (.vSinr 5 4) (fun c => goes c ∧ c.t.et = .fp32 ∧ finitePattern fp32 (c.t.readV 4 0).toNat = false ∧
      elemNan .fp32 (c.t.readV 4 0).toNat = false) ∧
    Meets (.vCvt 8 4 .mode (.type .int8)) (fun c => goes c ∧ c.t.et.code.toNat ≤ 10 ∧ c.t.convTarget (.type .int8) = some .int8 ∧
      32 / c.t.et.width * ElemType.int8.width < 32) ∧
    Meets (.vPack 8 4 .rne (.type .bf16)) (fun c => goes c ∧ c.t.convTarget (.type .bf16) = some .bf16 ∧ 32 / c.t.et.width * ElemType.bf16.width < 32) ∧
    Meets (.vUnpk 8 4 .hi) (fun c => goes c ∧ widened c.t.et = some .fp16) :=
  ⟨meets (small (fun t => laneZero 4 0x40000000 (moded 0x60 t)) []) (by decide +kernel),
    meets (small (fun t => laneZero 4 0 (moded 0x60 t)) []) (by decide +kernel),
    meets (small (fun t => laneZero 4 0x4B000000 (moded 0x60 t)) []) (by decide +kernel),
    meets (small (fun t => laneZero 4 0x3F000000 (moded 0x60 t)) []) (by decide +kernel),
    meets (small (fun t => laneZero 4 0x7F800000 (moded 0x60 t)) []) (by decide +kernel),
    meets (small (fun t => laneZero 4 0x40000000 (moded 0x60 t)) []) (by decide +kernel),
    meets (small (fun t => laneZero 4 0x40000000 (moded 0x60 t)) []) (by decide +kernel),
    meets (small (fun t => laneZero 4 0x38 (moded 0x90 t)) []) (by decide +kernel)⟩

theorem meets_ElementWise :
    Meets (.vMul 5 4 3) (fun c => (intElement c (.vMul 5 4 3)).isSome = true ∧ c.t.et.code = 5 ∧ ¬ c.t.Arrives c.fi (c.t.nextPc c.fi)) ∧
    Meets (.vRotl 5 4 3) (fun c => (bitElement c (.vRotl 5 4 3)).isSome = true ∧ c.t.et.code = 8 ∧ ¬ c.t.Arrives c.fi (c.t.nextPc c.fi)) :=
  ⟨meets (small (moded 0x50) []) (by decide +kernel), meets (small (moded 0x80) []) (by decide +kernel)⟩

theorem meets_FloatElements :
    Meets (.vFma 10 4 5) fun c => (exactFloat (.vFma 10 4 5)).isSome = true ∧ c.t.et.fmt = some fp32 ∧ c.t.et.code = 6 ∧
      c.t.mode.getLsbD 11 = false ∧ ¬ c.t.Arrives c.fi (c.t.nextPc c.fi) ∧ guardedLanes c = [0, 31] ∧
      ∀ l ∈ guardedLanes c, ∀ r ∈ [10, 4, 5], finitePattern fp32 (c.t.readV r l).toNat = true :=
  meets (small (fun t => twoLanes (moded 0x60 t)) []) (by decide +kernel)

theorem meets_FloatElements_picks :
    Meets (.vMin 10 4 5) (fun c => (floatPick c.t.et fp32 (.vMin 10 4 5)).isSome = true ∧ c.t.et.fmt = some fp32 ∧ c.t.et.code.toNat ≤ 8 ∧
      c.t.mode.getLsbD 11 = false ∧ ¬ c.t.Arrives c.fi (c.t.nextPc c.fi) ∧ guarded c 0 = true) ∧
    Meets (.vDot2 10 4 5) (fun c => c.t.et.code.toNat ≤ 8 ∧ c.t.mode.getLsbD 11 = false ∧ ¬ c.t.Arrives c.fi (c.t.nextPc c.fi) ∧ guarded c 0 = true ∧
      (∀ h, h < 2 → finitePattern bf16 ((c.t.readV 4 0).toNat / 2 ^ (16 * h) % 2 ^ 16) = true ∧
        finitePattern bf16 ((c.t.readV 5 0).toNat / 2 ^ (16 * h) % 2 ^ 16) = true) ∧ finitePattern fp32 (c.t.readV 10 0).toNat = true) :=
  ⟨meets (small (fun t => laneZero 4 0x80000000 (moded 0x60 t)) []) (by decide +kernel),
    meets (small (fun t => laneZero 4 0x3F80BF80 (moded 0x60 t)) []) (by decide +kernel)⟩

theorem meets_Reductions :
    Meets (.vRed 5 4 .add) (fun c => c.t.et.code = 5 ∧ combined c.t.et false .add (guardedElems c 4 4096) = some 0) ∧
    Meets (.vRed 5 4 .add) (fun c => c.t.et.code = 9) ∧
    Meets (.vScan 5 4 .xor) (fun c => c.t.et.code = 8 ∧ ¬ c.t.Arrives c.fi (c.t.nextPc c.fi) ∧ combined c.t.et false .xor (guardedElems c 4 63) = some 0) :=
  ⟨meets (small (fun t => twoLanes (moded 0x50 t)) []) (by decide +kernel), meets (small (moded 0x90) []) (by decide +kernel),
    meets (small (fun t => twoLanes (moded 0x80 t)) []) (by decide +kernel)⟩

theorem meets_BypassReads :
    (∀ k, k = 3 ∨ k = 4 → let t : Team := { (small id []).one with iss.issued := k, iss.bypass := [⟨0, [(5, 7)]⟩] }
      ∃ x ∈ t.iss.bypass, ∀ y ∈ t.iss.bypass, y.producer < x.producer ∨ y = x) ∧
    (small id []).one.iss.bypass = [] ∧
    Meets (.vMov 127 4) (fun c => ¬ c.t.Arrives c.fi (c.t.nextPc c.fi) ∧ ∀ y ∈ c.t.iss.bypass, y.producer < c.t.iss.issued) :=
  ⟨fun _ _ => ⟨_, List.mem_singleton_self _, fun _ h => .inr (List.mem_singleton.mp h)⟩, by decide +kernel, meets (small id []) (by decide +kernel)⟩

theorem meets_PlaneDescriptors : Meets (.pGset 7 62) (fun _ => True) ∧ Meets (.pGget 7 0) (fun _ => True) :=
  ⟨meets (small id []) (by decide +kernel), meets (small id []) (by decide +kernel)⟩

theorem meets_PlaneMoves :
    let legal := fun (i : Instr) (c : Ctx) => (planeMove c i).map fun x =>
      let p := planeOf (c.t.readG x.1.toNat)
      let q := planeOf (c.t.readG x.2.1.toNat)
      p.ok c.t.const.h c.t.const.n && q.ok c.t.const.h c.t.const.n && x.2.2.1 p q
    Meets (.pShift 0 0 .e 0 1) (fun c => legal (.pShift 0 0 .e 0 1) c = some true) ∧
    Meets (.pRefold 1 0) (fun c => legal (.pRefold 1 0) c = some true) ∧
    Meets (.pShift 1 0 .e 0 1) (fun c => legal (.pShift 1 0 .e 0 1) c = some false) ∧
    Meets (.pFoldAdd 2 0 .e) (fun c => legal (.pFoldAdd 2 0 .e) c = some false) :=
  by refine ⟨?_, ?_, ?_, ?_⟩ <;> exact meets (small planes []) (by decide +kernel)

/-! Hypotheses of the obligations on memory accesses. The first GiB of addresses is mapped; the second is a page that is not resident, the
third is not mapped. -/

/-- The bytes of the page tables that make the second GiB a page that is not resident. -/
def absent : List (Nat × Byte) := [(0x202008, 0x1F)]

/-- The machine with a page at 0x40000000 that lies on device 1. -/
def farPage : List (Nat × Byte) := [(0x202008, 0xBF), (0x20200E, 0x40)]

/-- The bytes of the page tables that make the first GiB one that teams read and do not write. -/
def readOnly : List (Nat × Byte) := [(0x202000, 0x37)]

/-- The team's first scratch address. -/
def scratch0 : DWord := 0x1FF000000000000

theorem landed_home {c : Ctx} {need : Need} {va pa : Nat} (h : c.s.xlate c.t (va % 2 ^ 57) need = .ok (.home pa)) :
    Landed c need va pa true := .inl ⟨rfl, h⟩

theorem landed_scratch {c : Ctx} {need : Need} {va id off pa : Nat} (h : c.s.xlate c.t (va % 2 ^ 57) need = .ok (.scratch id off pa))
    (hm : (c.s.team? id).all (fun u => (u.mapOf off).isNone) = true) : Landed c need va pa false :=
  .inr ⟨rfl, id, off, h, fun u hu => by rw [hu] at hm; simpa using hm⟩

/-- A strong store of the team has not registered. -/
def strongOut (t : Team) : Team := { t with iss.flights := [⟨1, .store, true, false, [(0x38000, 1)], [], false, 0x38000, 1, none⟩] }

/-- A store of the team has not registered. -/
def storeOut (t : Team) : Team := { t with iss.flights := [⟨1, .store, false, false, [(0x38000, 1)], [], false, 0x38000, 1, none⟩] }

/-- A log entry at the PC of the loaded team. -/
def replaying (data : List Byte) (t : Team) : Team := { t with rep.log := [⟨0x10000, 0, data, false, 0, none⟩] }

theorem meets_ScalarLoads :
    let i : Instr := .sLd 6 4 0 .strong .b64 0
    let goes := fun (c : Ctx) (va : Nat) => c.t.readS 4 = BitVec.ofNat 64 va ∧ va % 8 = 0 ∧ Fresh c ∧ c.t.strongDone = true ∧ c.s.pathsFull c.t [pathOf va] = false
    Meets (.sLdu 6 4 0 .weak .b16 0) (fun c => (c.t.readS 4).toNat = 0x30001) ∧
    Meets i (fun c => c.t.readS 4 = 0x30000 ∧ Fresh c ∧ c.t.strongDone = false) ∧
    Meets i (fun c => goes c 0x80000000 ∧ c.s.xlate c.t 0x80000000 needR = .noPerm) ∧
    Meets i (fun c => goes c 0x40000000 ∧ c.s.xlate c.t 0x40000000 needR = .nonResident) ∧
    Meets i (fun c => goes c 0x3FFFFFF8 ∧ Landed c needR 0x3FFFFFF8 0x3FFFFFF8 true ∧ NothingPending c 0x3FFFFFF8 8 ∧ Unpoisoned c 0x3FFFFFF8 8) ∧
    Meets i (fun c => goes c 0x1FF000000000000 ∧ Landed c needR 0x1FF000000000000 (vaultPa 0 0) false ∧ NothingPending c (vaultPa 0 0) 8 ∧
      Unpoisoned c (vaultPa 0 0) 8) ∧
    Meets i (fun c => goes c 0x30000 ∧ Landed c needR 0x30000 0x30000 true ∧ NothingPending c 0x30000 8 ∧ 0x30000 / 4 * 4 ∈ c.s.ms.poison) :=
  ⟨meets (small (ab 0x30001 0) []) (by decide +kernel), meets (small (fun t => ab 0x30000 0 (strongOut t)) []) (by decide +kernel),
    meets (small (ab 0x80000000 0) []) (by decide +kernel), meets (small (ab 0x40000000 0) absent) (by decide +kernel),
    (meets (P := fun c => c.t.readS 4 = 0x3FFFFFF8 ∧ Fresh c ∧ c.t.strongDone = true ∧ c.s.pathsFull c.t [0] = false ∧
      c.s.xlate c.t 0x3FFFFFF8 needR = .ok (.home 0x3FFFFFF8) ∧ NothingPending c 0x3FFFFFF8 8 ∧ Unpoisoned c 0x3FFFFFF8 8)
      (small (ab 0x3FFFFFF8 0) []) (by decide +kernel)).imp fun _ ⟨a, b, c, d, e, f⟩ => ⟨⟨a, by decide, b, c, d⟩, landed_home e, f⟩,
    (meets (P := fun c => c.t.readS 4 = 0x1FF000000000000 ∧ Fresh c ∧ c.t.strongDone = true ∧ c.s.pathsFull c.t [2] = false ∧
      c.s.xlate c.t 0x1FF000000000000 needR = .ok (.scratch 0 0 (vaultPa 0 0)) ∧ (c.s.team? 0).all (fun u => (u.mapOf 0).isNone) = true ∧
      NothingPending c (vaultPa 0 0) 8 ∧ Unpoisoned c (vaultPa 0 0) 8)
      (small (ab scratch0 0) []) (by decide +kernel)).imp fun _ ⟨a, b, c, d, e, m, f⟩ => ⟨⟨a, by decide, b, c, d⟩, landed_scratch e m, f⟩,
    (meets (P := fun c => c.t.readS 4 = 0x30000 ∧ Fresh c ∧ c.t.strongDone = true ∧ c.s.pathsFull c.t [0] = false ∧
      c.s.xlate c.t 0x30000 needR = .ok (.home 0x30000) ∧ NothingPending c 0x30000 8 ∧ 0x30000 / 4 * 4 ∈ c.s.ms.poison)
      { small (ab 0x30000 0) [] with ms.poison := [0x30000] } (by decide +kernel)).imp
      fun _ ⟨a, b, c, d, e, f⟩ => ⟨⟨a, by decide, b, c, d⟩, landed_home e, f⟩⟩

/-- A team with a full link stack, or with a spilled entry only, and its LSP. -/
def full (lsp : DWord) (t : Team) : Team := { linked 16 0x20000 t with sys.lsp := lsp }
def spilledOnce (lsp : DWord) (t : Team) : Team := { t with ctl.spilled := 1, sys.lsp := lsp }

theorem meets_Calls_spill :
    let goes := fun (c : Ctx) (lsp : DWord) => c.t.split = false ∧ c.t.ctl.link.length = 16 ∧ c.t.sys.lsp = lsp ∧
      c.s.pathsFull c.t [pathOf lsp.toNat + 1] = false
    Meets (.call 0x100) (fun c => goes c 0x80000000 ∧ c.s.xlate c.t 0x80000000 needW = .noPerm) ∧
    Meets (.call 0x100) (fun c => goes c 0x40000000 ∧ c.s.xlate c.t 0x40000000 needW = .nonResident) ∧
    Meets (.call 0x100) (fun c => goes c 0x40000000 ∧
      (match c.s.store c.t false 1 [(⟨1024 + c.fi, 0x40000000, 8⟩, toBytes 8 (c.t.ctl.link.getLastD 0).toNat)] with
      | .ok s' (t', some _) => (s'.team? t'.id).isSome && t'.id == c.t.id
      | _ => false) = true) :=
  ⟨meets (small (full 0x80000000) []) (by decide +kernel), meets (small (full 0x40000000) absent) (by decide +kernel),
    meets (small (full 0x40000000) farPage) (by decide +kernel)⟩

theorem meets_Returns_refill :
    let goes := fun (c : Ctx) (lsp : DWord) => c.t.split = false ∧ c.t.ctl.link = [] ∧ 0 < c.t.ctl.spilled ∧ addr57 (c.t.sys.lsp - 8) = lsp
    Meets .ret (fun c => goes c 0x30004) ∧
    Meets .ret (fun c => goes c 0x80000000 ∧ c.s.xlate c.t 0x80000000 needR = .noPerm) ∧
    Meets .ret (fun c => goes c 0x40000000 ∧ c.s.xlate c.t 0x40000000 needR = .nonResident) ∧
    Meets .ret (fun c => goes c 0x30000 ∧ Landed c needR 0x30000 0x30000 true ∧ c.s.ms.l1 = [] ∧ 0x30000 / 4 * 4 ∈ c.s.ms.poison) ∧
    Meets .ret (fun c => goes c 0x30000 ∧
      (match c.s.load c.t false [⟨1024 + c.fi, 0x30000, 8⟩] with
      | .ok _ [(_, .data bs)] => ofBytes bs % 4 != 0
      | _ => false) = true) :=
  ⟨meets (small (spilledOnce 0x3000C) []) (by decide +kernel), meets (small (spilledOnce 0x80000008) []) (by decide +kernel),
    meets (small (spilledOnce 0x40000008) absent) (by decide +kernel),
    (meets (P := fun c => (c.t.split = false ∧ c.t.ctl.link = [] ∧ 0 < c.t.ctl.spilled ∧ addr57 (c.t.sys.lsp - 8) = 0x30000) ∧
      c.s.xlate c.t 0x30000 needR = .ok (.home 0x30000) ∧ c.s.ms.l1 = [] ∧ 0x30000 / 4 * 4 ∈ c.s.ms.poison)
      { small (spilledOnce 0x30008) [] with ms.poison := [0x30000] } (by decide +kernel)).imp fun _ ⟨a, b, c⟩ => ⟨a, landed_home b, c⟩,
    meets (small (spilledOnce 0x30008) [(0x30000, 2)]) (by decide +kernel)⟩

theorem meets_ScalarStores :
    let i : Instr := .sSt 5 4 .strong .b64 0
    let goes := fun (c : Ctx) (va : Nat) => c.t.readS 4 = BitVec.ofNat 64 va ∧ va % 8 = 0 ∧ Fresh c ∧ c.t.strongDone = true ∧ c.s.pathsFull c.t [pathOf va + 1] = false
    Meets (.sSt 5 4 .weak .b64 0) (fun c => (c.t.readS 4).toNat = 0x30004) ∧
    Meets i (fun c => c.t.readS 4 = 0x30000 ∧ Fresh c ∧ c.t.strongDone = false) ∧
    Meets i (fun c => goes c 0x80000000 ∧ c.s.xlate c.t 0x80000000 needW = .noPerm) ∧
    Meets i (fun c => goes c 0x40000000 ∧ c.s.xlate c.t 0x40000000 needW = .nonResident) ∧
    Meets i (fun c => goes c 0x3FFFFFF8 ∧ Landed c needW 0x3FFFFFF8 0x3FFFFFF8 true) :=
  ⟨meets (small (ab 0x30004 0) []) (by decide +kernel), meets (small (fun t => ab 0x30000 0 (strongOut t)) []) (by decide +kernel),
    meets (small (ab 0x80000000 0) []) (by decide +kernel), meets (small (ab 0x40000000 0) absent) (by decide +kernel),
    (meets (P := fun c => c.t.readS 4 = 0x3FFFFFF8 ∧ Fresh c ∧ c.t.strongDone = true ∧ c.s.pathsFull c.t [1] = false ∧
      c.s.xlate c.t 0x3FFFFFF8 needW = .ok (.home 0x3FFFFFF8))
      (small (ab 0x3FFFFFF8 0) []) (by decide +kernel)).imp fun _ ⟨a, b, c, d, e⟩ => ⟨⟨a, by decide, b, c, d⟩, landed_home e⟩⟩

theorem meets_ScalarAtomics :
    let i : Instr := .sAtomAdd 6 4 5 .ar
    let is := fun (c : Ctx) (va : Nat) => (scalarAtomic c i).map (·.2.2.1) = some va
    let goes := fun (c : Ctx) (va : Nat) => is c va ∧ va % 8 = 0 ∧ Fresh c ∧ c.t.strongDone = true ∧ c.t.releaseReady = true
    Meets i (fun c => is c 0x30004) ∧ Meets i (fun c => is c 0x30000 ∧ Fresh c ∧ c.t.strongDone = false) ∧
    Meets i (fun c => is c 0x30000 ∧ Fresh c ∧ c.t.strongDone = true ∧ c.t.releaseReady = false) ∧
    Meets i (fun c => goes c 0x80000000 ∧ c.s.xlate c.t 0x80000000 needRW = .noPerm) ∧
    Meets i (fun c => goes c 0x40000000 ∧ c.s.xlate c.t 0x40000000 needRW = .nonResident) ∧
    Meets i (fun c => goes c 0x30000 ∧ Landed c needRW 0x30000 0x30000 true ∧ NothingPending c 0x30000 8 ∧ Unpoisoned c 0x30000 8) ∧
    Meets (.sAtomLd 6 4 .acq) (fun c => (scalarAtomic c (.sAtomLd 6 4 .acq)).map (fun x => (x.1, x.2.2.1)) = some (.ld, 0x30000) ∧
      c.s.xlate c.t 0x30000 (atomRights .ld) = .ok (.home 0x30000) ∧ c.s.xlate c.t 0x30000 needRW = .noPerm) :=
  ⟨meets (small (ab 0x30004 1) []) (by decide +kernel), meets (small (fun t => ab 0x30000 1 (strongOut t)) []) (by decide +kernel),
    meets (small (fun t => ab 0x30000 1 (storeOut t)) []) (by decide +kernel),
    meets (small (ab 0x80000000 1) []) (by decide +kernel), meets (small (ab 0x40000000 1) absent) (by decide +kernel),
    (meets (P := fun c => (scalarAtomic c (.sAtomAdd 6 4 5 .ar)).map (·.2.2.1) = some 0x30000 ∧ Fresh c ∧ c.t.strongDone = true ∧
      c.t.releaseReady = true ∧ c.s.xlate c.t 0x30000 needRW = .ok (.home 0x30000) ∧ NothingPending c 0x30000 8 ∧ Unpoisoned c 0x30000 8)
      (small (ab 0x30000 1) []) (by decide +kernel)).imp fun _ ⟨a, b, c, d, e, f⟩ => ⟨⟨a, by decide, b, c, d⟩, landed_home e, f⟩,
    meets (small (ab 0x30000 1) readOnly) (by decide +kernel)⟩

theorem meets_ScalarReplay :
    let e : LogEntry := ⟨0x10000, 0, List.replicate 8 1, false, 0, none⟩
    Meets (.sLd 6 4 0 .strong .b64 0) (fun c => c.t.readS 4 = 0x30000 ∧ Replays c e ∧ e.data.length = 8) ∧
    Meets (.sSt 6 4 .strong .b64 0) (fun c => c.t.readS 4 = 0x30000 ∧ Replays c e) ∧
    Meets (.sAtomCas 6 4 .rlx) (fun c => (scalarAtomic c (.sAtomCas 6 4 .rlx)).map (·.2.2.1) = some 0x30000 ∧ Replays c e) ∧
    Meets (.sAtomCas 6 4 .rlx) (fun c => (scalarAtomic c (.sAtomCas 6 4 .rlx)).map (·.2.2.1) = some 0x30000 ∧ c.t.tm = false ∧
      c.t.rep.log[c.t.rep.consumed]? = some e ∧ e.pc ≠ c.pc ∧ c.fi = 0 ∧ (c.t.frag 1).st = .running ∧ (c.t.frag 1).replay = false) ∧
    Meets (.sSt 5 4 .strong .b64 0) (fun c => c.t.readS 4 = 0x30000 ∧ c.t.tm = false ∧ c.t.split = false ∧ c.t.rep.consumed = 16 ∧
      c.t.rep.log.length = 16 ∧ c.t.strongDone = true ∧ c.s.pathsFull c.t [1] = false ∧ Landed c needW 0x30000 0x30000 true) :=
  ⟨meets (small (fun t => ab 0x30000 0 (replaying (List.replicate 8 1) t)) []) (by decide +kernel),
    meets (small (fun t => ab 0x30000 0 (replaying (List.replicate 8 1) t)) []) (by decide +kernel),
    meets (small (fun t => ab 0x30000 0 (replaying (List.replicate 8 1) t)) []) (by decide +kernel),
    meets (small (fun t => (ab 0x30000 0 (replaying (List.replicate 8 1) (halves .running t))).onFrag fun f => { f with pc := 0x10100 }) [])
      (by decide +kernel),
    (meets (P := fun c => c.t.readS 4 = 0x30000 ∧ c.t.tm = false ∧ c.t.split = false ∧ c.t.rep.consumed = 16 ∧ c.t.rep.log.length = 16 ∧
      c.t.strongDone = true ∧ c.s.pathsFull c.t [1] = false ∧ c.s.xlate c.t 0x30000 needW = .ok (.home 0x30000))
      (small (fun t => { ab 0x30000 0 t with rep.log := List.replicate 16 ⟨0x10000, 0, [], false, 0, none⟩, rep.consumed := 16 }) [])
      (by decide +kernel)).imp fun _ ⟨a, b, c, d, e, f, g, h⟩ => ⟨a, b, c, d, e, f, g, landed_home h⟩⟩

/-- Lanes 0 and 31 address S4 and S4 plus a distance. -/
def lanes (a : DWord) (dist : Word) (t : Team) : Team := twoLanes ((ab a 0 t).writeV 6 [(31, dist)])

theorem meets_LaneLoads :
    let i : Instr := .vLdx 8 4 6 2 .b64
    let goes := fun (c : Ctx) => Fresh c ∧ c.t.strongDone = true ∧ c.s.pathsFull c.t [0] = false
    let at_ := fun (c : Ctx) (x y : Nat) => guardedLanes c = [0, 31] ∧ laneAddr c 4 6 0 = x ∧ laneAddr c 4 6 31 = y
    Meets (.vLd 8 4 6 2 .b32) (fun c => at_ c 0x30000 0x30002) ∧
    Meets i (fun c => goes c ∧ at_ c 0x30000 0x80000000 ∧ c.s.xlate c.t 0x30000 needR ≠ .noPerm ∧ c.s.xlate c.t 0x80000000 needR = .noPerm) ∧
    Meets i (fun c => goes c ∧ at_ c 0x3FFFFFF8 0x40000000 ∧ Landed c needR 0x3FFFFFF8 0x3FFFFFF8 true ∧ NothingPending c 0x3FFFFFF8 8 ∧
      Unpoisoned c 0x3FFFFFF8 8 ∧ c.s.xlate c.t 0x40000000 needR = .nonResident) :=
  ⟨meets (small (lanes 0x30000 2) []) (by decide +kernel), meets (small (lanes 0x30000 0x7FFD0000) []) (by decide +kernel),
    (meets (P := fun c => (Fresh c ∧ c.t.strongDone = true ∧ c.s.pathsFull c.t [0] = false) ∧
      (guardedLanes c = [0, 31] ∧ laneAddr c 4 6 0 = 0x3FFFFFF8 ∧ laneAddr c 4 6 31 = 0x40000000) ∧
      c.s.xlate c.t 0x3FFFFFF8 needR = .ok (.home 0x3FFFFFF8) ∧ NothingPending c 0x3FFFFFF8 8 ∧
      Unpoisoned c 0x3FFFFFF8 8 ∧ c.s.xlate c.t 0x40000000 needR = .nonResident) (small (lanes 0x3FFFFFF8 8) absent) (by decide +kernel)).imp
      fun _ ⟨a, b, c, d⟩ => ⟨a, b, landed_home c, d⟩⟩

theorem meets_LaneStores :
    let i : Instr := .vStx 8 4 6 .b64
    let goes := fun (c : Ctx) => Fresh c ∧ c.t.strongDone = true ∧ c.s.pathsFull c.t [1] = false
    let at_ := fun (c : Ctx) (x y : Nat) => guardedLanes c = [0, 31] ∧ laneAddr c 4 6 0 = x ∧ laneAddr c 4 6 31 = y
    Meets (.vSt 8 4 6 .b64) (fun c => at_ c 0x30000 0x30004) ∧
    Meets i (fun c => goes c ∧ at_ c 0x30000 0x80000000 ∧ c.s.xlate c.t 0x30000 needW ≠ .noPerm ∧ c.s.xlate c.t 0x80000000 needW = .noPerm) ∧
    Meets i (fun c => goes c ∧ at_ c 0x30000 0x40000000 ∧ (∀ a ∈ [0x30000, 0x40000000], c.s.xlate c.t a needW ≠ .noPerm) ∧
      c.s.xlate c.t 0x30000 needW ≠ .nonResident ∧ c.s.xlate c.t 0x40000000 needW = .nonResident) ∧
    Meets i (fun c => goes c ∧ at_ c 0x30000 0x3FFFFFF8 ∧ Landed c needW 0x30000 0x30000 true ∧ Landed c needW 0x3FFFFFF8 0x3FFFFFF8 true) :=
  ⟨meets (small (lanes 0x30000 4) []) (by decide +kernel), meets (small (lanes 0x30000 0x7FFD0000) []) (by decide +kernel),
    meets (small (lanes 0x30000 0x3FFD0000) absent) (by decide +kernel),
    (meets (P := fun c => (Fresh c ∧ c.t.strongDone = true ∧ c.s.pathsFull c.t [1] = false) ∧
      (guardedLanes c = [0, 31] ∧ laneAddr c 4 6 0 = 0x30000 ∧ laneAddr c 4 6 31 = 0x3FFFFFF8) ∧
      c.s.xlate c.t 0x30000 needW = .ok (.home 0x30000) ∧ c.s.xlate c.t 0x3FFFFFF8 needW = .ok (.home 0x3FFFFFF8))
      (small (lanes 0x30000 0x3FFCFFF8) []) (by decide +kernel)).imp fun _ ⟨a, b, c, d⟩ => ⟨a, b, landed_home c, landed_home d⟩⟩

theorem meets_LaneAtomics :
    let i : Instr := .vAtomAdd 5 4 6 .ar
    let at_ := fun (c : Ctx) (x y : Nat) => guardedLanes c = [0, 31] ∧ laneAddr c 4 6 0 = x ∧ laneAddr c 4 6 31 = y
    let waits := fun (i : Instr) => Meets i (fun c => at_ c 0x30000 0x30002) ∧ Meets i (fun c => at_ c 0x30000 0x30000 ∧ Fresh c ∧ c.t.strongDone = false) ∧
      Meets i (fun c => at_ c 0x30000 0x30000 ∧ Fresh c ∧ c.t.strongDone = true ∧ c.t.releaseReady = false)
    let goes := fun (c : Ctx) => Fresh c ∧ c.t.strongDone = true ∧ c.t.releaseReady = true
    waits i ∧ waits (.vAtomSt 5 4 6 .rel) ∧
    Meets i (fun c => at_ c 0x30000 0x80000000 ∧ goes c ∧ c.s.xlate c.t 0x30000 needRW ≠ .noPerm ∧ c.s.xlate c.t 0x80000000 needRW = .noPerm) ∧
    Meets i (fun c => at_ c 0x40000000 0x30000 ∧ goes c ∧ c.s.xlate c.t 0x30000 needRW ≠ .noPerm ∧ c.s.xlate c.t 0x40000000 needRW = .nonResident) ∧
    Meets i (fun c => at_ c 0x30000 0x30000 ∧ goes c ∧ Landed c needRW 0x30000 0x30000 true ∧
      NothingPending c 0x30000 4 ∧ Unpoisoned c 0x30000 4) := by
  intro i at_ waits goes
  have w : ∀ i, i = .vAtomAdd 5 4 6 .ar ∨ i = .vAtomSt 5 4 6 .rel → waits i := by
    rintro i (rfl | rfl)
    all_goals
      exact ⟨meets (small (lanes 0x30000 2) []) (by decide +kernel), meets (small (fun t => lanes 0x30000 0 (strongOut t)) []) (by decide +kernel),
        meets (small (fun t => lanes 0x30000 0 (storeOut t)) []) (by decide +kernel)⟩
  refine ⟨w _ (.inl rfl), w _ (.inr rfl), meets (small (lanes 0x30000 0x7FFD0000) []) (by decide +kernel),
    meets (small (lanes 0x40000000 0xC0030000) absent) (by decide +kernel), ?_⟩
  refine (meets (P := fun c => at_ c 0x30000 0x30000 ∧ goes c ∧
      c.s.xlate c.t 0x30000 needRW = .ok (.home 0x30000) ∧ NothingPending c 0x30000 4 ∧ Unpoisoned c 0x30000 4)
      (small (lanes 0x30000 0) []) (by decide +kernel)).imp fun _ ⟨a, b, e, f⟩ => ⟨a, b, landed_home e, f⟩

theorem meets_LaneAtomics_stores :
    let i : Instr := .vAtomSt 5 4 6 .rel
    let at_ := fun (c : Ctx) (x y : Nat) => guardedLanes c = [0, 31] ∧ laneAddr c 4 6 0 = x ∧ laneAddr c 4 6 31 = y
    let here := fun (c : Ctx) (x y : Nat) (a b : Meet) => at_ c x y ∧ Fresh c ∧ c.t.strongDone = true ∧ c.t.releaseReady = true ∧
      c.s.pathsFull c.t [1] = false ∧ c.s.xlate c.t x needRW = a ∧ c.s.xlate c.t y needRW = b
    Meets i (fun c => here c 0x30000 0x80000000 (.ok (.home 0x30000)) .noPerm) ∧
    Meets i (fun c => here c 0x30000 0x40000000 (.ok (.home 0x30000)) .nonResident ∧ c.s.xlate c.t 0x30000 needW = .ok (.home 0x30000) ∧
      c.s.xlate c.t 0x40000000 needW = .nonResident) ∧
    Meets i (fun c => here c 0x30000 0x30004 (.ok (.home 0x30000)) (.ok (.home 0x30004)) ∧ c.s.xlate c.t 0x30000 needW = .ok (.home 0x30000) ∧
      c.s.xlate c.t 0x30004 needW = .ok (.home 0x30004)) :=
  ⟨meets (small (lanes 0x30000 0x7FFD0000) []) (by decide +kernel), meets (small (lanes 0x30000 0x3FFD0000) absent) (by decide +kernel),
    meets (small (lanes 0x30000 4) []) (by decide +kernel)⟩

theorem meets_PlaneMemory :
    let p := fun (c : Ctx) => planeOf (c.t.readG 0)
    let va := fun (c : Ctx) (e : Nat × Nat × Nat) => planeAddr .row (c.t.readS 4).toNat (c.t.readS 5).toInt 2 4 4 e.1 e.2.1 e.2.2
    let goes := fun (c : Ctx) => (p c).ok c.t.const.h c.t.const.n = true ∧ ((p c).bytes, (p c).rows, (p c).cols) = (2, 4, 4) ∧
      (guardedElements c (p c)).length = 16 ∧ (∀ e ∈ guardedElements c (p c), va c e % 2 = 0) ∧ layoutFits .row (c.t.readS 4).toNat (c.t.readS 5).toInt ∧ Fresh c ∧
      c.t.strongDone = true ∧ c.s.pathsFull c.t [0] = false ∧ c.s.pathsFull c.t [1] = false
    let first := fun (c : Ctx) => (guardedElements c (p c)).take 1
    Meets (.pLd 7 4 5 .row 2 .strong) (fun c => (planeOf (c.t.readG 7)).ok c.t.const.h c.t.const.n = false) ∧
    Meets (.pSt 0 4 5 .row .weak) (fun c => (p c).ok c.t.const.h c.t.const.n = true ∧ (guardedElements c (p c)).map (va c) ≠ [] ∧
      ∀ e ∈ guardedElements c (p c), va c e % 2 ≠ 0) ∧
    Meets (.pLd 0 4 5 .row 2 .strong) (fun c => goes c ∧
      ∀ e ∈ guardedElements c (p c), Landed c needR (va c e) (va c e) true ∧ NothingPending c (va c e) 2 ∧ Unpoisoned c (va c e) 2) ∧
    Meets (.pSt 0 4 5 .row .strong) (fun c => goes c ∧ ∀ e ∈ guardedElements c (p c), Landed c needW (va c e) (va c e) true) ∧
    Meets (.pLd 0 4 5 .row 2 .strong) (fun c => goes c ∧ ∀ e ∈ first c, c.s.xlate c.t (va c e % 2 ^ 57) needR = .noPerm) ∧
    Meets (.pSt 0 4 5 .row .strong) (fun c => goes c ∧ (∀ e ∈ guardedElements c (p c), c.s.xlate c.t (va c e % 2 ^ 57) needW ≠ .noPerm) ∧
      ∀ e ∈ first c, c.s.xlate c.t (va c e % 2 ^ 57) needW = .nonResident) ∧
    Meets (.pLd 0 4 5 .row 2 .strong) (fun c => goes c ∧ ∀ e ∈ guardedElements c (p c), c.s.xlate c.t (va c e % 2 ^ 57) needR = .nonResident) ∧
    Meets (.pLd 0 4 5 .row 2 .strong) (fun c => goes c ∧ (∀ e ∈ guardedElements c (p c), Landed c needR (va c e) (va c e) true ∧
      NothingPending c (va c e) 2) ∧ ∀ e ∈ first c, ¬ Unpoisoned c (va c e) 2) := by
  intro p va goes first
  refine ⟨meets (small planes []) (by decide +kernel), meets (small (fun t => planes (ab 0x30041 8 t)) []) (by decide +kernel),
    (meets (P := fun c => goes c ∧ ∀ e ∈ guardedElements c (p c), c.s.xlate c.t (va c e % 2 ^ 57) needR = .ok (.home (va c e)) ∧
      NothingPending c (va c e) 2 ∧ Unpoisoned c (va c e) 2) (small (fun t => planes (ab 0x30040 8 t)) []) (by decide +kernel)).imp
      fun _ ⟨a, b⟩ => ⟨a, fun e he => ⟨landed_home (b e he).1, (b e he).2⟩⟩,
    (meets (P := fun c => goes c ∧ ∀ e ∈ guardedElements c (p c), c.s.xlate c.t (va c e % 2 ^ 57) needW = .ok (.home (va c e)))
      (small (fun t => planes (ab 0x30040 8 t)) []) (by decide +kernel)).imp fun _ ⟨a, b⟩ => ⟨a, fun e he => landed_home (b e he)⟩,
    meets (small (fun t => planes (ab 0x80000000 8 t)) []) (by decide +kernel), meets (small (fun t => planes (ab 0x40000000 8 t)) absent) (by decide +kernel),
    meets (small (fun t => planes (ab 0x40000000 8 t)) absent) (by decide +kernel),
    (meets (P := fun c => goes c ∧ (∀ e ∈ guardedElements c (p c), c.s.xlate c.t (va c e % 2 ^ 57) needR = .ok (.home (va c e)) ∧
      NothingPending c (va c e) 2) ∧ ∀ e ∈ first c, ¬ Unpoisoned c (va c e) 2)
      { small (fun t => planes (ab 0x30040 8 t)) [] with ms.poison := [0x30040] } (by decide +kernel)).imp
      fun _ ⟨a, b, d⟩ => ⟨a, fun e he => ⟨landed_home (b e he).1, (b e he).2⟩, d⟩⟩

/-! Hypotheses of the obligations on fences, barriers, requests and queues. -/

/-- Nothing of the team is outstanding. -/
abbrev Quiet (t : Team) : Prop := t.iss.flights = [] ∧ t.eng.qfences = [] ∧ t.iss.faults = []

theorem released {t : Team} (h : Quiet t) : ReleaseDone t := ⟨by simp [h.2.2], by simp [h.1], by simp [h.2.1]⟩

theorem notReleased {c : Ctx} (h : c.t.iss.flights = (storeOut c.t).iss.flights) : ¬ ReleaseDone c.t := fun hr => by
  have := hr.2.1 ⟨1, .store, false, false, [(0x38000, 1)], [], false, 0x38000, 1, none⟩ (by rw [h]; exact List.mem_singleton_self _) rfl
  simp at this

/-- A load of the team has not returned. -/
def loadOut (t : Team) : Team := { t with iss.flights := [⟨0, .load, false, false, [], [], false, 0, 0, none⟩] }

theorem meets_Fences :
    Meets .fenceRel (fun c => ReleaseDone c.t) ∧ Meets .fenceRel (fun c => ¬ ReleaseDone c.t) ∧
    Meets .fenceAcq (fun c => ∀ f ∈ c.t.iss.flights, f.kind = .load → f.done = true) ∧
    Meets .fenceAcq (fun c => ¬ ∀ f ∈ c.t.iss.flights, f.kind = .load → f.done = true) ∧
    Meets .fence (fun c => ReleaseDone c.t ∧ ∀ f ∈ c.t.iss.flights, f.kind = .load → f.done = true) ∧
    Meets .fence (fun c => ¬ ReleaseDone c.t) ∧
    Meets (.wait 0 4) (fun c => (c.t.iss.flights.filter fun f => f.path == 0).length = 1 ∧ (c.t.readS 4).toNat = 1) ∧
    Meets (.wait 0 4) (fun c => (c.t.iss.flights.filter fun f => f.path == 0).length = 1 ∧ (c.t.readS 4).toNat = 0) ∧
    Meets (.qfence 4) (fun c => c.t.readS 4 = 0x7F) ∧
    Meets .walksync (fun c => (∀ f ∈ c.t.iss.flights, f.kind = .store → f.done = true ∨ (f.bytes = [] ∧ f.remote = [])) ∧ c.s.ms.walk = []) ∧
    Meets .walksync (fun c => ¬ ((∀ f ∈ c.t.iss.flights, f.kind = .store → f.done = true ∨ (f.bytes = [] ∧ f.remote = [])) ∧ c.s.ms.walk = [])) :=
  have idle : ∀ i, Meets i (fun c => Quiet c.t) → Meets i fun c => ReleaseDone c.t ∧
      ∀ f ∈ c.t.iss.flights, f.kind = .load → f.done = true := fun _ h => h.imp fun _ q => ⟨released q, by simp [q.1]⟩
  ⟨(idle _ (meets (small id []) (by decide +kernel))).imp fun _ h => h.1,
    (meets (P := fun c => c.t.iss.flights = (storeOut c.t).iss.flights) (small storeOut []) (by decide +kernel)).imp fun _ => notReleased,
    (idle _ (meets (small id []) (by decide +kernel))).imp fun _ h => h.2,
    meets (small loadOut []) (by decide +kernel), idle _ (meets (small id []) (by decide +kernel)),
    (meets (P := fun c => c.t.iss.flights = (storeOut c.t).iss.flights) (small storeOut []) (by decide +kernel)).imp fun _ => notReleased,
    meets (small (fun t => ab 1 0 (loadOut t)) []) (by decide +kernel), meets (small (fun t => ab 0 0 (loadOut t)) []) (by decide +kernel),
    meets (small (ab 0x7F 0) []) (by decide +kernel), meets (small id []) (by decide +kernel), meets (small storeOut []) (by decide +kernel)⟩

/-- A barrier object of the home at 0x30000. -/
def barrier (exp arr : Nat) (phase : Bool) (pend : Nat) : List (Nat × Byte) :=
  [(0x30000, BitVec.ofNat 8 exp), (0x30001, BitVec.ofNat 8 (exp / 256)), (0x30002, BitVec.ofNat 8 arr), (0x30004, if phase then 1 else 0),
    (0x30008, BitVec.ofNat 8 pend)]

/-- The access to the barrier object at 0x30000 lands. -/
abbrev Lands (c : Ctx) : Prop :=
  (c.t.readS 4).toNat = 0x30000 ∧ Fresh c ∧ c.t.strongDone = true ∧ Landed c needRW 0x30000 0x30000 true ∧ NothingPending c 0x30000 16 ∧
    Unpoisoned c 0x30000 16 ∧ c.s.pod.reqs = []

theorem lands {i : Instr} {P : Ctx → Prop}
    (h : Meets i fun c => ((c.t.readS 4).toNat = 0x30000 ∧ Fresh c ∧ c.t.strongDone = true ∧ c.s.xlate c.t 0x30000 needRW = .ok (.home 0x30000) ∧
      NothingPending c 0x30000 16 ∧ Unpoisoned c 0x30000 16 ∧ c.s.pod.reqs = [] ∧ Quiet c.t) ∧ P c) :
    Meets i fun c => Lands c ∧ ReleaseDone c.t ∧ P c :=
  h.imp fun _ ⟨⟨a, b, d, e, f, g, h, q⟩, p⟩ => ⟨⟨a, b, d, landed_home e, f, g, h⟩, released q, p⟩

/-- What a barrier instruction makes of the object at 0x30000: 0 to 2 for an overflow. -/
def barGives (c : Ctx) (i : Instr) : Option (Nat ⊕ BarObj) :=
  (barResult c i (barObj c.s.mem.byte 0x30000)).map fun x => match x.2.2 with | .error k => .inl k | .ok b => .inr b

theorem meets_Barriers :
    Meets (.barInit 4 5) (fun c => (c.t.readS 4).toNat = 0x30008) ∧
    Meets (.barInit 4 5) (fun c => Lands c ∧ ReleaseDone c.t ∧ barGives c (.barInit 4 5) = some (.inl 1)) ∧
    Meets (.barInit 4 5) (fun c => Lands c ∧ ReleaseDone c.t ∧ barGives c (.barInit 4 5) = some (.inr ⟨65535, 0, false, 0, 0⟩)) ∧
    Meets (.barArrive 6 4) (fun c => Lands c ∧ ReleaseDone c.t ∧ barGives c (.barArrive 6 4) = some (.inl 2)) ∧
    Meets (.barArrive 6 4) (fun c => Lands c ∧ ReleaseDone c.t ∧ barGives c (.barArrive 6 4) = some (.inr ⟨2, 0, true, 0, 0⟩)) ∧
    Meets (.barExpect 4 5) (fun c => Lands c ∧ ReleaseDone c.t ∧ barGives c (.barExpect 4 5) = some (.inl 0)) ∧
    Meets (.barExpect 4 5) (fun c => Lands c ∧ ReleaseDone c.t ∧ barGives c (.barExpect 4 5) = some (.inr ⟨2, 1, false, 2 ^ 28 - 1, 0⟩)) ∧
    Meets (.barWait 4 5) (fun c => (c.t.readS 4).toNat = 0x30004) ∧
    Meets (.barWait 4 5) (fun c => (c.t.readS 4).toNat = 0x30000 ∧ c.t.sched.shedPark = true) ∧
    Meets (.barWait 4 5) (fun c => Lands c ∧ ReleaseDone c.t ∧ c.t.sched.shedPark = false ∧ (barObj c.s.mem.byte 0x30000).phase ≠ (c.t.readS 5).getLsbD 0) ∧
    Meets (.barWait 4 5) (fun c => Lands c ∧ ReleaseDone c.t ∧ c.t.sched.shedPark = false ∧ (barObj c.s.mem.byte 0x30000).phase = (c.t.readS 5).getLsbD 0) :=
  ⟨meets (small (ab 0x30008 1) []) (by decide +kernel), lands (meets (small (ab 0x30000 65536) []) (by decide +kernel)),
    lands (meets (small (ab 0x30000 65535) []) (by decide +kernel)), lands (meets (small (ab 0x30000 0) (barrier 2 2 false 1)) (by decide +kernel)),
    lands (meets (small (ab 0x30000 0) (barrier 2 1 false 0)) (by decide +kernel)),
    lands (meets (small (ab 0x30000 (2 ^ 28 - 1)) (barrier 2 1 false 1)) (by decide +kernel)),
    lands (meets (small (ab 0x30000 (2 ^ 28 - 2)) (barrier 2 1 false 1)) (by decide +kernel)), meets (small (ab 0x30004 0) []) (by decide +kernel),
    meets (small (fun t => { ab 0x30000 0 t with sched.shedPark := true }) []) (by decide +kernel),
    lands (meets (small (ab 0x30000 0) (barrier 2 1 true 0)) (by decide +kernel)),
    lands (meets (small (ab 0x30000 1) (barrier 2 1 true 0)) (by decide +kernel))⟩

theorem meets_Requests :
    let drained := fun (c : Ctx) => ∀ f ∈ c.t.iss.flights, f.kind = .store → f.done = true ∨ (f.bytes = [] ∧ f.remote = [])
    Meets (.icinv 4 5) (fun c => drained c ∧ ¬ c.t.Arrives c.fi (c.t.nextPc c.fi)) ∧ Meets (.icinv 4 5) (fun c => ¬ drained c) :=
  ⟨meets (small id []) (by decide +kernel), meets (small storeOut []) (by decide +kernel)⟩

/-- A page request of the loaded team for its second GiB. -/
def asks (seq : Word) (sent : Bool) : PageReq := ⟨0, 0, 0x4000, seq, false, sent⟩

/-- The machine whose interface 0 has a page-request ring of 2^n records at 0x600000. -/
def ringing (n : Nat) (s : State) : State :=
  { s with vis := (s.vis.take 1).map (fun i => { i with prqbase := 0x600000, prqlogn := n }) ++ s.vis.drop 1 }

theorem meets_Requests_pages :
    let asking := fun (c : Ctx) => Fresh c ∧ c.t.counterFull [6] = false ∧ (c.t.readS 4).toNat = 0x40000000 ∧
      (c.s.walkPage c.t.const.asid 0x40000000 needNone == .waiting) = true
    let room := fun (c : Ctx) => (c.s.vis[0]?).map fun i => (2 ^ i.prqlogn, (i.prqwr - i.prqrd).toNat, i.prqbase + 32 * (i.prqwr.toNat % 2 ^ i.prqlogn))
    Meets (.pgreq 4) (fun c => Fresh c ∧ c.t.counterFull [6] = false ∧ (c.t.readS 4).toNat / 2 ^ 48 = 0x1FF) ∧
    Meets (.pgreq 4) (fun c => asking c ∧ ∃ r ∈ c.s.prq, r.asid = c.t.const.asid ∧ r.page = 0x40000000 / 65536) ∧
    Meets (.pgreq 4) (fun c => asking c ∧ c.s.prq = [] ∧ room c = some (1, 1, 0x600000)) ∧
    Meets (.pgreq 4) (fun c => asking c ∧ c.s.prq = [] ∧ room c = some (2, 0, 0x600000) ∧
      (List.range 32).all (fun x => populated (0x600000 + x)) = true) :=
  ⟨meets (small (ab scratch0 0) []) (by decide +kernel), meets { small (ab 0x40000000 0) absent with prq := [asks 0 true] } (by decide +kernel),
    meets (let s := ringing 0 (small (ab 0x40000000 0) absent); { s with vis := s.vis.map fun i => { i with prqwr := 1 } }) (by decide +kernel),
    meets (ringing 1 (small (ab 0x40000000 0) absent)) (by decide +kernel)⟩

/-- The team holds slot j of queue 0. -/
def claiming (j : DWord) (t : Team) : Team := { ab 0x30000 0 t with iss.claim := some (0, 0, j) }

theorem meets_Requests_launch :
    let owned := fun (c : Ctx) => (c.s.cfgNow 0).vi = c.t.const.vi ∧ c.s.ringPopulated 0 = true
    let start := fun (c : Ctx) => (c.t.readS 4).toNat = 0x30000 ∧ (c.t.readS 5).toNat % 1024 = 0 ∧ Fresh c
    let held := fun (c : Ctx) (j : DWord) => start c ∧ c.t.iss.claim = some (c.fi, 0, j)
    let ready := fun (c : Ctx) => start c ∧ c.t.iss.claim = none ∧ owned c ∧ Landed c needR 0x30000 0x30000 true ∧
      Landed c needR (0x30000 + 128) (0x30000 + 128) true ∧ Unpoisoned c 0x30000 256 ∧ ReleaseDone c.t ∧
      seenBytes c true true (0x30000 + 128) 128 = seenBytes c false true (0x30000 + 128) 128 ∧
      c.s.ringFull 0 = false ∧ c.s.qring 0 = 0x500000 ∧ c.s.boot.qcbbase + 256 ≤ 0x500000 ∧
      (List.range 256).all (fun x => populated (0x500000 + x) && populated (c.s.boot.qcbbase + x)) = true
    let qcb := fun (c : Ctx) (n : Nat) => c.s.home8 (c.s.boot.qcbbase + n)
    Meets (.launch 4 5) (fun c => (c.t.readS 4).toNat = 0x30080) ∧
    Meets (.launch 4 5) (fun c => start c ∧ c.t.iss.claim = none ∧ ¬ owned c) ∧
    Meets (.launch 4 5) (fun c => held c 7 ∧ qcb c 136 ≠ 7) ∧
    Meets (.launch 4 5) (fun c => held c 0 ∧ qcb c 136 = 0 ∧ (List.range 8).all (fun x => populated (c.s.boot.qcbbase + 136 + x)) = true) ∧
    Meets (.launch 4 5) (fun c => ready c ∧ qcb c 136 = qcb c 128) ∧ Meets (.launch 4 5) (fun c => ready c ∧ qcb c 136 ≠ qcb c 128) := by
  intro owned start held ready qcb
  let ready' := fun (c : Ctx) => start c ∧ c.t.iss.claim = none ∧ owned c ∧ c.s.xlate c.t 0x30000 needR = Meet.ok (.home 0x30000) ∧
      c.s.xlate c.t 0x30080 needR = Meet.ok (.home 0x30080) ∧ Unpoisoned c 0x30000 256 ∧ Quiet c.t ∧
      seenBytes c true true (0x30000 + 128) 128 = seenBytes c false true (0x30000 + 128) 128 ∧
      c.s.ringFull 0 = false ∧ c.s.qring 0 = 0x500000 ∧ c.s.boot.qcbbase + 256 ≤ 0x500000 ∧
      (List.range 256).all (fun x => populated (0x500000 + x) && populated (c.s.boot.qcbbase + x)) = true
  have up : ∀ c, ready' c → ready c := fun _ ⟨a, b, c, d, e, f, q, r⟩ => ⟨a, b, c, landed_home d, landed_home e, f, released q, r⟩
  refine ⟨meets (small (ab 0x30080 0) []) (by decide +kernel), meets (small (ab 0x30000 0) [(6, 1)]) (by decide +kernel),
    meets (small (claiming 7) [(2, 0x50)]) (by decide +kernel), meets (small (claiming 0) [(2, 0x50)]) (by decide +kernel),
    (meets (P := fun c => ready' c ∧ qcb c 136 = qcb c 128) (small (ab 0x30000 1024) [(2, 0x50)])
      (by decide +kernel)).imp fun c ⟨a, b⟩ => ⟨up c a, b⟩,
    (meets (P := fun c => ready' c ∧ qcb c 136 ≠ qcb c 128)
      (small (ab 0x30000 1024) [(2, 0x50), (8, 1), (0x80, 1)]) (by decide +kernel)).imp
      fun c ⟨a, b⟩ => ⟨up c a, b⟩⟩

/-- A map of the team's first 16 bytes of scratch, one word of it filled and dirty, whose words lie at an address. -/
def mappedAt (gva : Nat) (t : Team) : Team := { ab scratch0 4 t with maps := [⟨0, 0x1000, gva, [0], [0]⟩] }

theorem meets_Requests_scratch :
    let range := fun (c : Ctx) => c.s.scratchRange c.t ((c.t.readS 4).toNat % 2 ^ 57) (c.t.readS 5).toNat
    let drained := fun (c : Ctx) => ∀ f ∈ c.t.iss.flights, f.kind = .store → f.done = true ∨ (f.bytes = [] ∧ f.remote = [])
    let clean := fun (c : Ctx) => (match range c with | .words u offs => (u.dirtyWords offs).isEmpty | _ => false) = true
    let dirty := fun (c : Ctx) (va : Nat) => (match range c with | .words u offs => u.dirtyWords offs == [(0, va)] | _ => false) = true ∧
      c.s.pathsFull c.t [1] = false
    Meets (.scWb 4 5) (fun c => c.t.readS 5 = 0) ∧
    Meets (.scWb 4 5) (fun c => (match range c with | .outside _ => true | _ => false) = true) ∧
    Meets (.scDrop 4 5) (fun c => (match range c with | .unstarted => true | _ => false) = true) ∧
    Meets (.scWb 4 5) (fun c => clean c ∧ drained c) ∧ Meets (.scWb 4 5) (fun c => clean c ∧ ¬ drained c) ∧
    Meets (.scWb 4 5) (fun c => dirty c 0x30000 ∧ c.s.xlate c.t 0x30000 needW = .ok (.home 0x30000)) ∧
    Meets (.scWb 4 5) (fun c => dirty c 0x80000000 ∧ c.s.xlate c.t 0x80000000 needW = .noPerm) ∧
    Meets (.scWb 4 5) (fun c => dirty c 0x40000000 ∧ c.s.xlate c.t 0x40000000 needW = .nonResident) ∧
    Meets (.scDrop 4 5) (fun c => dirty c 0x30000) :=
  ⟨meets (small (ab scratch0 0) []) (by decide +kernel), meets (small (ab 0x30000 4) []) (by decide +kernel),
    meets (small (fun t => { ab (scratch0 + 0x1000000) 4 t with const.nrole := 2 }) []) (by decide +kernel),
    meets (small (ab scratch0 4) []) (by decide +kernel), meets (small (fun t => ab scratch0 4 (storeOut t)) []) (by decide +kernel),
    meets (small (mappedAt 0x30000) []) (by decide +kernel), meets (small (mappedAt 0x80000000) []) (by decide +kernel),
    meets (small (mappedAt 0x40000000) absent) (by decide +kernel), meets (small (mappedAt 0x30000) []) (by decide +kernel)⟩

/-- A format slot with two element types. -/
def slotOf (a b : Nat) : QWord := BitVec.ofNat 128 (a + b * 2 ^ 8 + 6 * 2 ^ 16 + 5 * 2 ^ 24 + 127 * 2 ^ 32)

/-- Every slot of the team has two element types. -/
def formats (a b : Nat) (t : Team) : Team := { t with const.slots := List.replicate 8 (slotOf a b) }

/-- The bytes of a number at an address. -/
def numAt (a n x : Nat) : List (Nat × Byte) := ((List.range n).map fun i => (a + i, BitVec.ofNat 8 (x / 2 ^ (8 * i)))).filter fun b => b.2 != 0

/-- An operand descriptor: base, rows, columns, k-groups. -/
def descOf (base rows cols kgn : Nat) : Nat := base + rows * 2 ^ 192 + cols * 2 ^ 208 + kgn * 2 ^ 240

/-- The first n bytes of the number x. -/
def bytesOf (x n : Nat) : List Byte := (List.range n).map fun i => BitVec.ofNat 8 (x / 2 ^ (8 * i))

/-- Whether the pieces of a descriptor stand at a mapped address. -/
def pieces (c : Ctx) (va n : Nat) (d : List Byte) : Bool :=
  decide (d.length = n) && decide (∀ j, j < n / 16 →
    c.s.xlate c.t ((va + 16 * j) % 2 ^ 64 % 2 ^ 57) needR = .ok (.home (va + 16 * j)) ∧ Unpoisoned c (va + 16 * j) 16 ∧
    (d.drop (16 * j)).take 16 = seenBytes c false true (va + 16 * j) 16 ∧
    (va / 128 = (va + n - 1) / 128 ∨ seenBytes c true true (va + 16 * j) 16 = seenBytes c false true (va + 16 * j) 16))

abbrev Described (c : Ctx) (va n : Nat) (d : List Byte) : Prop := pieces c va n d = true

theorem described {c : Ctx} {va n : Nat} {d : List Byte} (h : Described c va n d) : DescAt c va n d := by
  have h := Bool.and_eq_true_iff.mp h
  have hd := of_decide_eq_true h.2
  exact ⟨of_decide_eq_true h.1, fun j hj => ⟨va + 16 * j, true, landed_home (hd j hj).1, (hd j hj).2⟩⟩

/-- An operation in a queue. -/
def someOp (serial : Nat) (i : Instr) : EngineOp :=
  ⟨serial, i, ((encode i).getD 0), 0, 0, [], [], 1, false, false, false, 0, [], false, 0, [], none, none, none, false, false, none, none, [], [], 0, 0, 0⟩

/-- The team has an operation of its own sibling alone as a gang of two places. -/
def ganged (t : Team) : Team := { t with regs.gang := 2 }

theorem meets_EngineQueues :
    let room := fun (c : Ctx) => Fresh c ∧ c.t.eng.q5.length < 32 ∧ c.t.eng.q6.length < 32
    let dense : Instr := .mxMma 0 0 4 5 false false false true
    let product := fun (gang : Bool) (c : Ctx) => room c ∧ (c.t.readS 4).toNat = 0x30000 ∧ (c.t.readS 5).toNat = 0x30020 ∧
      DescAt c 0x30000 32 (bytesOf (descOf 0x40000 64 32 4) 32) ∧ DescAt c 0x30020 32 (bytesOf (descOf 0x50000 64 32 4) 32) ∧
      slotLegal (c.t.slot 0) denseType denseType = true ∧
      (∀ x ∈ [0x40000, 0x50000], (opDesc (bytesOf (descOf x 64 32 4) 32)).reserved .bf16 = false ∧
        (opDesc (bytesOf (descOf x 64 32 4) 32)).misaligned .bf16 = false) ∧
      (gang = true → 2 ≤ gangN c.t.regs.gang ∧ gangN c.t.regs.gang ≤ 6 ∧ c.s.gangOk c.t = true)
    Meets (.mxSave 4) (fun c => room c ∧ (plainOp c (.mxSave 4)).map (·.2.1) = some 128) ∧
    Meets (.mxZero 7) (fun c => room c ∧ c.t.eng.q5.length = 31 ∧ (plainOp c (.mxZero 7)).map (·.2.1) = some 0) ∧
    Meets (.mxZero 7) (fun c => Fresh c ∧ c.t.eng.q5.length = 32 ∧ (plainOp c (.mxZero 7)).map (·.2.1) = some 0) ∧
    Meets (.mxResume 4) (fun c => room c ∧ (c.t.readS 4).toNat = 0x30000 ∧ DescAt c 0x30000 256 (List.replicate 256 0) ∧
      c.t.headerReserved (List.replicate 256 0) = true) ∧
    Meets (.mxResume 4) (fun c => room c ∧ (c.t.readS 4).toNat = 0x30000 ∧ DescAt c 0x30000 256 (bytesOf (8 * 2 ^ (8 * 87)) 256) ∧
      c.t.headerReserved (bytesOf (8 * 2 ^ (8 * 87)) 256) = false) ∧
    Meets (.tblKbuild 3 0 4) (fun c => room c ∧ (c.t.readS 4).toNat = 0x30000 ∧
      DescAt c 0x30000 32 (bytesOf (descOf 0x1FF000000000000 32 64 8) 32) ∧
      slotLegal (c.t.slot 0) (fun x => decide (6 ≤ x) && decide (x ≤ 10)) anyType = true ∧
      let d := opDesc (bytesOf (descOf 0x1FF000000000000 32 64 8) 32)
      d.reserved .bf16 = false ∧ inWindow d.base = true ∧ d.rows = 32 ∧ d.kgn = 8 ∧ d.misaligned .bf16 = false) ∧
    Meets dense (product false) ∧ Meets dense (product true) ∧
    Meets (.mxKmma 0 0 3 5 false false true) (fun c => room c ∧ (c.t.readS 5).toNat = 0x30020 ∧
      DescAt c 0x30020 32 (bytesOf (descOf 0x50000 64 32 4) 32) ∧ slotLegal (c.t.slot 0) anyType (· == 12) = true ∧
      let w := opDesc (bytesOf (descOf 0x50000 64 32 4) 32)
      w.reserved .bx4 = false ∧ w.kgn = 4 ∧ 8 * (w.kg0 + w.kgn) ≤ w.cols ∧ w.misaligned .bx4 = false) := by
  intro room dense product
  have two : ∀ gang, Meets dense (fun c => room c ∧ (c.t.readS 4).toNat = 0x30000 ∧ (c.t.readS 5).toNat = 0x30020 ∧
      Described c 0x30000 32 (bytesOf (descOf 0x40000 64 32 4) 32) ∧ Described c 0x30020 32 (bytesOf (descOf 0x50000 64 32 4) 32) ∧
      slotLegal (c.t.slot 0) denseType denseType = true ∧
      (∀ x ∈ [0x40000, 0x50000], (opDesc (bytesOf (descOf x 64 32 4) 32)).reserved .bf16 = false ∧
        (opDesc (bytesOf (descOf x 64 32 4) 32)).misaligned .bf16 = false) ∧
      (gang = true → 2 ≤ gangN c.t.regs.gang ∧ gangN c.t.regs.gang ≤ 6 ∧ c.s.gangOk c.t = true)) → Meets dense (product gang) :=
    fun _ h => h.imp fun _ ⟨a, b, c, d, e, f⟩ => ⟨a, b, c, described d, described e, f⟩
  let mem := numAt 0x30000 32 (descOf 0x40000 64 32 4) ++ numAt 0x30020 32 (descOf 0x50000 64 32 4)
  refine ⟨meets (small (ab 0x30080 0) []) (by decide +kernel),
    meets (small (fun t => { t with eng.q5 := List.replicate 31 (someOp 1 (.mxZero 0)) }) []) (by decide +kernel),
    meets (small (fun t => { t with eng.q5 := List.replicate 32 (someOp 1 (.mxZero 0)) }) []) (by decide +kernel),
    (meets (P := fun c => room c ∧ (c.t.readS 4).toNat = 0x30000 ∧ Described c 0x30000 256 (List.replicate 256 0) ∧
      c.t.headerReserved (List.replicate 256 0) = true) (small (ab 0x30000 0) []) (by decide +kernel)).imp
      fun _ ⟨a, b, c, d⟩ => ⟨a, b, described c, d⟩,
    (meets (P := fun c => room c ∧ (c.t.readS 4).toNat = 0x30000 ∧ Described c 0x30000 256 (bytesOf (8 * 2 ^ (8 * 87)) 256) ∧
      c.t.headerReserved (bytesOf (8 * 2 ^ (8 * 87)) 256) = false) (small (ab 0x30000 0) [(0x30057, 8)]) (by decide +kernel)).imp
      fun _ ⟨a, b, c, d⟩ => ⟨a, b, described c, d⟩,
    (meets (P := fun c => room c ∧ (c.t.readS 4).toNat = 0x30000 ∧
      Described c 0x30000 32 (bytesOf (descOf 0x1FF000000000000 32 64 8) 32) ∧
      slotLegal (c.t.slot 0) (fun x => decide (6 ≤ x) && decide (x ≤ 10)) anyType = true ∧
      (let d := opDesc (bytesOf (descOf 0x1FF000000000000 32 64 8) 32)
      d.reserved .bf16 = false ∧ inWindow d.base = true ∧ d.rows = 32 ∧ d.kgn = 8 ∧ d.misaligned .bf16 = false))
      (small (fun t => formats 7 0 (ab 0x30000 0 t)) (numAt 0x30000 32 (descOf 0x1FF000000000000 32 64 8))) (by decide +kernel)).imp
      fun _ ⟨a, b, c, d⟩ => ⟨a, b, described c, d⟩,
    two _ (meets (small (fun t => formats 7 7 (ab 0x30000 0x30020 t)) mem) (by decide +kernel)),
    two _ (meets (small (fun t => ganged (formats 7 7 (ab 0x30000 0x30020 t))) mem) (by decide +kernel)),
    (meets (P := fun c => room c ∧ (c.t.readS 5).toNat = 0x30020 ∧ Described c 0x30020 32 (bytesOf (descOf 0x50000 64 32 4) 32) ∧
      slotLegal (c.t.slot 0) anyType (· == 12) = true ∧
      (let w := opDesc (bytesOf (descOf 0x50000 64 32 4) 32)
      w.reserved .bx4 = false ∧ w.kgn = 4 ∧ 8 * (w.kg0 + w.kgn) ≤ w.cols ∧ w.misaligned .bx4 = false))
      (small (fun t => formats 0 12 (ab 0 0x30020 t)) mem) (by decide +kernel)).imp fun _ ⟨a, b, c, d⟩ => ⟨a, b, described c, d⟩⟩

/-- An open stream of the loaded team's place: two tiles, one subscriber. -/
def openStream : List Byte := bytesOf (0x40000 + 64 * 2 ^ 192 + 32 * 2 ^ 208 + 4 * 2 ^ 240 + 2 * 2 ^ 256 + 2 ^ 352) 64

/-- The machine with stream 15 open on cluster 0. -/
def streaming (s : State) : State :=
  { s with clusters := setAt s.clusters 0 { State.resetCluster with streams := [⟨0, 0, 0, 15, openStream, 0, 0, [], false⟩] } }

/-- A copy of one 16-byte row of bytes from 0x40000 to 0x50000; a chain of one element that adds K. -/
def aCopy : Nat := 0x40000 + 0x50000 * 2 ^ 64 + 16 * 2 ^ 128 + 2 ^ 160 + 2 ^ 192 + 2 ^ 224
def aChain : Nat := 0x40000 + 0x50000 * 2 ^ 64 + 2 ^ 128 + 6 * 2 ^ 192 + 6 * 2 ^ 200 + 2 ^ 208

theorem meets_EngineQueues_stream : Meets (.mxMma 0 0 4 5 false false false true) fun c => Fresh c ∧ c.t.eng.q5.length < 32 ∧
    (c.t.readS 5).toNat = 0xF000000000000000 + 15 ∧ c.t.sub? 15 = some (1, 1) ∧ (c.s.stream? c.t 15).map (fun sm => (sm.id, sm.desc)) = some (0, openStream) ∧
    1 < streamCount openStream ∧ slotLegal (c.t.slot 0) denseType denseType = true ∧
    (opDesc (streamTile openStream 1)).reserved .bf16 = false ∧ (opDesc (streamTile openStream 1)).misaligned .bf16 = false :=
  meets (streaming (small (fun t => formats 7 7 { ab 0x30000 0xF00000000000000F t with eng.subs := [(15, 1, 1)] }) [])) (by decide +kernel)

theorem meets_EngineControl :
    let at16 := fun (c : Ctx) (n x : Nat) => Fresh c ∧ (c.t.readS 4).toNat = 0x30000 ∧ DescAt c 0x30000 n (bytesOf x n)
    Meets (.mxFence 0) (fun c => Fresh c) ∧
    Meets (.mxWait 4) (fun c => ∀ o ∈ c.t.eng.q5 ++ c.t.eng.q6, min (c.t.readS 4).toNat c.t.eng.closed < o.batch) ∧
    Meets (.mxWait 4) (fun c => ¬ ∀ o ∈ c.t.eng.q5 ++ c.t.eng.q6, min (c.t.readS 4).toNat c.t.eng.closed < o.batch) ∧
    Meets (.mxSetgang 4) (fun c => (c.t.readS 4).toNat = 2 ^ 56) ∧ Meets (.mxSetgang 4) (fun c => (c.t.readS 4).toNat = 7) ∧
    Meets (.mxSetgang 4) (fun c => (c.t.readS 4).toNat = 2 ^ 56 - 2 ^ 8 + 6) ∧
    Meets (.tblKtest 3 4) (fun c => ∃ o ∈ c.t.eng.q6, o.table = some 3) ∧ Meets (.tblKtest 3 4) (fun c => ∀ o ∈ c.t.eng.q6, o.table ≠ some 3) ∧
    Meets (.mxStreamOpen 4 5) (fun c => (c.t.readS 5).toNat = 15 ∧ at16 c 64 0 ∧ streamCount (bytesOf 0 64) = 0) ∧
    Meets (.mxStreamOpen 4 5) (fun c => (c.t.readS 5).toNat = 15 ∧ Fresh c ∧ (c.t.readS 4).toNat = 0x30000 ∧ DescAt c 0x30000 64 openStream ∧
      ((opDesc openStream).reservedBase || !allZero openStream 48 16 || streamCount openStream == 0 || streamSubs openStream == 0 ||
        decide (16 < streamSubs openStream)) = false ∧ (c.s.stream? c.t 15).isNone = true ∧
      ((c.s.clusters[c.t.sched.cluster]?).map fun k => (k.streams.filter (!·.closed)).length) = some 0) ∧
    Meets (.mxSub 4 5) (fun c => Fresh c ∧ (c.t.readS 4).toNat = 16 ∧ (c.t.readS 5).toNat = 1) ∧
    Meets (.mxSub 4 5) (fun c => Fresh c ∧ (c.t.readS 4).toNat = 15 ∧ (c.t.readS 5).toNat = 16 ∧ (c.s.stream? c.t 15).isNone = true) ∧
    Meets (.mxSub 4 5) (fun c => Fresh c ∧ (c.t.readS 4).toNat = 15 ∧ (c.t.readS 5).toNat = 1 ∧ (c.s.stream? c.t 15).isSome = true) ∧
    Meets (.cpy 4 5) (fun c => (c.t.readS 5).toNat = 3 ∧ at16 c 80 aCopy ∧ copyReserved (bytesOf aCopy 80) = false ∧
      copyMisaligned (copyDesc (bytesOf aCopy 80)) = none ∧ c.t.counterFull [4] = false) ∧
    Meets (.chain 4) (fun c => at16 c 64 aChain ∧ chainReserved (bytesOf aChain 64) = false ∧ chainMisaligned (chainDesc (bytesOf aChain 64)) = none ∧
      c.t.counterFull [5] = false) := by
  refine ⟨meets (small id []) (by decide +kernel), meets (small (ab (-1) 0) []) (by decide +kernel),
    meets (small (fun t => { ab 1 0 t with eng.closed := 1, eng.q6 := [someOp 1 (.mxZero 0)] }) []) (by decide +kernel),
    meets (small (ab 0x100000000000000 0) []) (by decide +kernel), meets (small (ab 7 0) []) (by decide +kernel),
    meets (small (ab 0xFFFFFFFFFFFF06 0) []) (by decide +kernel),
    meets (small (fun t => { ab 1 0 t with eng.q6 := [someOp 1 (.tblKinv 3)] }) []) (by decide +kernel), meets (small id []) (by decide +kernel),
    (meets (P := fun c => (c.t.readS 5).toNat = 15 ∧ (Fresh c ∧ (c.t.readS 4).toNat = 0x30000 ∧ Described c 0x30000 64 (bytesOf 0 64)) ∧
      streamCount (bytesOf 0 64) = 0) (small (ab 0x30000 15) []) (by decide +kernel)).imp fun _ ⟨a, ⟨b, c, d⟩, e⟩ => ⟨a, ⟨b, c, described d⟩, e⟩,
    (meets (P := fun c => (c.t.readS 5).toNat = 15 ∧ Fresh c ∧ (c.t.readS 4).toNat = 0x30000 ∧ Described c 0x30000 64 openStream ∧
      ((opDesc openStream).reservedBase || !allZero openStream 48 16 || streamCount openStream == 0 || streamSubs openStream == 0 ||
        decide (16 < streamSubs openStream)) = false ∧ (c.s.stream? c.t 15).isNone = true ∧
      ((c.s.clusters[c.t.sched.cluster]?).map fun k => (k.streams.filter (!·.closed)).length) = some 0)
      (small (ab 0x30000 15) (numAt 0x30000 64 (ofBytes openStream))) (by decide +kernel)).imp fun _ ⟨a, b, c, d, e⟩ => ⟨a, b, c, described d, e⟩,
    meets (small (ab 16 1) []) (by decide +kernel), meets (small (ab 15 16) []) (by decide +kernel),
    meets (streaming (small (ab 15 1) [])) (by decide +kernel),
    (meets (P := fun c => (c.t.readS 5).toNat = 3 ∧ (Fresh c ∧ (c.t.readS 4).toNat = 0x30000 ∧ Described c 0x30000 80 (bytesOf aCopy 80)) ∧
      copyReserved (bytesOf aCopy 80) = false ∧ copyMisaligned (copyDesc (bytesOf aCopy 80)) = none ∧ c.t.counterFull [4] = false)
      (small (ab 0x30000 3) (numAt 0x30000 80 aCopy)) (by decide +kernel)).imp fun _ ⟨a, ⟨b, c, d⟩, e⟩ => ⟨a, ⟨b, c, described d⟩, e⟩,
    (meets (P := fun c => (Fresh c ∧ (c.t.readS 4).toNat = 0x30000 ∧ Described c 0x30000 64 (bytesOf aChain 64)) ∧
      chainReserved (bytesOf aChain 64) = false ∧ chainMisaligned (chainDesc (bytesOf aChain 64)) = none ∧ c.t.counterFull [5] = false)
      (small (ab 0x30000 0) (numAt 0x30000 64 aChain)) (by decide +kernel)).imp fun _ ⟨⟨b, c, d⟩, e⟩ => ⟨⟨b, c, described d⟩, e⟩⟩

/-! Hypotheses of the obligations on the events of teams, clusters and engines. -/

/-- A state of one team has a property. -/
abbrev Fact (s : State) (p : State → Team → Prop) : Prop := s.team? s.one.id = some s.one ∧ p s s.one

theorem meets_TeamEvents :
    Fact (small (fun t => { t with iss.windows := [⟨0, 1, [.v 5 31 0xFFFF 7], [], 0⟩], iss.issued := 1 }) [])
      (fun _ t => (t.iss.windows.map (·.closeAt)) = [1] ∧ 1 ≤ t.iss.issued) ∧
    Fact (small (fun t => { t with iss.bypass := [⟨0, []⟩], iss.issued := 4 }) []) (fun _ t => ∃ x ∈ t.iss.bypass, x.producer + 3 < t.iss.issued) ∧
    Fact (small (fun t => { t with iss.busy := [⟨.s, 5, false, 0⟩] }) []) (fun s t => t.iss.busy[0]? = some ⟨.s, 5, false, 0⟩ ∧
      (s.clusters[t.sched.cluster]?).map (·.cyclef) = some 0) ∧
    Fact (small loadOut []) (fun _ t => t.iss.flights[0]? = some ⟨0, .load, false, false, [], [], false, 0, 0, none⟩) ∧
    Fact (small storeOut []) (fun _ t => t.iss.flights[0]? = some ⟨1, .store, false, false, [(0x38000, 1)], [], false, 0x38000, 1, none⟩) ∧
    Fact (small (fun t => { t with iss.faults := [⟨0x06, 0x2000000000030000, 0, false, false, false⟩] }) [])
      (fun s t => t.iss.faults ≠ [] ∧ s.mayIssue t 0 = true ∧ t.tm = false) ∧
    Fact (small (fun t => { t with sched.waits := 4096 }) []) (fun _ t => 4096 ≤ t.sched.waits ∧ t.sched.boosted = false) ∧
    Fact (small (fun t => { t with iss.withheld := some (0, .yield 0) }) [])
      (fun s t => t.iss.withheld = some (0, .yield 0) ∧ (s.clusters[t.sched.cluster]?).isSome ∧ s.othersEligible t = false) := by
  decide +kernel

/-- The team is withheld by its first fragment for a reason. -/
def waiting (w : Withheld) (t : Team) : Team := { t with iss.withheld := some (0, w) }

/-- The pod is open and device 1 is a member. -/
def podded (s : State) : State :=
  { s with pod := { State.resetPod with podctl := 0x80000000, member := 2 :: List.replicate 15 0, applied := 2 :: List.replicate 15 0 } }

/-- A wait of the loaded team. -/
abbrev Waits (w : Withheld) (f : Team → Team) (mem : List (Nat × Byte)) (p : State → Team → Prop) : Prop :=
  Fact (small (fun t => waiting w (f t)) mem) fun s t => (t.frag 0).st = .running ∧ t.iss.withheld = some (0, w) ∧ p s t

/-- The answered poll of the loaded team. -/
def polled (bs : List Byte) : RemoteOut := ⟨0, 0, .poll, 1, 0, 0x40000000, .read 16, 0, 0, some (.data bs), false, false, false⟩

/-- A wait of the loaded team at an object of device 1 for phase 1, with some polls answered. -/
abbrev Polls (rs : List RemoteOut) (p : State → Team → Prop) : Prop :=
  let s := podded (small (waiting (.barWait 0x40000000 false)) farPage)
  Fact { s with pod := { s.pod with reqs := rs } } fun s t => (t.frag 0).st = .running ∧
    t.iss.withheld = some (0, .barWait 0x40000000 false) ∧ s.xlate t 0x40000000 needRW = .ok (.remote 1 0) ∧ p s t

/-- Whether a recorded member matches team t, which has arrived with a word. -/
def matching (t : Team) (w : Word) (u : Team) : Bool :=
  match u.latched with
  | some y => y.2.1 && sameMembers u.regs.gang t.regs.gang && gangMatch t u (w, true, []) y
  | none => false

theorem meets_WaitsEnd :
    Waits (.wait 0 0) id [] (fun _ t => (t.iss.flights.filter fun f => f.path == 0).length ≤ 0) ∧
    Waits (.mxWait 1) id [] (fun _ t => ∀ o ∈ t.eng.q5 ++ t.eng.q6, min 1 t.eng.closed < o.batch) ∧
    Waits (.fenceAcq true) id [] (fun _ t => ∀ f ∈ t.iss.flights, f.kind = .load → f.done = true) ∧
    Waits .walksync id [] (fun _ t => ∀ f ∈ t.iss.flights, f.kind = .store → f.done = true ∨ (f.bytes = [] ∧ f.remote = [])) ∧
    Waits (.icinv 0x10000 128) id [] (fun _ _ => True) ∧
    Waits (.barWait 0x30000 false) id (barrier 2 0 true 0) (fun s t => Fresh ⟨s, t, 0⟩ ∧ t.sched.shedPark = false ∧ (∀ u ∈ s.teams, s.team? u.id = some u) ∧
      s.xlate t 0x30000 needRW = .ok (.home 0x30000) ∧ s.ms.poison = [] ∧ (barObj s.mem.byte 0x30000).phase ≠ false) ∧
    Polls [] (fun s _ => s.portsHeld = false ∧ s.pod.reqs = []) ∧
    Polls [polled (zeroBytes 16)] (fun s _ => s.portsHeld = false) ∧
    Polls [polled (setAt (zeroBytes 16) 4 1)] (fun _ t => t.sched.shedPark = false) ∧
    Waits (.gang 0 true [] []) id [] (fun s t => (∀ u ∈ s.teams, s.team? u.id = some u) ∧ t.regs.gang.toNat % 8 < 2 ∧ (s.clusters[t.sched.cluster]?).any (·.halted) = false) ∧
    Waits (.gang 0 true [] []) (fun t => { t with regs.gang := 0x0102 }) [] (fun s t => t.regs.gang.toNat % 8 = 2 ∧ s.gangOk t = false) ∧
    Waits (.gang 0x500 true [] []) (fun t => { ab 0 0xF000000000000000 t with regs.gang := 2, regs.mode := 0 }) [] (fun s t => t.regs.gang.toNat % 8 = 2 ∧ s.gangOk t = true ∧
      ((gangSlots t.regs.gang).eraseDups.filterMap (s.siblingAt t)).all (fun u => u.latchedWith t &&
        matching t 0x500 u && !u.mode.getLsbD 21) = true ∧ (s.clusters[t.sched.cluster]?).any (·.halted) = false) :=
  by and_intros <;> decide +kernel

/-- Two teams that have arrived at the latch with different words. -/
def twoMembers : State :=
  let s := small (fun t => waiting (.gang 0x500 true [] []) { ab 0 0xF000000000000000 t with regs.gang := 0x010002 }) []
  { s with teams := s.teams ++ s.teams.map fun t => waiting (.gang 0x510 true [] []) { t with id := 1, sched.slot := 1 } }

theorem meets_WaitsEnd_probes :
    Waits (.gang 0x500 false [] []) (fun t => { t with regs.gang := 2 }) [] (fun s t => (∀ u ∈ s.teams, s.team? u.id = some u) ∧ t.regs.gang.toNat % 8 = 2 ∧
      s.gangOk t = true ∧ ((gangSlots t.regs.gang).eraseDups.filterMap (s.siblingAt t)).all (fun u => u.latchedWith t &&
        (u.latched.map (·.2.1)) == some false) = true ∧ (s.clusters[t.sched.cluster]?).any (·.halted) = false) := by
  decide +kernel

theorem meets_WaitsEnd_mismatch : Fact twoMembers fun s t =>
    let members := (gangSlots t.regs.gang).eraseDups.filterMap (s.siblingAt t)
    (∀ u ∈ s.teams, s.team? u.id = some u) ∧ (t.frag 0).st = .running ∧ t.regs.gang.toNat % 8 = 2 ∧ s.gangOk t = true ∧
      members.all (fun u => u.latchedWith t) = true ∧ (members.any fun u => (u.latched.map (·.2.1)) == some true) = true ∧
      (members.any fun u => !matching t 0x500 u) = true ∧ (s.clusters[t.sched.cluster]?).any (·.halted) = false := by
  decide +kernel

/-- The loaded machine with one cluster changed. -/
def clustered (f : Cluster → Cluster) (g : Power → Power) : State :=
  let s := small id []
  { s with clusters := s.clusters.map f, pwr := g s.pwr, now := 100000000 }

/-- Cluster 0 of such a machine. -/
abbrev Clustered (f : Cluster → Cluster) (g : Power → Power) (p : State → Cluster → Prop) : Prop :=
  (clustered f g).clusters[0]? = some (f State.resetCluster) ∧ p (clustered f g) (f State.resetCluster)

theorem meets_ClusterEvents :
    (chooseFrag 0 0 (fun _ => true) [⟨0, 0, 0, 0, 0, 4, 4, 0, false⟩]).isSome = true ∧
    Clustered id id (fun s _ => s.boot.powered = true ∧ s.boot.reset = false) ∧
    Clustered (fun c => { c with lane2 := 128 }) id (fun s c => ((c.cores[0]?).bind fun x => x.units[unitIndex .lanes]?) = some (.awake 0) ∧
      0 + 64 ≤ c.lane2 / 2 ∧ s.unitQueued 0 0 .lanes = false) ∧
    Clustered (fun c => { c with lane2 := 128, cores := c.cores.map fun x => { x with units := setAt x.units 1 (.waking 0 0) } }) id
      (fun s c => ((c.cores[0]?).bind fun x => x.units[unitIndex .special]?) = some (.waking 0 0) ∧ 0 + 64 ≤ c.lane2 / 2 ∧ s.unitQueued 0 0 .special = false) ∧
    Clustered id id (fun _ c => c.level ≠ 2) ∧
    Clustered (fun c => { c with cyclef := 3, cores := (c.cores.take 2).map (fun x => { x with engine := ⟨false, false, some 1, 0⟩ }) ++ (c.cores.drop 2).map fun x => { x with engine := ⟨true, false, none, 1⟩ } }) id
      (fun s c => (c.cyclef + 1) % 4 = 0 ∧ c.shutAt ≠ c.cyclef + 1 ∧ (∀ u ∈ s.teams, ∀ q ∈ [EngineQueue.q5, .q6], s.engineHead u.id q = none) ∧
        (c.cores.any (·.engine.active) && c.cores.any (·.engine.request.isSome)) = true) ∧
    frameGood 0 = false ∧ frameGood 0xA510C29C076C0122 = true ∧ State.reset.pwr.shed.length = 3 ∧
    Clustered id (fun p => { p with lastValid := some (100000000 - 500 * Config.ticksPerUs) })
      (fun s _ => (s.pwr.lastValid.map fun a => a + 500 * Config.ticksPerUs) = some s.now ∧ s.pwr.lost = false) ∧
    Clustered id (fun p => { p with p := 999 }) (fun s _ => s.pwr.used ≠ s.pwr.p) ∧
    Clustered id (fun p => { p with shed := [false, false, true], okSince := [none, none, some (100000000 - 20000 * Config.ticksPerUs)],
                                    lastValid := some 100000000 })
      (fun s _ => s.pwr.shed.getD 2 false = true ∧ (s.pwr.okSince.getD 2 none).map (fun a => a + 20000 * Config.ticksPerUs) = some s.now ∧
        s.pwr.lastValid = some s.now) :=
  by and_intros <;> decide +kernel

/-- The machine with an operation at the head of a queue of the loaded team, whose engine is active. -/
def engined (q : EngineQueue) (o : EngineOp) (f : Team → Team) (mem : List (Nat × Byte)) : State :=
  let s := small (fun t => (f t).setQ q [o]) mem
  { s with clusters := s.clusters.map fun c => { c with cores := c.cores.map fun x => { x with engine := { x.engine with active := true } } } }

/-- An operation that runs. -/
def running (i : Instr) : EngineOp := { someOp 1 i with asked := true, started := true }

/-- A run of an operation whose lines are there. -/
abbrev Runs (q : EngineQueue) (o : EngineOp) (f : Team → Team) (mem : List (Nat × Byte)) (p : State → Team → Prop) : Prop :=
  let s := engined q o f mem
  s.engineHead s.one.id q = some (s.one, o) ∧ o.started = true ∧ o.paused = false ∧ o.page = none ∧ s.opFetched s.one o (s.one.totalSteps o) = true ∧
    s.pod.reqs = [] ∧ p s s.one

/-- The machine with the first GiB in the TLB of the team's core. -/
def translated (s : State) : State := { s with ms := { s.ms with tlb := [⟨.core 0, 0, 0, 2 ^ 30, 0, true, true, true, none, 0⟩] } }

/-- A word of a queue's read, or of its write, at an address that stays where it is. -/
abbrev Fetches (s : State) (t : Team) (va n : Nat) : Prop := s.xlate t va needR = .ok (.home va) ∧ Unpoisoned ⟨s, t, 0⟩ va (n + 4)
abbrev Puts (s : State) (t : Team) (va n : Nat) : Prop :=
  let s := translated s
  s.xlate t va needW = .ok (.home va) ∧ NothingPending ⟨s, t, 0⟩ va n ∧
    ((s.tlb? t.coreId t.const.asid va).map fun e => inVault (e.at va)) = some false

/-- The header of the save area of a KMMA on the first table, and its result and weights. -/
def savedHeader : List Byte :=
  bytesOf (wordOf (.mxKmma 0 0 0 5 false false true)) 4 ++ zeroBytes 44 ++ bytesOf (descOf 0x50000 1 32 4) 32 ++ zeroBytes 176

/-- A product whose A operand stands in one line and whose B operand is the first tile of stream 15. -/
def smallOp (i : Instr) : EngineOp :=
  { running i with adesc := bytesOf (descOf 0x40000 1 16 2) 32, bdesc := bytesOf (descOf 0x50000 1 16 2) 32,
                   lines := [(0x40000, List.replicate 128 0)], stream := some (0, 0) }

/-- A KMMA whose operand stands in two lines. -/
def smallLookup : EngineOp :=
  { running (.mxKmma 0 0 0 5 false false true) with bdesc := bytesOf (descOf 0x50000 1 32 4 + 0x50080 * 2 ^ 64) 32,
                                                    lines := [(0x50000, List.replicate 128 0), (0x50080, List.replicate 128 0)] }

/-- A build with one row of one group. -/
def smallBuild : EngineOp := { running (.tblKbuild 0 0 4) with adesc := bytesOf (descOf 0x40000 1 8 1) 32, lines := [(0x40000, List.replicate 128 0)] }

/-- The first table of the team is in a state. -/
def tabled (st : TabState) (t : Team) : Team := { t with eng.k := setAt t.eng.k 0 ⟨st, 32, 8, 0, [], 0, 0, 0, []⟩ }

/-- An operation may ask for its start, or start. -/
abbrev IsReady (q : EngineQueue) (o : EngineOp) (f : Team → Team) (p : State → Team → Prop) : Prop :=
  let s := engined q o f []
  s.engineHead s.one.id q = some (s.one, o) ∧ s.opReady s.one q o = true ∧ p s s.one

abbrev Starts (q : EngineQueue) (i : Instr) (f : Team → Team) (p : Team → Prop) : Prop :=
  IsReady q { someOp 1 i with asked := true, adesc := bytesOf (descOf 0x1FF000000000000 32 64 8) 32 } f fun s t =>
    (s.engineOf t).active = true ∧ s.engineTaken t = false ∧ p t

theorem meets_EngineEvents :
    IsReady .q5 (someOp 1 (.mxZero 7)) id (fun _ _ => True) ∧ Starts .q5 (.mxZero 7) id (fun _ => True) ∧
    Starts .q5 (.mxKmma 0 0 0 5 false false true) id (fun t => (t.table 0).st = .empty) ∧
    Starts .q5 (.mxKmma 0 0 0 5 false false true) (tabled .attached) (fun t => (t.table 0).st = .attached) ∧
    Starts .q6 (.tblKbuild 3 0 4) id (fun t => 3 < t.eng.k.length) ∧
    (let o := { smallBuild with lines := [] }
     let s := engined .q6 o (formats 7 0) []
     s.engineHead s.one.id .q6 = some (s.one, o) ∧ o.started = true ∧ o.paused = false ∧ o.page = none ∧
       0x40000 ∈ linesOf (s.one.opNeeds o (s.one.totalSteps o)) ∧ lookupKey 0x40000 o.lines = none ∧ Fetches s s.one 0x40000 128 ∧
       s.othersPending s.one 0x40000 (fun u => (u.getQ .q6).any fun x => x.joint == o.joint) = false) ∧
    Runs .q5 (running (.mxZero 7)) id [] (fun _ _ => True) ∧
    Runs .q5 smallLookup (fun t => tabled .attached (formats 0 12 t)) [] (fun _ t => t.opShape smallLookup.op smallLookup.bdesc = some (4, 2) ∧
      (opDesc smallLookup.bdesc).kgn = 4) ∧
    Runs .q5 { running (.mxAccwr 0 4 5) with step := 4095, addr := 0x40000 } id [] (fun s t => ∀ o ∈ t.eng.q5, o.wordAt 4095 = 0x400FC ∧
      Fetches s t 0x400FC 4) ∧
    Runs .q5 { running (.mxAccrd 0 4 5) with step := 4095, addr := 0x40000 } id [] (fun s t => ∀ o ∈ t.eng.q5, o.wordAt 4095 = 0x400FC ∧
      Puts s t 0x400FC 4) ∧
    Runs .q5 { running (.mxSave 4) with step := 63 + 4096 * 8, addr := 0x40000 } id [] (fun s t => 64 + 4096 * t.const.tiles = 63 + 4096 * 8 + 1 ∧
      Puts s t (saveAddr 0x40000 (63 + 4096 * 8)) 4) ∧
    Runs .q5 { running (.mxResume 4) with adesc := List.replicate 256 0 } id [] (fun _ _ => resumeWords (List.replicate 256 0) = 0 ∧
      headerOp (List.replicate 256 0) = none) ∧
    Runs .q5 { running (.mxResume 4) with adesc := savedHeader } (formats 0 12) [] (fun _ t => resumeWords savedHeader = 0 ∧
      ((headerOp savedHeader).bind fun i => t.opShape i ((savedHeader.drop 48).take 32)) = some (4, 2)) ∧
    Runs .q6 smallBuild (fun t => tabled .attached (formats 7 0 t)) [] (fun _ t => (t.table 0).st = .attached ∧ 0 < t.eng.k.length) ∧
    Runs .q6 (running (.tblKinv 3)) id [] (fun _ t => 3 < t.eng.k.length) ∧
    ∀ st ∈ [TabState.attached, .stale, .empty], Runs .q6 (running (.tblKdetach 0)) (tabled st) [] (fun _ t => (t.table 0).st = st) :=
  by and_intros <;> decide +kernel


theorem meets_EngineEvents_product :
    let o := smallOp (.mxMma 0 0 4 5 false false false true)
    let s := engined .q5 o (formats 7 7) []
    let s : State := { s with clusters := s.clusters.map fun (c : Cluster) => { c with streams := [⟨0, 0, 0, 15, openStream, 1, 1, [(0, [(0x50000, List.replicate 128 0)])], false⟩] } }
    s.engineHead s.one.id .q5 = some (s.one, o) ∧ o.started = true ∧ o.paused = false ∧ o.page = none ∧ o.step = 0 ∧ o.pend = [] ∧ o.nans = [] ∧
      s.opFetched s.one o (s.one.totalSteps o) = true ∧
      (s.one.mmaOf o).map (fun m => (m.k / 16, 4)) = s.one.opShape o.op o.bdesc := by
  decide +kernel

/-- The loaded machine with a stream of its place on cluster 0, and a product at the head of queue 5. -/
def streams (st : Stream) (f : Team → Team) : State :=
  let s := engined .q5 (smallOp (.mxMma 0 0 4 5 false false false true)) (fun t => formats 7 7 (f t)) []
  { s with clusters := s.clusters.map fun (c : Cluster) => { c with streams := [st] } }

theorem meets_EngineEvents_streams :
    let due := fun (s : State) (st : Stream) =>
      decide (st.next < streamCount st.desc) && decide (streamSubs st.desc ≤ st.joined) && (s.subsOf st).all fun x => decide (st.next < x.2 + x.1)
    (let st : Stream := ⟨0, 0, 0, 15, openStream, 0, 1, [], false⟩
     due (streams st fun t => { t with eng.subs := [(15, 1, 0)] }) st = true) ∧
    (let st : Stream := ⟨0, 0, 0, 15, openStream, 1, 1, [(0, [])], false⟩
     let s := streams st fun t => { t with eng.subs := [(15, 1, 0)] }
     due s st = false ∧ s.one.const.launch = 0 ∧ s.one.const.placeNo = 0 ∧ s.one.sched.life.holds = true ∧
       (s.one.eng.q5.head?.map fun o => ((o.started, o.paused, o.page.isNone), (o.stream, (linesOf (s.one.tileNeeds o)).contains 0x50000))) =
         some ((true, false, true), (some (0, 0), true)) ∧ Fetches s s.one 0x50000 128 ∧
       s.othersPending s.one 0x50000 (fun v => v.eng.q5.any fun x => x.stream == some (0, 0)) = false) :=
  by and_intros <;> decide +kernel

/-! Hypotheses of the obligations on copies. -/

/-- A queued copy or chain. -/
def copyOp (q : Nat) (chain : Bool) (d : Nat) : CopyOp := ⟨1, q, chain, bytesOf d (if chain then 64 else 80), 0, false, false, none, 0⟩

/-- The loaded machine with such an operation, and its counter at one. -/
def copying (o : CopyOp) (mem : List (Nat × Byte)) : State :=
  small (fun t => { t with eng.copies := [o], iss.flights := [⟨if o.chain then 5 else 4, .copy 1, false, false, [], [], false, 0, 1, none⟩] }) mem

/-- The operation may run, with the first GiB in the TLB, and a property holds. -/
abbrev Copies (o : CopyOp) (p : State → Team → Prop) : Prop :=
  let s := translated (copying o [])
  s.copyReady s.one.id o.q = some (s.one, o) ∧ s.pod.reqs = [] ∧ o.pos ≤ o.count ∧ p s s.one

/-- What the read of an element of a copy or chain meets, at an address that stays where it is; with `Puts` of its write. -/
abbrev Gets (s : State) (t : Team) (va n : Nat) : Prop :=
  s.xlate t va needR = .ok (.home va) ∧ Unpoisoned ⟨s, t, 0⟩ va n ∧
    ((s.tlb? t.coreId t.const.asid va).map fun e => inVault (e.at va)) = some false

/-- A copy with a credit of its 16 bytes at the barrier object at 0x30000, one with a column of padding before the row. -/
def aCredit : Nat := aCopy + 2 ^ 480 + 0x30000 * 2 ^ 512
def aPadded : Nat := aCopy + 2 ^ 448

theorem meets_CopyEvents :
    Copies { copyOp 0 false aCopy with pos := 16 } (fun _ _ => (copyOp 0 false aCopy).count = 16) ∧
    Copies { copyOp 0 false aCopy with pos := 14 } (fun s t => ∀ k, k < 2 →
      (copyDesc (bytesOf aCopy 80)).srcOf (14 + k) = some (0x4000E + k) ∧ (copyDesc (bytesOf aCopy 80)).dstOf (14 + k) = 0x5000E + k ∧
        (copyDesc (bytesOf aCopy 80)).b = 1 ∧ Gets s t (0x4000E + k) 1 ∧ Puts s t (0x5000E + k) 1) ∧
    ((copyDesc (bytesOf aPadded 80)).srcOf 0 = none ∧ (copyDesc (bytesOf aPadded 80)).count = 17) ∧
    Copies (copyOp 4 true aChain) (fun s t => (copyOp 4 true aChain).count = 1 ∧ (chainDesc (bytesOf aChain 64)).st.width = 32 ∧
      Gets s t 0x40000 4 ∧ Puts s t 0x50000 4) ∧
    (let o := { copyOp 0 false aCopy with pos := 16, written := true };
      (copying o []).copyWritten 0 0 = some ((copying o []).one, o) ∧ o.credits = false) ∧
    (let o := { copyOp 0 false aCredit with pos := 16, written := true };
      (copying o []).copyWritten 0 0 = some ((copying o []).one, o) ∧ o.credits = true ∧ o.count = 16) ∧
    (let o := { copyOp 0 false aCredit with pos := 16, written := true, fallen := true };
      let s := copying o (barrier 2 2 false 16)
      s.creditDue 0 0 = some (s.one, o) ∧ (copyDesc o.desc).bara = 0x30000 ∧ s.xlate s.one 0x30000 needRW = .ok (.home 0x30000) ∧
        Unpoisoned ⟨s, s.one, 0⟩ 0x30000 16 ∧ (copyDesc o.desc).bytes = (barObj s.mem.byte 0x30000).pend) ∧
    (let o := { copyOp 4 true aChain with pos := 1, written := true, flags := 1 };
      (copying o []).copyWritten 0 4 = some ((copying o []).one, o)) :=
  by and_intros <;> decide +kernel

/-! Hypotheses of the obligations on translation. -/

/-- Two more levels of page tables under the second GiB, whose first page is at 0x50000. -/
def deep : List (Nat × Byte) := numAt 0x202008 8 0x203001 ++ numAt 0x203000 8 0x204001 ++ numAt 0x204000 8 0x5003F

theorem meets_Translations_walk :
    let s := small id deep
    let t := fun (k : Nat) => 0x200000 + 0x1000 * k
    let p := fun (k : Nat) => s.home8 (t k + if k = 2 then 8 else 0)
    s.ms.walk = [] ∧ 0x40000123 / 2 ^ 48 % 512 ≠ 0x1FF ∧ s.home8 s.boot.ctxbase = 0x200001 ∧
    (∀ k, k < 4 → (p k).toNat % 4 = 1 ∧ (p k).getLsbD 6 = false ∧ (p k).getLsbD 52 = false ∧
      t (k + 1) = (p k).toNat / 2 ^ 8 % 2 ^ 44 * 256 ∧ t (k + 1) % (if k < 3 then 4096 else 256) = 0) ∧
    (p 4).toNat % 4 = 3 ∧ (p 4).getLsbD 6 = false ∧ (p 4).getLsbD 7 = false ∧ (p 4).getLsbD 52 = false ∧ (p 4).toNat / 2 ^ 8 % 2 ^ 8 = 0 ∧
    (s.vis[(s.mem.byte (s.boot.ctxbase + 8)).toNat % 64]?).map (·.s2en) = some false ∧ (p 4).toNat / 2 ^ 16 % 2 ^ 36 * 65536 = 0x50000 ∧
    populated 0x50123 = true ∧ inVault 0x50123 = false ∧ (s.walk 0 0x40000123 none).map (·.pa) = some 0x50000 := by
  decide +kernel

/-- The loaded machine whose team waits for the page of 0x30000 with a copy. -/
def paged : State :=
  let s := small (fun t => { t with eng.copies := [{ copyOp 0 false aCopy with page := some 0x30000 }],
                                    iss.flights := [⟨0, .page 0x30000, false, false, [], [], false, 0x30000, 1, none⟩] }) []
  { s with prq := [⟨0, 0, 3, 0, false, true⟩] }

/-- A map of 4 KiB of the scratch region onto 0x30000. -/
def mapped (t : Team) : Team := { t with maps := [⟨0, 4096, 0x30000, [], []⟩] }

/-- The loaded machine with interface 0 invalidating what it owns. -/
def invalidating (busy : Bool) : State :=
  let s := small id []
  { s with vis := setAt s.vis 0 { s.vis.getD 0 State.resetVi with tlbi2 := if busy then 0x80020000 else 0 } }

theorem meets_Translations :
    (let s := small id [];
      pathOf 0x10000 = 0 ∧ s.tlb? 0 0 0x10000 = none ∧ (s.walk 0 0x10000 none).any (fun l => l.res && decide (0 < l.size)) = true ∧
      (s.walk 0 0x40000000 none).all (fun l => !l.res) = true) ∧
    Fact (small mapped []) (fun s t => t.mapOf 0 = some ⟨0, 4096, 0x30000, [], []⟩ ∧
      (⟨0, 4096, 0x30000, [], []⟩ : ScratchMap).unfilled 0 = (0 :: ((⟨0, 4096, 0x30000, [], []⟩ : ScratchMap).unfilled 0).drop 1) ∧
      s.global t.coreId t.const.asid 0x30000 needR = .ok (.home 0x30000)) ∧
    (small id []).boot.guestsOpen = true ∧ State.reset.boot.guestsOpen = false ∧ State.reset.vis[0]? = some State.resetVi ∧
    Fact paged (fun s t => (∀ x ∈ s.prq, x.sent = true) ∧ (s.prq.filter fun x => x.vi == 0 && x.seq == 0) = [⟨0, t.const.asid, 3, 0, false, true⟩] ∧
      s.walkPage t.const.asid (65536 * 3) needNone = .resident ∧ (∃ o ∈ t.eng.copies, o.page.any (fun va => va.toNat / 65536 == 3) = true)) ∧
    (((invalidating false).vis[0]?).map fun i => (i.tlbi2.getLsbD 31, decide (i.first ≤ 0 ∧ 0 < i.first + i.count))) = some (false, true) ∧
    (((invalidating true).vis[0]?).map fun i => (i.tlbi2.getLsbD 31, i.tlbi2.toNat / 2 ^ 16 % 4)) = some (true, 2) ∧
    (invalidating true).accessesDone (invalidating true).one = true ∧ (invalidating true).pod.reqs = [] :=
  by and_intros <;> decide +kernel

/-- The answers of a fill of the map's first line, stale or not, none for a fill that is not asked for. -/
def filling (asked : Option Bool) : State :=
  let s := small (fun t => mapped (ab scratch0 0 t)) []
  { s with pod := { s.pod with reqs := asked.toList.map fun stale =>
    ⟨0, 0, .queue 0, 1, 0, 0x30000, .read 128, 0, 0, some (.data (List.replicate 128 7)), false, stale, false⟩ } }

theorem meets_Translations_fill :
    let m : ScratchMap := ⟨0, 4096, 0x30000, [], []⟩
    Meets (.sLd 6 4 0 .weak .b32 0) (fun c => c.t.readS 4 = 0x1FF000000000000 ∧ c.s.pathsFull c.t [2] = false ∧
      c.s.xlate c.t 0x1FF000000000000 needR = .ok (.scratch 0 0 (vaultPa 0 0)) ∧ c.t.mapOf 0 = some m ∧ 0 ∉ m.filled ∧ m.unfilled 0 ≠ [] ∧
      (∀ x, c.t.pendingByte x = none) ∧ c.s.global c.t.coreId c.t.const.asid 0x30000 needR = .ok (.home 0x30000) ∧
      Unpoisoned c 0x30000 128 ∧ Unpoisoned c (vaultPa 0 0) 4) ∧
    ∀ asked ∈ [none, some true, some false], Fact (filling asked) fun s t => s.team? t.id = some t ∧ t.mapOf 0 = some m ∧ 0 ∉ m.filled ∧
      (s.fillReq t 0x30000).map (·.stale) = asked ∧ (s.fillReq t 0x30000).bind (·.ans) = asked.map (fun _ => .data (List.replicate 128 7)) ∧
      t.mapLineAt 0x30000 = some (m, 0) :=
  ⟨(meets (P := fun c => c.t.readS 4 = 0x1FF000000000000 ∧ c.s.pathsFull c.t [2] = false ∧
      c.s.xlate c.t 0x1FF000000000000 needR = .ok (.scratch 0 0 (vaultPa 0 0)) ∧ c.t.mapOf 0 = some ⟨0, 4096, 0x30000, [], []⟩ ∧
      (0 :: ((⟨0, 4096, 0x30000, [], []⟩ : ScratchMap).unfilled 0).drop 1 = (⟨0, 4096, 0x30000, [], []⟩ : ScratchMap).unfilled 0) ∧
      c.t.iss.flights = [] ∧ c.s.global c.t.coreId c.t.const.asid 0x30000 needR = .ok (.home 0x30000) ∧
      Unpoisoned c 0x30000 128 ∧ Unpoisoned c (vaultPa 0 0) 4) (filling none) (by decide +kernel)).imp
    fun _ ⟨a, b, d, e, f, g, h⟩ => ⟨a, b, d, e, by decide, by rw [← f]; exact List.cons_ne_nil _ _,
      fun x => by simp [Team.pendingByte, g], h⟩, by decide +kernel⟩

/-! Hypotheses of the obligations on launches. The queue control block of queue 0 is at 0, its ring at 0x500000, its status ring at 0x600000. -/

/-- A record of one role of one group with 128 registers, 256 bytes of scratch and one place of some flags, in the ring. -/
def aRecord (flags : Nat) : Nat :=
  1 + 2 ^ 80 + flags * 2 ^ 88 + 256 * 2 ^ 96 + (2 ^ 32 + 128 * 2 ^ 40) * 2 ^ 128 + 2 ^ 384 + 2 ^ 400 + 2 ^ 416 +
    0x30000 * 2 ^ 512 + 0x30000 * 2 ^ 576 + 0x30000 * 2 ^ 640
def queued (r : Nat) : List (Nat × Byte) := [(11, 0x80), (2, 0x50), (34, 0x60), (136, 1)] ++ numAt 0x500000 128 r

/-- The object that handle 1 names. -/
def anObject : Object := ⟨1, 0, 0, 0x10000, 0x10000, 4096, 0, 0, [], [], [], [], ⟨[], [], [], []⟩, 0, false, []⟩

/-- A launch of this record. -/
def aLaunch (flags : Nat) (began : Bool) (place : Nat) : Launch := ⟨5, 0, 0, 1, 0, bytesOf (aRecord flags) 256, 0, 0x10000, began, place, false⟩

/-- The loaded machine with a queued record, a handle, a launch, and the team's life. -/
def launching (r : Nat) (l : List Launch) (life : Life) (mem : List (Nat × Byte)) : State :=
  let s := small (fun t => { t with sched.life := life }) (queued r ++ mem)
  { s with vis := setAt s.vis 0 { s.vis.getD 0 State.resetVi with clm := 1 }, ldr := { s.ldr with objects := [anObject] },
           sched := { s.sched with launches := l } }

/-- A gate on the object at 0x30000 that is open. -/
abbrev gateOpen (s : State) (l : Launch) : Prop :=
  recFlag l.record 1 = true ∧ pathOf (leField l.record 64 8) = 0 ∧ leField l.record 64 8 = 0x30000 ∧
    s.global 0 l.asid 0x30000 needR = .ok (.home 0x30000) ∧ (barObj s.mem.byte 0x30000).phase = true ∧ recFlag l.record 3 = false

theorem meets_Launches :
    (let s := launching (aRecord 0) [] .resident [];
      s.mayTake 0 = true ∧ s.sched.reports = [] ∧ populated (s.qslot 0 0) = true ∧ populated (s.qslot 0 0 + 255) = true ∧
        s.rejection 0 (s.mem.bytes (s.qslot 0 0) 256) = none ∧ s.object? 0 1 = some anObject ∧ s.qrd 0 = 0 ∧
        (List.range 256).all (fun x => populated (s.qcb 0 + x)) = true ∧ (s.cfgRead 0).vi < s.vis.length) ∧
    (let s := launching 1 [] .resident [];
      s.mayTake 0 = true ∧ s.rejection 0 (s.mem.bytes (s.qslot 0 0) 256) = some 4 ∧ s.qstat 0 = 0x600000 ∧
        (List.range 32).all (fun x => populated (0x600000 + x)) = true ∧ s.cfgNow 0 = s.cfgRead 0) ∧
    (let s := launching 1 [] .resident []; s.boot.powered = true ∧ s.boot.reset = false ∧ lookupKey 0 s.sched.cfg ≠ some (s.home8 (s.qcb 0 + 8)) ∧ s.sched.reports = []) ∧
    (let l := aLaunch 2 false 0
     let s := launching 1 [l] .resident (barrier 1 0 true 0);
      s.launch? 5 = some l ∧ l.began = false ∧ s.shedClass (s.cfgRead l.q).pclass = false ∧ s.firstOfQueue l = true ∧ gateOpen s l ∧
        recFlag l.record 2 = false) ∧
    (let l := aLaunch 2 false 0
     let s := launching 1 [l] .resident (numAt 8 4 0x100000);
      let s : State := { s with pwr := { s.pwr with shed := [true, false, false] } };
      s.launch? 5 = some l ∧ (s.cfgRead l.q).pclass = 1 ∧ s.shedClass (s.cfgRead l.q).pclass = true) ∧
    (let l := aLaunch 10 false 0
     let s := launching 1 [l] .resident (barrier 1 0 true 0);
      s.launch? 5 = some l ∧ s.firstOfQueue l = true ∧ recFlag l.record 1 = true ∧ recFlag l.record 3 = (barObj s.mem.byte 0x30000).phase ∧
        s.global 0 l.asid 0x30000 needR = .ok (.home 0x30000) ∧ recFlag l.record 2 = false) ∧
    (let l := aLaunch 22 false 0
     let s := launching 1 [l] .resident (barrier 1 0 true 0);
      s.launch? 5 = some l ∧ s.firstOfQueue l = true ∧ gateOpen s l ∧ recFlag l.record 2 = true ∧
        leField l.record 72 8 = 0x30000 ∧ recFlag l.record 4 = (barObj s.mem.byte 0x30000).phase) ∧
    (let l := aLaunch 0 true 0
     let s := launching 1 [l] .resident []
     let areas : List Area := [⟨0x2000000, 1, 0x10000⟩];
      s.launch? 5 = some l ∧ s.clusterFor l = some 0 ∧ s.placeRegions 0 (recScr l.record) areas s.taken = some [vaultPa 0 0x10000] ∧
        areas.length = recNrole l.record ∧ s.grantee.map (·.id) = some 5 ∧ s.areasFree 0 areas s.parkingTaken (s.slotsTaken 0) = true) ∧
    (let l := aLaunch 0 true 1
     let s := launching 1 [l] .resident [];
      s.launch? 5 = some l ∧ s.gridOver l = true ∧ recFlag l.record 0 = false) ∧
    (let l := aLaunch 1 true 1
     let s := launching 1 [l] .resident (barrier 2 1 true 0);
      s.launch? 5 = some l ∧ s.gridOver l = true ∧ recFlag l.record 0 = true ∧ leField l.record 80 8 = 0x30000 ∧
        s.global 0 l.asid 0x30000 needRW = .ok (.home 0x30000) ∧ (barObj s.mem.byte 0x30000).arr ≠ (barObj s.mem.byte 0x30000).exp) :=
  by and_intros <;> decide +kernel

/-! Hypotheses of the obligations on the lives of teams. -/

theorem saveable {t : Team} (h : t.iss.windows = [] ∧ t.latched = none ∧ t.iss.dtrap.cause = 0 ∧ t.eng.q5 = [] ∧
    Sparse.wf t.closeAll.regs.s = true) : Saveable t := by
  obtain ⟨hw, hl, hd, hq, hs⟩ := h
  exact ⟨by simp [hw], hl, hd, by simp [hq], hs⟩

/-- What `saveable` asks for, and that the accesses and engines of the team are at rest. -/
abbrev Parks (s : State) (t : Team) : Prop :=
  t.iss.windows = [] ∧ t.latched = none ∧ t.iss.dtrap.cause = 0 ∧ t.eng.q5 = [] ∧ Sparse.wf t.closeAll.regs.s = true ∧ s.saveReady t 0 = true

/-- The loaded team stands somewhere in its life. -/
def living (l : Life) (t : Team) : Team := { t with sched.life := l }

/-- The admitted team of a queue of priority 3 waits for eight large teams of priority 0 that fill its cluster. -/
def crowded (pre : List (Nat × Nat)) : State :=
  let s := small (living .admitted) [(10, 3)]
  let big := fun (k : Nat) => { living .resident s.one with id := k + 1, const.h := 32, sched.core := k, sched.slot := k + 1 }
  { s with teams := s.teams ++ (List.range 8).map big, now := 1000000, clusters := setAt s.clusters 0 { State.resetCluster with preempt := pre } }

/-- The loaded team's class is shed, for a millisecond and a half. -/
def dark (f : Team → Team) : State :=
  let s := small f []
  { s with now := 10000000, pwr := { s.pwr with shed := [true, false, false] } }

/-- The loaded team has stopped, with a cause or without one; the status ring of its queue stands at 0x600000. -/
def discarded (clean : Bool) : State :=
  small (fun t => { living .stopped t with iss.dtrap := ⟨if clean then 0 else 7, 0, 0, false⟩ }) [(34, 0x60)]

theorem meets_TeamLives :
    Fact (small (living .admitted) []) (fun s t => t.sched.life = .admitted ∧ s.roomyCore t = some 0 ∧ s.mayReside t = true ∧ s.outranked t = false) ∧
    Fact (crowded [(2, 0)]) (fun s t => t.sched.life = .admitted ∧ s.restOver t = true ∧ s.mayReside t = true ∧ s.roomyCore t = none ∧ (s.cfgOf t).prio = 3 ∧
      (∃ u ∈ s.teams, u.sched.life = .resident ∧ u.sched.cluster = t.sched.cluster ∧ u.sched.prio < 3) ∧ ∀ x ∈ s.preempts 0, x.1 < 3) ∧
    (let s := crowded [(3, 0)]
     let t := { living .admitted s.one with id := 20, const.launch := 9 }
     let s : State := { s with teams := s.teams ++ [t], sched := { s.sched with launches := [⟨9, 1, 0, 1, 0, [], 0, 0, true, 0, false⟩] } };
      s.team? 20 = some t ∧ ∃ x ∈ s.preempts t.sched.cluster, (s.cfgOf t).prio < x.1) ∧
    (let s := crowded [(3, 0)];
      (3, 0) ∈ s.preempts 0 ∧ ∃ v ∈ s.teams, v.sched.life = .resident ∧ v.sched.cluster = 0 ∧ v.sched.prio < 3 ∧ v.sched.saveDue = none ∧
        0 + (s.vis.getD v.const.vi State.resetVi).drain.toNat * 1500 ≤ s.now) ∧
    Fact (small (living .stopped) []) Parks ∧
    Fact (small (waiting (.yield 0)) []) Parks ∧
    Fact (small (fun t => { t with iss.stalled := some .streamBusy }) []) (fun s t => Parks s t ∧ t.iss.withheld = none ∧ t.iss.stalled = some .streamBusy) ∧
    Fact (small (fun t => { t with sched.saveDue := some 0 }) []) (fun s t => Parks s t ∧ t.sched.life = .resident ∧ s.atRest t = true) ∧
    Fact (dark (waiting (.yield 0))) (fun s t => Parks s t ∧ t.iss.withheld.isSome = true ∧ 1 ≤ t.sched.pclass ∧
      s.pwr.shed.getD (t.sched.pclass - 1) false = true ∧ s.pwr.shedAt.getD (t.sched.pclass - 1) 0 + 1500 * 1500 ≤ s.now) ∧
    Fact (dark loadOut) (fun s t => s.saveReady t 0 = false ∧ t.sched.saveDue = none ∧ t.sched.life = .resident) ∧
    Fact (small (living .parked) []) (fun s t => t.sched.life = .parked ∧ s.mayReside t = true ∧ s.outranked t = false ∧ s.coreRoom t 5 = true) ∧
    Fact (small (living .ended) []) (fun _ t => t.sched.life = .ended ∧ t.iss.flights = [] ∧ t.eng.q5 = [] ∧ t.eng.q6 = [] ∧ t.eng.copies = []) ∧
    (let s := discarded false;
      Fact s fun s t => t.sched.life = .stopped ∧ t.iss.dtrap.cause ≠ 0 ∧ t.iss.flights = [] ∧ s.sched.reports = [] ∧ s.queueOf t = 0 ∧
        (s.qstwr 0 - s.qstrd 0).toNat ≠ 2 ^ (s.cfgNow 0).slogn ∧ s.qstat 0 = 0x600000 ∧ (s.qstwr 0).toNat = 0 ∧ s.qcb 0 + 256 ≤ 0x600000 ∧
        (List.range 256).all (fun x => populated (s.qcb 0 + x) && populated (0x600000 + x)) = true) ∧
    Fact (discarded true) (fun _ t => t.sched.life = .stopped ∧ t.iss.dtrap.cause = 0) ∧
    ∀ l ∈ [Life.parked, .resident], (let s := small (living l) []
     let s : State := { s with vis := setAt s.vis 0 { s.vis.getD 0 State.resetVi with clm := 2 } }
     let t := s.one;
      s.siblings 0 0 = [t] ∧ s.team? t.id = some t ∧ t.movable = true ∧ (s.vis[t.const.vi]?).any (fun i => i.clm.getLsbD 1) = true ∧ 1 ∉ s.slotsTaken 1 ∧
        (∀ c ∈ s.clusters, c.streams = []) ∧ s.placeRegions 1 t.const.scr [⟨0, 1, 0⟩] s.taken = some [vaultPa 1 0] ∧ s.Canonical ∧
        t.sched.life = l ∧ t.sched.saveDue = none) :=
  by and_intros <;> decide +kernel

/-! Hypotheses of the obligations on errors and the pod. -/

/-- The core of the loaded team has seen two errors just now. -/
def erring : State :=
  let s := small id []
  { s with clusters := setAt s.clusters 0 { State.resetCluster with cores := setAt State.resetCluster.cores 0 { State.resetCore with errors := [0, 0] } } }

/-- A running operation is at the head of Q5 and Q6, and a copy in Q0. -/
def working (t : Team) : Team :=
  { t with eng.q5 := [running (.mxZero 7)], eng.q6 := [running (.tblKinv 3)], eng.copies := [copyOp 0 false aCopy] }

/-- The ports with some lanes of port 0 in service. -/
def ported (n : Nat) (spare retrain : Bool) : Pod :=
  { State.resetPod with lanes := setAt State.resetPod.lanes 0 n, spares := setAt State.resetPod.spares 0 spare,
                        retrain := setAt State.resetPod.retrain 0 retrain }

theorem meets_DetectedErrors :
    Fact erring (fun s t => s.mayIssue t t.faultFrag = true ∧ t.sys.tcause.getLsbD 9 = false ∧ t.faultFrag < t.ctl.frags.length ∧ t.iss.faults = [] ∧
      (((s.clusters[0]?).bind fun c => c.cores[0]?).map fun k => (k.errors.filter fun x => decide (s.now ≤ x + 1500000)).length) = some 2) ∧
    Fact (small inTrap []) (fun s t => s.mayIssue t t.faultFrag = true ∧ t.sys.tcause.getLsbD 9 = true ∧
      (((s.clusters[0]?).bind fun c => c.cores[0]?).map fun k => (k.errors.filter fun x => decide (s.now ≤ x + 1500000)).length) = some 0) ∧
    Fact (small working []) (fun _ t => t.sched.life.holds = true ∧ t.eng.q5.head?.map (fun o => (o.started, o.paused, o.serial)) = some (true, false, 1) ∧
      t.eng.q6.head?.map (fun o => (o.started, o.paused, o.serial)) = some (true, false, 1) ∧
      (t.eng.copies.filter fun x => x.q == 0).head?.map (fun o => (o.written, o.serial)) = some (false, 1)) ∧
    Fact (small (fun t => { t with eng.q5 := [{ smallOp (.mxMma 0 0 4 5 true false false true) with kept := some [] }] }) [])
      (fun _ t => t.eng.q5.map (fun o => (o.started, o.paused, o.kept.isSome)) = [(true, false, true)]) ∧
    (populated 0x30000 = true ∧ inHost 0x30000 = false) ∧
    Fact (small id []) (fun s t => t.sched.life = .resident ∧ 3 < t.const.tables ∧ 3 < t.eng.k.length ∧ (∀ u ∈ s.teams, s.team? u.id = some u) ∧
      (∀ u ∈ s.teams, u.sched.cluster = 0 → u.sched.life = .resident)) ∧
    (State.reset.clusters[31]?).isSome = true ∧
    ((State.reset.clusters[0]?).map fun c => { c with halted := true }.halted) = some true ∧
    ((ported 4 false false).lanes[0]?, (ported 4 false false).spares[0]?) = (some 4, some false) ∧
    ((ported 4 true false).lanes[0]?, (ported 4 true false).spares[0]?) = (some 4, some true) ∧
    ((ported 2 true true).lanes[0]?, (ported 2 true true).spares[0]?, (ported 2 true true).retrain[0]?) = (some 2, some true, some true) :=
  by and_intros <;> decide +kernel

/-- A source window of all of the device's HBM4 for device 1, with every right, in a table at 0x700000. -/
def window : Nat := 7 * 2 ^ 53 + 2 ^ 63 + 0x7735900 * 2 ^ 80
def opened : State := let s := podded (small id (numAt 0x700040 16 window ++ barrier 2 0 false 0)); { s with pod := { s.pod with swtbase := 0x700000 } }

theorem meets_PodRequests_member :
    opened.Canonical ∧ opened.pod.podctl.getLsbD 31 = true ∧ (opened.pod.applied.getD 0 0).getLsbD 1 = true ∧ (opened.pod.applied.getD 0 0).getLsbD 2 = false := by
  decide +kernel

/-- A request that every right of a window of the whole of HBM4 covers. -/
theorem admitted (q : RemoteReq) (h : wordAt opened.mem.byte (opened.pod.swtbase + 64 * q.src.toNat + 16 * 0) 16 = window ∧
    ∀ b ∈ RemoteReq.span q, populated b = true ∧ inHost b = false ∧ b / 65536 ≤ 0x7735900) : Admitted opened q :=
  ⟨0, 1, 1, 1, 0, 0x7735900, by decide, ⟨by decide, by decide, by decide, by decide, by decide, h.1.trans (by decide +kernel)⟩,
    fun _ => rfl, fun _ => rfl, fun _ => rfl, fun b hb => ⟨(h.2 b hb).1, (h.2 b hb).2.1, Nat.zero_le _, (h.2 b hb).2.2⟩⟩

/-- A request of device 1 for the object at 0x30000. -/
def asked (k : RemoteKind) : RemoteReq := ⟨1, 3, 0x30000, k⟩

theorem meets_PodRequests_admitted :
    Admitted opened (asked (.read 16)) ∧ Admitted opened (asked (.write [(0, 7), (1, 8)])) ∧ Admitted opened (asked (.atomic .addf false 1 0)) ∧
    Admitted opened (asked (.barrier .arrive)) ∧ remoteBarrier .arrive (barObj opened.mem.byte 0x30000) = .ok ⟨2, 1, false, 0, 0⟩ ∧
    Admitted opened (asked (.barrier (.init 0))) ∧ remoteBarrier (.init 0) (barObj opened.mem.byte 0x30000) = .error 1 ∧
    ¬ Admitted opened ⟨1, 3, 0x7735940000, .read 16⟩ ∧
    (let s : State := { opened with ms := { opened.ms with poison := [0x30004] } }; ∃ a ∈ RemoteReq.span (asked (.read 16)), a / 4 * 4 ∈ s.ms.poison) := by
  and_intros
  iterate 4 first | refine admitted _ ?_; decide +kernel
  · decide +kernel
  · refine admitted _ ?_; decide +kernel
  · decide +kernel
  · refine fun h => ?_
    obtain ⟨_, _, _, _, _, _, _, _, _, _, _, h⟩ := h
    exact absurd (h 0x7735940000 (by decide +kernel)).1 (by decide +kernel)
  · exact ⟨0x30004, by decide +kernel, by decide +kernel⟩

/-- A request of the loaded team to device 1, which waits. -/
def outgoing (u : RemoteFor) (k : RemoteKind) : RemoteOut := ⟨3, 0, u, 1, 0, 0x40000000, k, 0, 0, none, false, false, false⟩

/-- The machine that waits for it, its clock at some time. -/
def sent (r : RemoteOut) (now : Nat) (out : List Nat := [3]) (ws : List Window := []) : State :=
  let s := podded (small (fun t => { t with iss.flights := [⟨1, .store, false, false, [], out, false, 0x40000000, 1, none⟩],
                                            iss.windows := ws,
                                            iss.withheld := if r.use = .poll then some (0, .barWait 0x40000000 false) else none }) farPage)
  { s with pod := { s.pod with reqs := [r], nextReq := 4 }, now := now }

/-- A load that waits for four bytes of the answer, as the last access under way or not. -/
def aPart : LoadPart := ⟨3, 0, List.replicate 4 none, 0x40000000, 1, .s 6 true, none⟩

/-- The hypotheses on a request that waits, before its time is up or after. -/
abbrev Sent (r : RemoteOut) (now : Nat) : Prop :=
  Waiting (sent r now) r ∧ (sent r now).pod.retrain.getD r.port false = false ∧ (sent r now).pod.podctl.getLsbD 31 = true ∧
    ((sent r now).pod.applied.getD 0 0).getLsbD 1 = true ∧ (sent r now).team? r.team = some (sent r now).one ∧
    (sent r now).one.id = r.team ∧ (sent r now).Canonical ∧ (∀ x ∈ (sent r now).pod.reqs, x.use = .gone → x.forming = false) ∧
    (sent r now).loadsWait r = false

theorem meets_PodRequests_waiting :
    (∀ r ∈ [outgoing .flight (.write [(0, 7)]), outgoing (.instruction 0) (.read 16), outgoing (.gate 0 0) (.read 16),
        outgoing (.instruction 0) (.barrier .read), outgoing (.queue 5) (.write [(0, 7)]), outgoing .poll (.read 16)],
      Sent r 1000 ∧ 1000 < r.at_ + 250 * 1500 ∧ Sent r 1000000 ∧ r.at_ + 250 * 1500 ≤ 1000000) ∧
    (sent (outgoing .poll (.read 16)) 1000).one.iss.withheld = some (0, .barWait 0x40000000 false) ∧ RemoteKind.vendor (.read 16) = false ∧
    RemoteKind.vendor (.barrier .read) = true ∧ ((sent (outgoing .flight (.write [(0, 7)])) 0).one.iss.flights.map fun f => (f.fault, f.remote)) = [(none, [3])] ∧
    ((sent (outgoing .flight (.write [(0, 7)])) 0 [3, 4]).one.iss.flights.map fun f => (f.fault, f.remote)) = [(none, [3, 4])] ∧
    (let s := sent (outgoing .load (.read 4)) 1000 [3] [⟨0, 9, [], [aPart], 0⟩]
     let s : State := { s with pod := { s.pod with reqs := [outgoing .load (.read 4)] } };
      Waiting s (outgoing .load (.read 4)) ∧ s.pod.retrain.getD 0 false = false ∧ s.pod.podctl.getLsbD 31 = true ∧
        (s.pod.applied.getD 0 0).getLsbD 1 = true ∧ s.one.iss.windows = [⟨0, 9, [], [aPart], 0⟩] ∧ s.Canonical ∧ aPart.req = 3 ∧
        (∀ v ∈ s.teams, v.id ≠ 0 → v.partsOf 3 = []) ∧ ∀ b ∈ aPart.known, b = none) ∧
    (∀ r ∈ opened.pod.reqs, r.forming = false) ∧
    (let s : State := { opened with pod := { opened.pod with member := List.replicate 16 0 } };
      s.Canonical ∧ (s.pod.member.getD 0 0).getLsbD 1 = false ∧ (s.pod.applied.getD 0 0).getLsbD 1 = true) ∧
    (let s : State := { sent (outgoing .flight (.read 4)) 0 with pod.podctl := 0 }; Waiting s (outgoing .flight (.read 4)) ∧ s.pod.podctl.getLsbD 31 = false) ∧
    { State.reset with boot.powered := false }.boot.powered = false ∧ State.reset.boot.powered = true ∧ State.reset.boot.reset = false ∧
    ∀ r ∈ opened.pod.reqs, r.id = 3 → r.ans.isSome = true ∨ r.dead = true :=
  by and_intros <;> decide +kernel

/-! Hypotheses of the obligations on the host and the loader. -/

/-- The boot state changed, on a machine that lives. -/
def booted (f : Boot → Boot) : State := let s := small id []; { s with boot := f s.boot }

/-- The mailbox runs a command with some operand bytes. -/
def commanded (code : Nat) (arg : Sparse 8) : State :=
  booted fun b => { b with mbcmd := BitVec.ofNat 64 (2 ^ 63 + code), mbarg := arg, meas := List.replicate 8 (List.replicate 64 0), id := true }

/-- The number at an offset of the operands of the command that runs. -/
def operand (s : State) (off len : Nat) : Nat := ofBytes ((List.range len).map fun i => s.boot.mbarg.get (off + i))

abbrev Commands (code : Nat) (arg : Sparse 8) : Prop := (commanded code arg).Canonical ∧ (commanded code arg).boot.mbcmd = BitVec.ofNat 64 (2 ^ 63 + code)

theorem meets_HostSide :
    (State.reset.boot.stage = 0 ∧ State.reset.Canonical ∧ State.reset.boot.powered = true ∧ State.reset.boot.reset = false) ∧
    (let s := small id []; s.Canonical ∧ s.boot.stage = 5 ∧ s.ms.poison = [] ∧ s.sched.reports = [] ∧ 0x7735940000 - 8 + 8 ≤ 0x7735940000) ∧
    (let s : State := { small id [] with ms.poison := [0x30000] }; s.Canonical ∧ s.boot.stage = 5 ∧ 0x30000 ∈ s.ms.poison) ∧
    (let s := booted fun b => { b with stage := 6 }; s.Canonical ∧ s.boot.powered = true ∧ s.boot.reset = false ∧ s.boot.stage = 6) ∧
    (let b := (small id []).boot; inVault 0x30000 = false ∧ inVault 0x10000000040 = true ∧
      (0x10000000000 + 64 ≤ b.vallot ∨ b.vallot + 6144 ≤ 0x10000000000)) ∧
    inHost (64 * 0x200000000000) = true ∧ (small id []).ms.hostDirty = [] ∧ (small id []).sched.allotHeld = [] ∧ (small id []).pod.reqs = [] ∧
    (0x80000000#64).getLsbD 31 = true ∧ (0#64).getLsbD 31 = false ∧ (State.reset.vis[0]?).isSome = true ∧
    (let s := booted fun b => { b with reset := true }; s.Canonical ∧ s.boot.reset = true) ∧
    (let s := booted fun b => { b with powered := false }; s.Canonical ∧ s.boot.powered = false) ∧
    (let s := small id []; ((s.vis[0]?).map fun i => (i.en, i.first, i.count)) = some (true, 0, 1) ∧ (List.range 64).all (fun k => k == 0 || (s.vis[k]?).all fun x => !x.en) = true) ∧
    (let s := small id [];
      (List.range 4).all (fun k => decide (s.pwr.aw0.toNat / 2 ^ (16 * k) % 2 ^ 16 ≤ 4096 ∧ s.pwr.aw1.toNat / 2 ^ (16 * k) % 2 ^ 16 ≤ 4096)) = true ∧
      (List.range 8).all (fun k => decide (0x88888642 / 2 ^ (4 * k) % 16 ≤ 8)) = true ∧ (List.range 8).any (fun k => decide (8 < 0x90000000 / 2 ^ (4 * k) % 16)) = true ∧
      s.boot.mbcmd.getLsbD 63 = false ∧ s.boot.stage = 5 ∧ (0x8000000000000011#64).getLsbD 63 = true ∧ (0x8000000000000011#64).toNat % 2 ^ 16 = 0x11 ∧
      s.boot.id = false ∧ (commanded 0 []).boot.id = true ∧ (commanded 0 []).boot.mbcmd.getLsbD 63 = true ∧ (booted fun b => { b with mbcmd := 1#64 <<< 63 }).boot.mbcmd.getLsbD 63 = true) ∧
    (State.reset.boot.mbcmd.getLsbD 63 = false ∧ State.reset.boot.stage.toNat < 5 ∧ 0xFFFFF8 + 8 ≤ 0x1000000 ∧ 0xFFFFF8 % 8 = 0) ∧
    (Commands 0x10 [(0, 7)] ∧ operand (commanded 0x10 [(0, 7)]) 0 1 = 7 ∧ (commanded 0x10 [(0, 7)]).boot.meas.length = 8) ∧
    (Commands 0x10 [(0, 3)] ∧ operand (commanded 0x10 [(0, 3)]) 0 1 = 3) ∧
    (Commands 0x11 [(34, 3)] ∧ operand (commanded 0x11 [(34, 3)]) 32 8 = 0x30000 ∧ ∀ m ∈ (commanded 0x11 [(34, 3)]).boot.meas, m.length = 64) ∧
    (Commands 0x12 [(32, 1)] ∧ operand (commanded 0x12 [(32, 1)]) 32 8 % 64 ≠ 0) ∧
    Commands 0x20 [] ∧
    (Commands 0x01 [(0, 0xDF), (1, 0x74)] ∧ operand (commanded 0x01 [(0, 0xDF), (1, 0x74)]) 0 8 = 29919) ∧
    (Commands 0x01 [(0, 0xE0), (1, 0x74)] ∧ operand (commanded 0x01 [(0, 0xE0), (1, 0x74)]) 0 8 = 29920) :=
  by and_intros <;> decide +kernel

/-- An image of flags, preferred base, source handle and sections: kind, alignment and contents (R281, R282). -/
def image (major flags base src : Nat) (xs : List (Nat × Nat × List Byte)) : List Byte :=
  let start := 64 + 32 * xs.length
  let total := start + (xs.map (·.2.2.length)).sum
  let head := bytesOf (0x584E4F + major * 2 ^ 32 + flags * 2 ^ 48 + base * 2 ^ 64 + xs.length * 2 ^ 224 + 64 * 2 ^ 256 + total * 2 ^ 320 + src * 2 ^ 384) 64
  let table := (List.range xs.length).flatMap fun i =>
    let x := xs.getD i (0, 0, [])
    bytesOf (x.1 + x.2.1 * 2 ^ 32 + (start + ((xs.take i).map (·.2.2.length)).sum) * 2 ^ 64 + x.2.2.length * 2 ^ 128 + (if x.1 = 5 then 2 ^ 208 else 0)) 32
  head ++ table ++ xs.flatMap (·.2.2)

/-- Page tables as a loader leaves them: from 0x400000 on the pages may be read and executed, from 0x800000 on read. -/
def loaderPages : List (Nat × Byte) :=
  numAt 0x202000 8 0x203001 ++ (List.range 5).flatMap fun k => numAt (0x203000 + 8 * k) 8 (0x200000 * k + if k < 2 then 0x3F else if k < 4 then 0x37 else 0x27)

/-- A machine with those pages, and with objects. -/
def holding (os : List Object) (mem : List (Nat × Byte)) : State := let s := small id (loaderPages ++ mem); { s with ldr := { s.ldr with objects := os } }

/-- A request to load an image at a base. -/
def loadOf (img : List Byte) (base : Nat) : LoadReq := ⟨0, img, some base, [], 0x600000, 0x800000⟩
def plainImage : List Byte := image 1 0 0x400000 0 [(1, 2, List.replicate 4 0)]

/-- An image with a relocation of its word, which is no call, against a symbol x of a binding. -/
def relocating (bind kind : Nat) : List Byte :=
  image 1 0 0x400000 0 [(1, 2, List.replicate 4 0), (6, 3, bytesOf (6 * 2 ^ 64 + 2 ^ 72) 32),
    (7, 3, bytesOf (1 + bind * 2 ^ 96 + kind * 2 ^ 104 + 0x78 * 2 ^ 192) 26)]

/-- What the checks of a load come to: form, version, place, names, cells, relocation, room, pages. -/
def loadSteps (s : State) (req : LoadReq) : (Bool × Bool × Bool) × (Option Nat × Option Nat × Option (Nat × Nat) × Bool × Bool) :=
  let img := req.image
  let ss := imgSections img
  let base := req.base.getD (leField img 8 8)
  let l : Layout3 := ⟨base + ((sect? ss 1).map (·.imoff)).getD 0, base, ss, parseSyms (contents img ss 7)⟩
  let relocs := parseRelocs (contents img ss 6)
  let donor := s.donor req.asid 0 img l relocs
  let filled := s.applyRelocs req.asid l l.syms relocs req.stub (fun r => !(donor.isSome && sharedKind r.sect)) relocs 0
    ((ss.filter fun x => loadedKind x.kind).map fun x => (x.kind, contents img ss x.kind))
  ((imageOk img [] && decide (leField img 6 2 / 2 % 2 = 0), decide (leField img 4 1 = 1 ∧ (leField img 5 1 ≤ 3 ∨ leField img 6 2 % 2 = 1)),
    decide (base % 65536 = 0) && s.rangeFree req.asid base (extent ss)),
    s.unresolved req.asid l l.syms relocs, noCell l relocs, (match filled with | .ok _ => none | .error e => some e), (s.writeTables req.tables).roomFor req l relocs,
    (s.writeTables req.tables).pagesFor req l relocs donor.isSome && donor.all fun d => (s.writeTables req.tables).samePlaces req.asid d.asid l)

/-- An object whose word of text lies at an address, with a relocation. -/
def atPlace (handle text : Nat) (relocs : List Reloc) (moved : List OldText) : Object :=
  { anObject with handle := BitVec.ofNat 64 handle, base := text, text := text, textLen := 4, major := 1, sects := [⟨1, 2, 96, 4, 0⟩],
                  code := ⟨List.replicate 4 0, relocs, [⟨[0x78], 0, 1, 0⟩], []⟩, relocs := relocs, moved := moved }

/-- The same image loaded in another context, whose pages are those of context 0. -/
def aDonor : Object :=
  { atPlace 1 0x400000 [] [] with asid := 1, image := plainImage, sects := imgSections plainImage, syms := [], stub := 0x610000 }
def donorMem : List (Nat × Byte) := numAt 0x100010 8 0x200001

theorem meets_LoaderSteps_load :
    (let s := holding [] [];
      s.boot.guestsOpen = true ∧ (s.writeTables []).context 0 = some (0, 0x200000) ∧ s.unloadWaits 0 s.ldr.next = false ∧ s.keepsPages (s.writeTables []) = true ∧
      (loadSteps s (loadOf (plainImage.drop 1) 0x400000)).1.1 = false ∧
      (loadSteps s (loadOf (image 2 0 0 0 [(1, 2, List.replicate 4 0)]) 0x400000)).1 = (true, false, true) ∧
      (loadSteps s (loadOf plainImage 1)).1 = (true, true, false) ∧
      (loadSteps s (loadOf (relocating 2 0) 0x400000)).2.1 = some 0 ∧
      (loadSteps s (loadOf (image 1 0 0 0 [(1, 2, List.replicate 4 0), (5, 3, List.replicate 8 0)]) 0x400000)) =
        ((true, true, true), (none, some 0, none, true, false)) ∧
      loadSteps s (loadOf (relocating 0 1) 0x400000) = ((true, true, true), (none, none, some (6, 0), true, true)) ∧
      loadSteps s (loadOf plainImage 0x10000000000) = ((true, true, true), (none, none, none, false, false)) ∧
      loadSteps s (loadOf plainImage 0x400000) = ((true, true, true), (none, none, none, true, true))) ∧
    (holding [{ atPlace 3 0x400000 [] [] with unloading := true }] []).unloadWaits 0 1 = true ∧
    (let s := holding [aDonor] donorMem;
      loadSteps s (loadOf plainImage 0x400000) = ((true, true, true), (none, none, none, true, true)) ∧
      s.donor 0 0 plainImage ⟨0x400000, 0x400000, imgSections plainImage, []⟩ [] = some aDonor) :=
  by and_intros <;> decide +kernel

/-- What may be asked for at once: no unload waits, and the loader reaches its words and the spilled link entries. -/
def reached (s : State) (o : Object) : Bool :=
  s.boot.guestsOpen && !s.unloadWaits o.asid o.handle && s.spillsReached (s.sharers o) && ((s.sharers o).all fun p => s.wordsThere p.asid) && (s.usersOf (s.sharers o)).all fun t => s.spillsThere (s.codeView t)

/-- What moves the object with handle 1 to another base meets. -/
def moveSteps (s : State) (o : Object) (base : Nat) : Bool × Option (Nat × Nat) × Bool :=
  let new := base + ((sect? o.sects 1).map (·.imoff)).getD 0
  (decide (new % 4 = 0) && reached s o && s.moveRoom s (s.sharers o) new o.textLen,
    (match s.applyRelocs o.asid { o.layout with text := new } o.code.syms o.code.relocs o.stub (fun _ => true) o.code.relocs 0 [(1, o.code.bytes)] with
      | .ok _ => none | .error e => some e),
    (s.inTheWay (s.sharers o) o.text o.textLen).isEmpty)

/-- A translation of object 1, and a relocation that fails. -/
def translation (src : Nat) : List Byte := image 1 2 0x600000 src [(1, 2, List.replicate 4 0)]
def badReloc : Reloc := ⟨0, 6, 1, 0, 0, 0⟩

/-- The checks of a swap of the object with handle 1 for a translation. -/
def swapSteps (o : Object) (img : List Byte) (base : Nat) : (Bool × Bool × Bool) × (Option Nat × Bool × Option (Nat × Nat) × Bool × Bool) :=
  let s := holding [o] []
  let ss := imgSections img
  let text := contents img ss 1
  let syms := parseSyms (contents img ss 7)
  let relocs := parseRelocs (contents img ss 6)
  let l : Layout3 := { o.layout with text := base }
  ((imageOk img o.sects && decide (leField img 6 2 / 2 % 2 = 1 ∧ BitVec.ofNat 64 (leField img 48 8) = o.handle) && ss.all fun x => [1, 6, 7, 8, 9].contains x.kind,
    decide (leField img 4 1 = o.major ∧ leField img 5 1 ≤ 3),
    decide (base % 65536 = 0) && (s.sharers o).all fun p => s.rangeFree p.asid base text.length),
    s.unresolved o.asid l syms relocs, (s.needed o).all fun a => (lookupKey a (parseFwd (contents img ss 9))).isSome,
    (match s.applyRelocs o.asid l syms relocs o.stub (fun _ => true) relocs 0 [(1, text)] with | .ok _ => none | .error e => some e),
    s.moveRoom s (s.sharers o) base text.length, (s.inTheWay (s.sharers o) o.text o.textLen).isEmpty)

/-- A translation with symbol x and a relocation of its word. -/
def translating (bind kind : Nat) : List Byte :=
  image 1 2 0x600000 1 [(1, 2, List.replicate 4 0), (6, 3, bytesOf (6 * 2 ^ 64 + 2 ^ 72) 32),
    (7, 3, bytesOf (1 + bind * 2 ^ 96 + kind * 2 ^ 104 + 0x78 * 2 ^ 192) 26)]

/-- An object that exports its first word, which is a call, so that a translation lists what follows it. -/
def calling : Object := { atPlace 1 0x400000 [] [] with code := ⟨toBytes 4 (wordOf (.call 0)), [], [], []⟩ }

theorem meets_LoaderSteps :
    (let o := atPlace 1 0x400000 [] []
     let s := holding [o, atPlace 2 0x500000 [⟨0, 1, 1, 0, 0, 0⟩] []] (numAt 0x500000 8 0x400000);
      s.ldr.objects.find? (fun p => p.asid == o.asid && p.handle == o.handle) = some o ∧ s.heldByOthers o = true ∧ reached s o = true) ∧
    (let o := atPlace 1 0x10000 [] []; (holding [o] []).heldByOthers o = false ∧ (holding [o] []).referred o = true ∧ reached (holding [o] []) o = true) ∧
    (let o := atPlace 1 0x400000 [] []; (holding [o] []).heldByOthers o = false ∧ (holding [o] []).referred o = false ∧ reached (holding [o] []) o = true) ∧
    (let o := atPlace 1 0x400000 [badReloc] []; moveSteps (holding [o] []) o 0x500000 = (true, some (6, 0), true)) ∧
    (let o := atPlace 1 0x10000 [] []
     let s := holding [o] [];
      moveSteps s o 0x500000 = (true, none, false) ∧ s.one ∈ s.teams ∧ s.one.sched.life = .resident ∧ s.one.sched.saveDue = none ∧
        (s.sharers o).any (·.asid == s.one.const.asid) = true ∧ s.pointsInto s.one o.text o.textLen = true ∧ ∀ v ∈ s.teams, s.team? v.id = some v) ∧
    (let o := atPlace 1 0x400000 [] []; moveSteps (holding [o] []) o 0x500000 = (true, none, true)) ∧
    (let o := atPlace 1 0x400000 [] [];
      ((holding [o] []).ldr.objects.find? (fun p => p.handle == o.handle && p.asid == 0)) = some o ∧ reached (holding [o] []) o = true ∧
      (swapSteps o (translation 2) 0x600000).1 = (false, true, true) ∧
      (swapSteps { o with major := 2 } (translation 1) 0x600000).1 = (true, false, true) ∧
      (swapSteps o (translation 1) 0x600004).1 = (true, true, false) ∧
      (swapSteps o (translating 2 0) 0x600000).2.1 = some 0 ∧
      (holding [calling] []).needed calling = [4] ∧ swapSteps calling (translation 1) 0x600000 = ((true, true, true), (none, false, none, true, true)) ∧
      swapSteps o (translating 0 1) 0x600000 = ((true, true, true), (none, true, some (6, 0), true, true)) ∧
      swapSteps o (translation 1) 0x800000 = ((true, true, true), (none, true, none, false, true)) ∧
      swapSteps o (translation 1) 0x600000 = ((true, true, true), (none, true, none, true, true))) ∧
    (let o := { atPlace 1 0x400000 [] [] with unloading := true }; (holding [o, atPlace 2 0x500000 [] []] []).unloadWaits 0 2 = true) ∧
    (let m : OldText := ⟨0x500000, 4, 0x400000, none, [], true⟩
     let o := atPlace 1 0x400000 [] [m]; o.moved.find? (holding [o] []).waitedFor = some m ∧ m.swept = true) ∧
    (let m : OldText := ⟨0x500000, 4, 0x400000, none, [7], false⟩
     let o := atPlace 1 0x400000 [] [m]; o.moved.find? (holding [o] []).waitedFor = some m ∧ m.swept = false ∧ (holding [o] []).wordsThere o.asid = true ∧ (holding [o] []).boot.guestsOpen = true) :=
  by and_intros <;> decide +kernel

/-! Ill-formed instructions: one for each check. They have no word, and the decoder refuses the words they would have. -/

theorem test_illFormed :
    [(Instr.sAdd 64 0 0, IllFormed.scalar), (.predNot 16 0, .predicate), (.mxKmma 0 0 4 0 false false false, .table), (.sAtomCas 63 4 .rlx, .scalarPair),
      (.sShli 4 4 64, .shiftImmediate), (.sLdu 4 4 0 .weak .b64 0, .badSize), (.sAtomLd 4 4 .rel, .badOrder)].all
      (fun x => Instr.illFormed x.1 == some x.2) = true := by decide

theorem test_wellFormed :
    [Instr.sAdd 63 63 63, .predNot 15 15, .mxKmma 0 0 3 0 false false false, .sAtomCas 62 4 .rlx, .sShli 4 4 63, .sLdu 4 4 0 .weak .b32 0,
      .sAtomLd 4 4 .acq, .sAtomSt 4 4 .rel].all (fun x => (Instr.illFormed x).isNone) = true := by decide

theorem test_decode_refused :
    [(0xFC000000, DecodeError.permanentlyReserved), (0xBC000000, .unlisted), (0x0000001F, .unlisted), (0x04483096, .unusedField),
      (0b011100_0001000_0000010_01_01111_01000, .reservedConversion), (0b011101_0000001_0000100_0000000_00101, .reservedSelector),
      (0b011101_0000001_0000001_0000111_00110, .reservedReduction), (0b010100_0001_100_0000000000000000001, .reservedTest),
      (0b100111_000_001010_001101_111_0000_0_000, .reservedLayout), (0b000001_1000000_0000000_0000000_00000, .illFormed .scalar)].filter
      (fun x => !(decode (BitVec.ofNat 32 x.1) == .error x.2)) = [] := by decide

/-! Scalar instructions. -/

/-- S9 after an instruction with S4 and S5. -/
def scalar (i : Instr) (a b : DWord) : Option DWord := gives i (small (ab a b) []) (·.readS 9)

/-- R117's examples; a division by zero; the most negative number by −1. -/
theorem test_division :
    [scalar (.sDiv 9 4 5) (-7) 2, scalar (.sRem 9 4 5) (-7) 2, scalar (.sDivu 9 4 5) 7 0, scalar (.sRemu 9 4 5) 7 0,
      scalar (.sDiv 9 4 5) 0x8000000000000000 (-1), scalar (.sRem 9 4 5) 0x8000000000000000 (-1)] =
    [some (-3), some (-1), some (-1), some 7, some 0x8000000000000000, some 0] := by decide +kernel

/-- R116: products and comparisons at the edges. -/
theorem test_products :
    [scalar (.sMulhu 9 4 5) 0x8000000000000000 0x8000000000000000, scalar (.sMulh 9 4 5) 0x8000000000000000 0x8000000000000000,
      scalar (.sMulh 9 4 5) (-1) 1, scalar (.sSlt 9 4 5) (-1) 0, scalar (.sSltu 9 4 5) (-1) 0, scalar (.sSar 9 4 5) (-8) 1,
      scalar (.sShl 9 4 5) 1 64, scalar (.sMaxu 9 4 5) (-1) 1, scalar (.sMax 9 4 5) (-1) 1, scalar (.sClz 9 4) 1 0] =
    [some 0x4000000000000000, some 0x4000000000000000, some (-1), some 1, some 0, some (-4), some 1, some (-1), some 1, some 63] := by decide +kernel

/-- R118, R119: immediates are sign-extended; S0 stays zero (R27). -/
theorem test_immediates :
    [scalar (.sAddi 9 4 (-64)) 64 0, scalar (.sAndi 9 4 0xFDF) (-1) 0, scalar (.sShri 9 4 63) (-1) 0, scalar (.sLui 9 0x80000) 0 0,
      scalar (.sAupc 9 3) 0 0, gives (.sAddi 0 4 1) (small (ab 6 0) []) (·.readS 0)] =
    [some 0, some 0xFFFFFFFFFFFFFFDF, some 1, some 0xFFFFFFFF80000000, some 0x13000, some 0] := by decide +kernel

/-! Control. -/

def pcOf (t : Team) : DWord := (t.frag 0).pc

/-- R127, R128, R135: branches, calls and returns. -/
theorem test_branches :
    [gives (.brz 4 (-4)) (small (ab 0 0) []) pcOf, gives (.brz 4 (-4)) (small (ab 1 0) []) pcOf, gives (.call 0x100) (small id []) pcOf,
      gives .ret (small (linked 1 0x12344) []) pcOf, gives (.callr 4) (small (ab 0x20000 0) []) pcOf] =
    [some 0xFFF0, some 0x10004, some 0x10400, some 0x12344, some 0x20000] ∧
    gives (.call 0x100) (small id []) (·.ctl.link) = some [0x10004] := by decide +kernel

/-- R34: a RET with no call behind it takes the predicate-stack-underflow trap 0x03 with TINFO[0] = 1. -/
theorem test_underflow : gives .ret (small id []) (fun t => (t.sys.tcause, pcOf t, t.sys.tinfo)) = some (0x203, 0x200C0, 1) := by decide +kernel

/-- The loop of R133 goes round while passes remain, and then leaves. -/
theorem test_loop :
    gives .nop (small (looping 3) []) (fun t => (pcOf t, t.ctl.loop.map (·.remaining))) = some (0xFF00, [2]) ∧
    gives .nop (small (looping 1) []) (fun t => (pcOf t, t.ctl.loop.map (·.remaining))) = some (0x10004, []) ∧
    gives (.loop 4 8) (small (ab 0 0) []) pcOf = some 0x10024 := by decide +kernel

/-- R131: lanes 0 to 7 take the branch of the example; the others go on. -/
theorem test_split :
    gives (.brd 2 3) (small (fun t => { (t.writeP 2 0xFF) with ctl.pend := some 0x10010 }) [])
      (fun t => ((t.frag 0).mask, (t.frag 0).pc, (t.frag 1).mask, (t.frag 1).pc, t.ctl.pend)) =
    some (0xFF, 0x1000C, 0xFFFFFF00, 0x10004, none) := by decide +kernel

/-! Traps and system registers. -/

/-- R138: TRAP 17 goes to entry 0x0E of the vector with its number in TINFO; ERET comes back (R264). -/
theorem test_trap :
    gives (.trap 17) (small id []) (fun t => (pcOf t, t.sys.tpc, t.sys.tcause, t.sys.tinfo)) = some (0x20380, 0x10004, 0x20E, 17) ∧
    gives .eret (small (fun t => { t with sys.tcause := 0x20E, sys.tpc := 0x18000 }) []) (fun t => (pcOf t, t.sys.tcause)) =
      some (0x18000, 0x00E) := by decide +kernel

/-- R98, R99: a reserved word traps, and under probe mode is a NOP that sets probe-hit. -/
theorem test_reserved :
    ((match step ((small id []).withFetchWord 32 0xBC000000) with | .next n => some n | _ => none).bind fun n => (n.team? 0).map fun t =>
      (pcOf t, t.sys.tcause, t.sys.tpc)) = some (0x20040, 0x201, 0x10000) ∧
    ((match step ((small (moded 0x200000) []).withFetchWord 32 0xBC000000) with | .next n => some n | _ => none).bind fun n => (n.team? 0).map fun t =>
      (pcOf t, t.sys.tcause)) = some (0x10004, 0) := by decide +kernel

/-- R40, R139: SYSR reads the argument pointer, ROLE (N = 128, H = 1) and ISAVER. -/
theorem test_sysr :
    [gives (.sysr 9 12) (small id []) (·.readS 9), gives (.sysr 9 10) (small id []) (·.readS 9), gives (.sysr 9 17) (small id []) (·.readS 9)] =
      [some 0x30000, some 0x80010, some 0x00020103] ∧
    gives (.sysw 4 18) (small (ab 77 0) []) (fun t => t.sys.gp.get 18) = some 77 := by decide +kernel

/-! Lane instructions. -/

/-- R153's example: INT8 elements wrap, or saturate. -/
theorem test_packed :
    let t := fun (m : Word) => small (fun t => (moded m t).writeV 1 [(0, 0x7F0180FF)] |>.writeV 2 [(0, 0x0101FF01)]) [];
    gives (.vAdd 3 1 2) (t 0x40) (·.readV 3 0) = some 0x80027F00 ∧ gives (.vAdd 3 1 2) (t 0x1040) (·.readV 3 0) = some 0x7F028000 := by decide +kernel

/-- The examples of R164 to R166. -/
theorem test_conversions :
    gives (.vPack 8 2 .rne (.type .bf16)) (small (fun t => (moded 0x60 t).writeV 2 [(0, 0x3F80C000)] |>.writeV 3 [(0, 0xBF80C000)]) [])
      (fun t => (t.readV 8 0, t.sys.tflags)) = some (0xBF813F81, 0x10) ∧
    gives (.vUnpk 4 8 .hi) (small (fun t => (moded 0x70 t).writeV 8 [(0, 0xBF813F81)]) []) (fun t => (t.readV 4 0, t.sys.tflags)) = some (0xBF810000, 0) ∧
    gives (.vCvt 10 1 .mode (.type .fp32)) (small (fun t => (moded 0x40 t).writeV 1 [(0, 0x80FF017F)]) [])
      (fun t => ([10, 11, 12, 13].map fun r => t.readV r 0, t.sys.tflags)) = some ([0x42FE0000, 0x3F800000, 0xBF800000, 0xC3000000], 0) := by decide +kernel

/-- The table of R62, and the stochastic rounding of R64's example. -/
theorem test_rounding :
    let f := fun (r : RoundMode) (x : Nat) => (convert .fp32 .bf16 ⟨r, 0, false, false⟩ x).1;
    [0x3F80C000, 0xBF80C000, 0x3F808000, 0x3F818000].map (fun x => [f .rne x, f .rtz x, f .rdn x, f .rup x]) =
      [[0x3F81, 0x3F80, 0x3F80, 0x3F81], [0xBF81, 0xBF80, 0xBF81, 0xBF80], [0x3F80, 0x3F80, 0x3F80, 0x3F81], [0x3F82, 0x3F81, 0x3F81, 0x3F82]] ∧
    gives (.vPack 8 2 .sr (.type .bf16)) (small (fun t => (moded 0x60 t).writeV 2 [(0, 0x3F80C000)]) []) (fun t => (t.readV 8 0).toNat % 65536) = some 0x3F81 := by
  decide +kernel

/-- R168's example: lane 5 is inactive; a distance of 33 leaves the group. -/
theorem test_permute :
    let s := fun (k : DWord) => small (fun t => (t.writeS 4 k).writeV 2 ((List.range 32).map fun x => (x, BitVec.ofNat 32 x)) |>.onFrag fun f =>
      { f with mask := f.mask &&& ~~~(32 : LaneMask) }) [];
    gives (.vPermXor 3 2 4) (s 1) (fun t => [0, 4, 5, 31].map fun l => (t.readV 3 l).toNat) = some [1, 5, 0, 30] ∧
    gives (.vPermXor 3 2 4) (s 33) (fun t => [0, 4, 31].map fun l => (t.readV 3 l).toNat) = some [0, 0, 0] := by decide +kernel

/-- R73's example: the tree sum and the scan of 2^24, 1, 1, 1. -/
theorem test_reduction :
    let s := small (fun t => (moded 0x60 t).writeV 5 [(0, 0x4B800000), (1, 0x3F800000), (2, 0x3F800000), (3, 0x3F800000)] |>.onFrag fun f => { f with mask := 15 }) [];
    gives (.vRed 9 5 .add) s (fun t => (t.readS 9, t.sys.tflags)) = some (0x4B800001, 0x10) ∧
    gives (.vScan 9 5 .add) s (fun t => [0, 1, 2, 3].map (t.readV 9)) = some [0x4B800000, 0x4B800000, 0x4B800000, 0x4B800001] := by decide +kernel

/-- R157, R158: the immediate of V.MOVI is sign-extended. -/
theorem test_movi : gives (.vMovi 1 0x7FFFF) (small id []) (fun t => (t.readV 1 0, t.readV 1 31, t.readV 1 32)) = some (0xFFFFFFFF, 0xFFFFFFFF, 0) := by
  decide +kernel

/-- R181's example with one group: column 0 takes the group's row. -/
theorem test_loupe :
    gives (.lRdt 5) (small (fun t => { t with regs.loupe := (List.range 32).map fun x => (x, BitVec.ofNat 32 (100 + x)) }) [])
      (fun t => [0, 1, 2].map fun l => (t.readV 5 l).toNat) = some [100, 0, 0] := by decide +kernel

/-! Planes: chapter 10's run. -/

/-- V8 and V9 as the load of the program leaves them, and as its first shift leaves them. -/
def loadedPlane (t : Team) : Team :=
  (planes t).writeV 8 [(0, 0x00130011), (1, 0x00140012), (2, 0x00230021), (3, 0x00240022)] |>.writeV 9 [(0, 0x00330031), (1, 0x00340032), (2, 0x00430041), (3, 0x00440042)]
def shiftedPlane (t : Team) : Team :=
  (planes t).writeV 8 [(1, 0x00130011), (0, 0x00120000), (2, 0x00220000), (3, 0x00230021)] |>.writeV 9 [(0, 0x00320000), (1, 0x00330031), (2, 0x00420000), (3, 0x00430041)]

theorem test_planeShift :
    gives (.pShift 0 0 .e 0 1) (small loadedPlane []) (fun t => ([0, 1, 2, 3, 4].map (t.readV 8), [0, 1, 2, 3].map (t.readV 9))) =
      some ([0x00120000, 0x00130011, 0x00220000, 0x00230021, 0], [0x00320000, 0x00330031, 0x00420000, 0x00430041]) := by decide +kernel

theorem test_planeRefold :
    gives (.pRefold 1 0) (small shiftedPlane []) (fun t => ([0, 1, 2, 3].map (t.readV 10), [0, 1, 2, 3].map (t.readV 11))) =
      some ([0x00110000, 0x00130012, 0x00310000, 0x00330032], [0x00210000, 0x00230022, 0x00410000, 0x00430042]) := by decide +kernel

/-- R86's example of the XOR2 layout. -/
theorem test_layout : planeAddr .xor2 0x200000 256 2 8 32 0 5 19 = 0x200536 ∧ planeAddr .row 0x200000 256 2 8 32 0 5 19 = 0x200526 := by decide +kernel

/-! Memory. -/

/-- R50's example: with la=2 the load of 9 lands after two more instructions. -/
theorem test_load :
    gives (.sLd 5 4 2 .weak .b64 0) (small (ab 0x30000 7) [(0x30000, 9)]) (fun t => (t.readS 5, t.iss.windows)) = some (7, [⟨0, 3, [.s 5 9], [], 0⟩]) ∧
    gives (.sLd 5 4 0 .weak .b8 1) (small (ab 0x30000 7) [(0x30001, 0x80)]) (fun t => t.iss.windows) = some [⟨0, 1, [.s 5 (-128)], [], 0⟩] ∧
    gives (.sLdu 5 4 0 .weak .b8 1) (small (ab 0x30000 7) [(0x30001, 0x80)]) (fun t => t.iss.windows) = some [⟨0, 1, [.s 5 128], [], 0⟩] := by decide +kernel

/-- R51: loads of V5, of V4 and V5, and of V4, whose ends come in reverse, close in issue order. -/
theorem test_windows :
    let w := fun (n at_ : Nat) (rs : List Nat) => (⟨n, at_, rs.map fun r => .v r 0 0xFFFFFFFF 1, [], 0⟩ : Window);
    ((((small id []).one.openWindow (w 0 6 [5])).openWindow (w 1 12 [4, 5])).openWindow (w 2 3 [4])).iss.windows.map (·.opened) = [0, 1, 2] := by
  decide +kernel

/-- R121: a misaligned access takes the precise trap 0x05 with the address. -/
theorem test_misaligned :
    gives (.sLd 5 4 0 .weak .b32 0) (small (ab 0x30002 7) []) (fun t => (pcOf t, t.sys.tcause, t.sys.tinfo, t.sys.tpc)) =
      some (0x20140, 0x205, 0x30002, 0x10000) := by decide +kernel

/-- R49's example: 32 lanes add 1 to a counter of 100; the old values 100 to 131 come back in lane order. -/
theorem test_atomics :
    gives (.vAtomAdd 7 4 6 .rlx) (small (fun t => (ab 0x30000 0 t).writeV 7 ((List.range 32).map fun l => (l, 1))) [(0x30000, 100)])
      (fun t => ([0, 1, 31].map fun l => (t.readV 7 l).toNat, t.rep.log.length)) = some ([100, 101, 131], 1) ∧
    ((stepped (.vAtomAdd 7 4 6 .rlx) (small (fun t => (ab 0x30000 0 t).writeV 7 ((List.range 32).map fun l => (l, 1))) [(0x30000, 100)])).map fun n =>
      n.mem.byte 0x30000) = some 132 := by decide +kernel

/-- R48: an atomic whose entry is in the log takes its old value from there and leaves memory alone. -/
theorem test_replay :
    ((stepped (.sAtomAdd 9 4 5 .rlx) (small (fun t => replaying [7, 0, 0, 0, 0, 0, 0, 0] (ab 0x30000 1 t)) [(0x30000, 100)])).map fun n =>
      (n.mem.byte 0x30000, n.one.readS 9, n.one.rep.consumed)) = some (100, 7, 1) := by decide +kernel

/-- A compare and swap stores only where the old value is the one compared (R125). -/
theorem test_cas :
    ((stepped (.sAtomCas 4 6 .rlx) (small (fun t => (ab 100 7 t).writeS 6 0x30000) [(0x30000, 100)])).map fun n => (n.mem.byte 0x30000, n.one.readS 4)) = some (7, 100) ∧
    ((stepped (.sAtomCas 4 6 .rlx) (small (fun t => (ab 99 7 t).writeS 6 0x30000) [(0x30000, 100)])).map fun n => (n.mem.byte 0x30000, n.one.readS 4)) = some (100, 100) := by
  decide +kernel

/-! Barriers (R198 to R201). -/

theorem test_barrier :
    ((stepped (.barArrive 9 4) (small (ab 0x30000 0) (barrier 2 1 false 0))).map fun n => (barObj n.mem.byte 0x30000, n.one.readS 9)) =
      some (⟨2, 0, true, 0, 0⟩, 0) ∧
    ((stepped (.barArrive 9 4) (small (ab 0x30000 0) (barrier 2 1 false 5))).map fun n => barObj n.mem.byte 0x30000) = some ⟨2, 2, false, 5, 0⟩ ∧
    gives (.barArrive 9 4) (small (ab 0x30000 0) (barrier 2 2 false 5)) (fun t => (t.sys.tcause, t.sys.tpc)) = some (0x210, 0x10000) := by decide +kernel

/-! Relocations: R289's example. -/

theorem test_relocation :
    highPart 0x00123C80 = 0x124 ∧ lowPart 0x00123C80 = -896 ∧ putLow 0x28400000 20 (highPart 0x00123C80) = 0x28400124 ∧
      putLow 0x08204000 12 (lowPart 0x00123C80) = 0x08204C80 ∧ fitsIn 20 (highPart 0x80000000) = false := by decide +kernel

/-! Translation: the leaf and the window of chapter 18. -/

theorem test_leaf :
    let l := entryLeaf 0x002000034520002F (2 ^ 21);
    (l.pa, l.r, l.w, l.x, l.res) = (0x345200000, true, true, false, true) ∧ l.pa + 0x34567 = 0x345234567 := by decide +kernel

/-- R331: the folds of the device PA, by hand: bit 12 is bit 5 of the first fold, bit 13 bit 0 of the second, bit 49 bit 0 of the last term. -/
theorem test_home : [2 ^ 12 + 127, 2 ^ 12 + 2 ^ 13, 2 ^ 12 + 2 ^ 13 + 2 ^ 49].map homeOf = [(1, 0), (1, 1), (1, 0)] := by decide +kernel

/-- sin 2 = 0.9092974268 and cos 2 = -0.4161468365 lie next to 0x3F68C7B7 and 0xBED51133: 2 is π/2 and a rest of one quadrant
(R162, worked out by hand). -/
theorem test_sinr_reduced :
    let r := reduceTrig false 0x800000 (-22)
    r.2.2.2 = 1 ∧ (fp32.round rne (cosFin r.2.1 r.2.2.1)).1 = 0x3F68C7B7 ∧ (fp32.round rne (sinFin r.1 r.2.1 r.2.2.1).neg).1 = 0xBED51133 := by
  decide +kernel

/-! One word for each encoded instruction, written out bit by bit from the formats and tables of chapter 5. -/

theorem test_decode_system1 :
    [(0b000000_00000000000000000000000000, Instr.nop),
      (0b000000_0001101_0000000000000000001, Instr.trap 13),
      (0b000000_00000000000000000000000010, Instr.eret),
      (0b000000_0001101_0000000_0000111_00011, Instr.sysr 13 7),
      (0b000000_0000000_0001011_0000111_00100, Instr.sysw 11 7),
      (0b000000_00000000000000000000000101, Instr.yield),
      (0b000000_0000000_0001011_000000000110, Instr.perf 11),
      (0b000000_00000000000000000000000111, Instr.region),
      (0b000000_0001101_0000000000000001000, Instr.vers 13),
      (0b000000_0001101_0000000000000001001, Instr.cycles 13),
      (0b000000_0000000_0001011_0000111_01010, Instr.icinv 11 7),
      (0b000000_0000000_0001011_000000001011, Instr.pgreq 11),
      (0b000000_0000000_0001011_0000111_01100, Instr.launch 11 7)].all (fun x => decodeTableWord 32 x.1 == some x.2) = true := by decide

theorem test_decode_system2 :
    [(0b000000_00000000000000000000001101, Instr.exit),
      (0b000000_00000000000000000000001110, Instr.bkpt),
      (0b000000_0000000_0001011_0000111_01111, Instr.modeSet 11 7),
      (0b000000_0001101_0000000000000010000, Instr.modeGet 13)].all (fun x => decodeTableWord 32 x.1 == some x.2) = true := by decide

theorem test_decode_scalar1 :
    [(0b000001_0001101_0001011_0000111_00000, Instr.sAdd 13 11 7),
      (0b000001_0001101_0001011_0000111_00001, Instr.sSub 13 11 7),
      (0b000001_0001101_0001011_0000111_00010, Instr.sMul 13 11 7),
      (0b000001_0001101_0001011_0000111_00011, Instr.sMulh 13 11 7),
      (0b000001_0001101_0001011_0000111_00100, Instr.sMulhu 13 11 7),
      (0b000001_0001101_0001011_0000111_00101, Instr.sDiv 13 11 7),
      (0b000001_0001101_0001011_0000111_00110, Instr.sDivu 13 11 7),
      (0b000001_0001101_0001011_0000111_00111, Instr.sRem 13 11 7),
      (0b000001_0001101_0001011_0000111_01000, Instr.sRemu 13 11 7),
      (0b000001_0001101_0001011_0000111_01001, Instr.sAnd 13 11 7),
      (0b000001_0001101_0001011_0000111_01010, Instr.sOr 13 11 7),
      (0b000001_0001101_0001011_0000111_01011, Instr.sXor 13 11 7),
      (0b000001_0001101_0001011_0000111_01100, Instr.sShl 13 11 7)].all (fun x => decodeTableWord 32 x.1 == some x.2) = true := by decide

theorem test_decode_scalar2 :
    [(0b000001_0001101_0001011_0000111_01101, Instr.sShr 13 11 7),
      (0b000001_0001101_0001011_0000111_01110, Instr.sSar 13 11 7),
      (0b000001_0001101_0001011_0000111_01111, Instr.sMin 13 11 7),
      (0b000001_0001101_0001011_0000111_10000, Instr.sMax 13 11 7),
      (0b000001_0001101_0001011_0000111_10001, Instr.sMinu 13 11 7),
      (0b000001_0001101_0001011_0000111_10010, Instr.sMaxu 13 11 7),
      (0b000001_0001101_0001011_0000111_10011, Instr.sSlt 13 11 7),
      (0b000001_0001101_0001011_0000111_10100, Instr.sSltu 13 11 7),
      (0b000001_0001101_0001011_0000111_10101, Instr.sSeq 13 11 7),
      (0b000001_0001101_0001011_000000010110, Instr.sClz 13 11),
      (0b000001_0001101_0001011_000000010111, Instr.sPopc 13 11)].all (fun x => decodeTableWord 32 x.1 == some x.2) = true := by decide

theorem test_decode_scalarImmediate :
    [(0b000010_0001101_0001011_101010111100, Instr.sAddi 13 11 0xabc),
      (0b000011_0001101_0001011_101010111100, Instr.sAndi 13 11 0xabc),
      (0b000100_0001101_0001011_101010111100, Instr.sOri 13 11 0xabc),
      (0b000101_0001101_0001011_101010111100, Instr.sXori 13 11 0xabc),
      (0b000110_0001101_0001011_000000100101, Instr.sShli 13 11 37),
      (0b000111_0001101_0001011_000000100101, Instr.sShri 13 11 37),
      (0b001000_0001101_0001011_000000100101, Instr.sSari 13 11 37),
      (0b001001_0001101_0001011_101010111100, Instr.sSlti 13 11 0xabc),
      (0b001010_001101_10101011110011011110, Instr.sLui 13 0xabcde),
      (0b001011_001101_10101011110011011110, Instr.sAupc 13 0xabcde)].all (fun x => decodeTableWord 32 x.1 == some x.2) = true := by decide

theorem test_decode_scalarMemory :
    [(0b001100_001101_001011_1011_1_01_1000101, Instr.sLd 13 11 11 .strong .b16 0x45),
      (0b001101_001101_001011_1011_1_01_1000101, Instr.sLdu 13 11 11 .strong .b16 0x45),
      (0b001110_001101_001011_0000_1_01_1000101, Instr.sSt 13 11 .strong .b16 0x45)].all (fun x => decodeTableWord 32 x.1 == some x.2) = true := by decide

theorem test_decode_scalarAtomic :
    [(0b001111_0001101_001011_0000111_11_0000, Instr.sAtomAdd 13 11 7 .ar),
      (0b001111_0001101_001011_0000111_11_0001, Instr.sAtomAnd 13 11 7 .ar),
      (0b001111_0001101_001011_0000111_11_0010, Instr.sAtomOr 13 11 7 .ar),
      (0b001111_0001101_001011_0000111_11_0011, Instr.sAtomXor 13 11 7 .ar),
      (0b001111_0001101_001011_0000111_11_0100, Instr.sAtomMin 13 11 7 .ar),
      (0b001111_0001101_001011_0000111_11_0101, Instr.sAtomMax 13 11 7 .ar),
      (0b001111_0001101_001011_0000111_11_0110, Instr.sAtomMinu 13 11 7 .ar),
      (0b001111_0001101_001011_0000111_11_0111, Instr.sAtomMaxu 13 11 7 .ar),
      (0b001111_0001101_001011_0000111_11_1000, Instr.sAtomSwap 13 11 7 .ar),
      (0b001111_0001101_001011_0000000_11_1001, Instr.sAtomCas 13 11 .ar),
      (0b001111_0001101_001011_0000000_01_1100, Instr.sAtomLd 13 11 .acq),
      (0b001111_0000000_001011_0000111_10_1101, Instr.sAtomSt 11 7 .rel)].all (fun x => decodeTableWord 32 x.1 == some x.2) = true := by decide

theorem test_decode_branch :
    [(0b010000_11111111111111111111111011, Instr.br 0x3fffffb),
      (0b010001_11111111111111111111111011, Instr.call 0x3fffffb),
      (0b010010_0101001_1111111111111111011, Instr.brz 41 0x7fffb),
      (0b010011_0101001_1111111111111111011, Instr.brnz 41 0x7fffb),
      (0b010100_1011_011_1111111111111111011, Instr.brp 11 .notall 0x7fffb),
      (0b010101_1011_000_1111111111111111011, Instr.brd 11 0x7fffb),
      (0b010110_0000000_1111111111111111011, Instr.recv 0x7fffb),
      (0b010111_0101001_1111111111111111011, Instr.loop 41 0x7fffb)].all (fun x => decodeTableWord 32 x.1 == some x.2) = true := by decide

theorem test_decode_control :
    [(0b011000_0000000_0001011_000000000000, Instr.callr 11),
      (0b011000_0000000_0001011_000000000001, Instr.jmpr 11),
      (0b011000_00000000000000000000000010, Instr.ret),
      (0b011000_0000000_0001011_000000000011, Instr.ppush 11),
      (0b011000_00000000000000000000000100, Instr.pinv),
      (0b011000_00000000000000000000000101, Instr.ppop),
      (0b011000_0001101_0000000000000000110, Instr.pstkGet 13)].all (fun x => decodeTableWord 32 x.1 == some x.2) = true := by decide

theorem test_decode_laneArith :
    [(0b011001_0001101_0001011_0000111_00000, Instr.vAdd 13 11 7),
      (0b011001_0001101_0001011_0000111_00001, Instr.vSub 13 11 7),
      (0b011001_0001101_0001011_0000111_00010, Instr.vMul 13 11 7),
      (0b011001_0001101_0001011_0000111_00011, Instr.vMulh 13 11 7),
      (0b011001_0001101_0001011_0000111_00100, Instr.vFma 13 11 7),
      (0b011001_0001101_0001011_0000111_00101, Instr.vFms 13 11 7),
      (0b011001_0001101_0001011_0000111_00110, Instr.vFnma 13 11 7),
      (0b011001_0001101_0001011_0000111_00111, Instr.vMin 13 11 7),
      (0b011001_0001101_0001011_0000111_01000, Instr.vMax 13 11 7),
      (0b011001_0001101_0001011_000000001001, Instr.vAbs 13 11),
      (0b011001_0001101_0001011_000000001010, Instr.vNeg 13 11),
      (0b011001_0001101_0001011_0000111_01011, Instr.vDot2 13 11 7),
      (0b011001_0001101_0001011_000000001100, Instr.vMov 13 11)].all (fun x => decodeTableWord 32 x.1 == some x.2) = true := by decide

theorem test_decode_laneBits :
    [(0b011010_0001101_0001011_0000111_00000, Instr.vAnd 13 11 7),
      (0b011010_0001101_0001011_0000111_00001, Instr.vOr 13 11 7),
      (0b011010_0001101_0001011_0000111_00010, Instr.vXor 13 11 7),
      (0b011010_0001101_0001011_000000000011, Instr.vNot 13 11),
      (0b011010_0001101_0001011_0000111_00100, Instr.vShl 13 11 7),
      (0b011010_0001101_0001011_0000111_00101, Instr.vShr 13 11 7),
      (0b011010_0001101_0001011_0000111_00110, Instr.vSar 13 11 7),
      (0b011010_0001101_0001011_0000111_00111, Instr.vRotl 13 11 7),
      (0b011010_0001101_0001011_0000111_01000, Instr.vSel 13 11 7),
      (0b011010_0001101_0001011_000000001001, Instr.vClz 13 11),
      (0b011010_0001101_0001011_000000001010, Instr.vPopc 13 11)].all (fun x => decodeTableWord 32 x.1 == some x.2) = true := by decide

theorem test_decode_compare :
    [(0b011011_0001101_0001011_0000111_00000, Instr.vCmpEq 13 11 7),
      (0b011011_0001101_0001011_0000111_00001, Instr.vCmpNe 13 11 7),
      (0b011011_0001101_0001011_0000111_00010, Instr.vCmpLt 13 11 7),
      (0b011011_0001101_0001011_0000111_00011, Instr.vCmpLe 13 11 7),
      (0b011011_0001101_0001011_0000111_00100, Instr.vCmpGt 13 11 7),
      (0b011011_0001101_0001011_0000111_00101, Instr.vCmpGe 13 11 7),
      (0b011011_0001101_0001011_0000111_00110, Instr.vCmpLtu 13 11 7),
      (0b011011_0001101_0001011_0000111_00111, Instr.vCmpLeu 13 11 7),
      (0b011011_0001101_0001011_0000111_01000, Instr.vCmpGtu 13 11 7),
      (0b011011_0001101_0001011_0000111_01001, Instr.vCmpGeu 13 11 7),
      (0b011011_0001101_0001011_0000111_01010, Instr.vCmpUn 13 11 7),
      (0b011011_0001101_0001011_0000111_01011, Instr.vCmpOrd 13 11 7)].all (fun x => decodeTableWord 32 x.1 == some x.2) = true := by decide

theorem test_decode_special :
    [(0b011100_0001101_0001011_000000000000, Instr.vRcp 13 11),
      (0b011100_0001101_0001011_000000000001, Instr.vRsq 13 11),
      (0b011100_0001101_0001011_000000000010, Instr.vSqrt 13 11),
      (0b011100_0001101_0001011_000000000011, Instr.vExp2 13 11),
      (0b011100_0001101_0001011_000000000100, Instr.vLog2 13 11),
      (0b011100_0001101_0001011_000000000101, Instr.vRred 13 11),
      (0b011100_0001101_0001011_000000000110, Instr.vSinr 13 11),
      (0b011100_0001101_0001011_000000000111, Instr.vCosr 13 11),
      (0b011100_0001101_0001011_1010101_01000, Instr.vCvt 13 11 .rtz (.slot 5)),
      (0b011100_0001101_0001011_0101001_01001, Instr.vPack 13 11 .rne (.type .e4m3)),
      (0b011100_0001101_0001011_000000_1_01010, Instr.vUnpk 13 11 .hi)].all (fun x => decodeTableWord 32 x.1 == some x.2) = true := by decide

theorem test_decode_crossLane :
    [(0b011101_0001101_0001011_0000111_00000, Instr.vPermXor 13 11 7),
      (0b011101_0001101_0001011_0000111_00001, Instr.vPermRot 13 11 7),
      (0b011101_0001101_0001011_0000111_00010, Instr.vPermBc 13 11 7),
      (0b011101_0001101_0001011_0000111_00011, Instr.vPermIdx 13 11 7),
      (0b011101_0001101_0001011_000000000100, Instr.vBcast 13 11),
      (0b011101_0001101_0000010_000000000101, Instr.vLaneid 13 .group),
      (0b011101_0001101_0001011_0000100_00110, Instr.vRed 13 11 .or),
      (0b011101_0001101_0001011_0000010_00111, Instr.vScan 13 11 .max),
      (0b011101_0001101_0001011_000000001000, Instr.vVtos 13 11),
      (0b011101_0001101_0001001_0000111_01001, Instr.vBallot 13 9 7)].all (fun x => decodeTableWord 32 x.1 == some x.2) = true := by decide

theorem test_decode_laneImmediate :
    [(0b011110_0001101_0001011_101010111100, Instr.vAddi 13 11 0xabc),
      (0b011111_0001101_1011010010110100101, Instr.vMovi 13 0x5a5a5)].all (fun x => decodeTableWord 32 x.1 == some x.2) = true := by decide

theorem test_decode_predicate :
    [(0b100000_0001101_0001011_0000111_00000, Instr.predAnd 13 11 7),
      (0b100000_0001101_0001011_0000111_00001, Instr.predOr 13 11 7),
      (0b100000_0001101_0001011_0000111_00010, Instr.predXor 13 11 7),
      (0b100000_0001101_0001011_0000111_00011, Instr.predAndn 13 11 7),
      (0b100000_0001101_0001011_000000000100, Instr.predNot 13 11),
      (0b100000_0001101_0001011_000000000101, Instr.predMov 13 11),
      (0b100000_0001101_0000000000000000110, Instr.predSet 13),
      (0b100000_0001101_0000000000000000111, Instr.predClr 13),
      (0b100000_0001101_0001011_000000001000, Instr.predAny 13 11),
      (0b100000_0001101_0001011_000000001001, Instr.predAll 13 11),
      (0b100000_0001101_0001011_000000001010, Instr.predCount 13 11),
      (0b100000_0001101_0001011_000000001011, Instr.predFroms 13 11)].all (fun x => decodeTableWord 32 x.1 == some x.2) = true := by decide

theorem test_decode_laneMemory :
    [(0b100001_0001101_001011_0000111_1011_01, Instr.vLd 13 11 7 11 .b16),
      (0b100010_0001101_001011_0000111_1011_01, Instr.vLdu 13 11 7 11 .b16),
      (0b100011_0001101_001011_0000111_0000_01, Instr.vSt 13 11 7 .b16),
      (0b100100_0001101_001011_0000111_1011_01, Instr.vLdx 13 11 7 11 .b16),
      (0b100101_0001101_001011_0000111_0000_01, Instr.vStx 13 11 7 .b16)].all (fun x => decodeTableWord 32 x.1 == some x.2) = true := by decide

theorem test_decode_laneAtomic1 :
    [(0b100110_0001101_001011_0000111_11_0000, Instr.vAtomAdd 13 11 7 .ar),
      (0b100110_0001101_001011_0000111_11_0001, Instr.vAtomAnd 13 11 7 .ar),
      (0b100110_0001101_001011_0000111_11_0010, Instr.vAtomOr 13 11 7 .ar),
      (0b100110_0001101_001011_0000111_11_0011, Instr.vAtomXor 13 11 7 .ar),
      (0b100110_0001101_001011_0000111_11_0100, Instr.vAtomMin 13 11 7 .ar),
      (0b100110_0001101_001011_0000111_11_0101, Instr.vAtomMax 13 11 7 .ar),
      (0b100110_0001101_001011_0000111_11_0110, Instr.vAtomMinu 13 11 7 .ar),
      (0b100110_0001101_001011_0000111_11_0111, Instr.vAtomMaxu 13 11 7 .ar),
      (0b100110_0001101_001011_0000111_11_1000, Instr.vAtomSwap 13 11 7 .ar),
      (0b100110_0001101_001011_0000111_11_1001, Instr.vAtomCas 13 11 7 .ar),
      (0b100110_0001101_001011_0000111_11_1010, Instr.vAtomAddf 13 11 7 .ar),
      (0b100110_0001101_001011_0000111_11_1011, Instr.vAtomAddbf 13 11 7 .ar),
      (0b100110_0001101_001011_0000111_01_1100, Instr.vAtomLd 13 11 7 .acq)].all (fun x => decodeTableWord 32 x.1 == some x.2) = true := by decide

theorem test_decode_laneAtomic2 :
    [(0b100110_0001101_001011_0000111_10_1101, Instr.vAtomSt 13 11 7 .rel)].all (fun x => decodeTableWord 32 x.1 == some x.2) = true := by decide

theorem test_decode_planeMemory :
    [(0b100111_101_001011_000111_100_1011_1_000, Instr.pLd 5 11 7 .xor3 11 .strong),
      (0b101000_101_001011_000111_100_0000_1_000, Instr.pSt 5 11 7 .xor3 .strong)].all (fun x => decodeTableWord 32 x.1 == some x.2) = true := by decide

theorem test_decode_plane :
    [(0b101001_101_011_10_000111_0000_10010110, Instr.pShift 5 3 .s 7 0x96),
      (0b101001_101_011_10_000111_0001_10010110, Instr.pRot 5 3 .s 7 0x96),
      (0b101001_101_011_10_000111_0010_10010110, Instr.pSpread 5 3 .s 7 0x96),
      (0b101001_101_011_10_000000001100000000, Instr.pFoldAdd 5 3 .s),
      (0b101001_101_011_10_000000010000000000, Instr.pFoldMax 5 3 .s),
      (0b101001_101_011_10_000000010100000000, Instr.pFoldMin 5 3 .s),
      (0b101001_101_011_10_000000011000000000, Instr.pFoldStack 5 3 .s),
      (0b101001_101_011_00000000011100000000, Instr.pRefold 5 3),
      (0b101001_101_00000_000111_100000000000, Instr.pGset 5 7),
      (0b101001_000_011_00_000111_100100000000, Instr.pGget 3 7)].all (fun x => decodeTableWord 32 x.1 == some x.2) = true := by decide

theorem test_decode_loupe :
    [(0b101010_0000000_0001011_0000111_00000, Instr.lWr 11 7),
      (0b101010_0001101_0000000000000000001, Instr.lRdt 13),
      (0b101010_0001101_0000000000000000010, Instr.lRd 13),
      (0b101010_00000000000000000000000011, Instr.lClr)].all (fun x => decodeTableWord 32 x.1 == some x.2) = true := by decide

theorem test_decode_sync :
    [(0b101011_00000000000000000000000000, Instr.fence),
      (0b101011_00000000000000000000000001, Instr.fenceAcq),
      (0b101011_00000000000000000000000010, Instr.fenceRel),
      (0b101011_0000000_0001011_0000111_00011, Instr.barInit 11 7),
      (0b101011_0001101_0001011_000000000100, Instr.barArrive 13 11),
      (0b101011_0000000_0001011_0000111_00101, Instr.barExpect 11 7),
      (0b101011_0000000_0001011_0000111_00110, Instr.barWait 11 7),
      (0b101011_0000_110_0001011_000000000111, Instr.wait 6 11),
      (0b101011_0000000_0001011_000000001000, Instr.qfence 11),
      (0b101011_00000000000000000000001010, Instr.walksync),
      (0b101011_0000000_0001011_0000111_01011, Instr.scWb 11 7),
      (0b101011_0000000_0001011_0000111_01100, Instr.scDrop 11 7)].all (fun x => decodeTableWord 32 x.1 == some x.2) = true := by decide

theorem test_decode_copy :
    [(0b101100_0000000_0001011_0000111_00000, Instr.cpy 11 7),
      (0b101100_0000000_0001011_000000000010, Instr.chain 11)].all (fun x => decodeTableWord 32 x.1 == some x.2) = true := by decide

theorem test_decode_matrix :
    [(0b101101_010_110_001011_000111_0000_0101, Instr.mxMma 2 6 11 7 true false true false),
      (0b101101_010_110_000011_000111_00010_110, Instr.mxKmma 2 6 3 7 false true true),
      (0b101101_010_00000000000000000100000, Instr.mxZero 2),
      (0b101101_010_000_001011_000111_00110000, Instr.mxAccrd 2 11 7),
      (0b101101_010_000_001011_000111_01000000, Instr.mxAccwr 2 11 7),
      (0b101101_000000_001011_00000001010000, Instr.mxFence 11),
      (0b101101_000000_001011_00000001100000, Instr.mxWait 11),
      (0b101101_000000_001011_00000001110000, Instr.mxSave 11),
      (0b101101_000000_001011_00000010000000, Instr.mxResume 11),
      (0b101101_000000_001011_000111_10010000, Instr.mxStreamOpen 11 7),
      (0b101101_000000_001011_000111_10100000, Instr.mxSub 11 7),
      (0b101101_000000_001011_00000010110000, Instr.mxSetgang 11)].all (fun x => decodeTableWord 32 x.1 == some x.2) = true := by decide

theorem test_decode_table :
    [(0b101110_010_110_001011_00000000000000, Instr.tblKbuild 2 6 11),
      (0b101110_010_00000000000000000010000, Instr.tblKinv 2),
      (0b101110_010_00000000000000000100000, Instr.tblKdetach 2),
      (0b101110_010_000_001011_00000000110000, Instr.tblKtest 2 11)].all (fun x => decodeTableWord 32 x.1 == some x.2) = true := by decide

/-! Words that the spec prints beside the instruction (chapters 06 to 10, 13 and 21). -/

theorem test_words_scalar :
    [(0x04483084, Instr.sMulhu 9 3 4), (0x04483016, .sClz 9 3), (0x08204FC0, .sAddi 4 4 (-64)), (0x2C400003, .sAupc 4 3),
      (0x30510B82, .sLd 5 4 2 .strong .b64 2), (0x387F817E, .sSt 7 62 .weak .b32 (-2)), (0x30610180, .sLd 6 4 0 .weak .b64 0),
      (0x30710181, .sLd 7 4 0 .weak .b64 1), (0x1860C03C, .sShli 12 12 60), (0x1C285012, .sShri 5 5 18), (0x0468D0A0, .sAdd 13 13 5),
      (0x28700002, .sLui 7 2), (0x339EC188, .sLd 57 59 0 .weak .b64 8), (0x05CBA721, .sSub 57 58 57), (0x3DCF601C, .sAtomLd 57 59 .acq),
      (0x3C074E6D, .sAtomSt 58 57 .rel)].all (fun x => decodeTableWord 32 x.1 == some x.2) = true := by decide

theorem test_words_control :
    [(0x44000100, Instr.call 0x100), (0x481FFFFC, .brz 3 (-4)), (0x58000005, .recv 5), (0x54800003, .brd 2 3), (0x5C380002, .loop 7 2),
      (0x5C280005, .loop 5 5), (0x60009000, .callr 9), (0x60000002, .ret), (0x60002003, .ppush 2), (0x60280006, .pstkGet 5),
      (0x60039001, .jmpr 57), (0x49C80003, .brz 57 3), (0x00880001, .trap 17), (0x03F80001, .trap 127), (0x00280083, .sysr 5 4),
      (0x00200183, .sysr 4 12)].all (fun x => decodeTableWord 32 x.1 == some x.2) = true := by decide

theorem test_words_system :
    [(0x00005084, Instr.sysw 5 4), (0x0000408F, .modeSet 4 4), (0x00300008, .vers 6), (0x00000007, .region), (0x0000000D, .exit),
      (0x00004006, .perf 4), (0x000040AA, .icinv 4 5), (0x0000400B, .pgreq 4), (0x000040AC, .launch 4 5), (0x00000000, .nop),
      (0x00280103, .sysr 5 8)].all (fun x => decodeTableWord 32 x.1 == some x.2) = true := by decide

theorem test_words_lane :
    [(0x645040A4, Instr.vFma 10 4 5), (0x7818300A, .vAddi 3 3 10), (0x7C2FFFFF, .vMovi 5 (-1)), (0x70488001, .vRsq 9 8),
      (0x70302006, .vSinr 6 2), (0x704024E9, .vPack 8 2 .rne (.type .bf16)), (0x7020802A, .vUnpk 4 8 .hi),
      (0x705010C8, .vCvt 10 1 .mode (.type .fp32)), (0x74182080, .vPermXor 3 2 4), (0x74081005, .vLaneid 1 .column),
      (0x743820A9, .vBallot 7 2 5)].all (fun x => decodeTableWord 32 x.1 == some x.2) = true := by decide

theorem test_words_plane :
    [(0xA5285100, Instr.pRot 2 2 .s 5 0), (0xA5900300, .pFoldAdd 3 1 .e), (0xA4800700, .pRefold 1 0), (0xA4206900, .pGget 2 6),
      (0xA4006800, .pGset 0 6), (0xA4000001, .pShift 0 0 .e 0 1), (0xA4900001, .pShift 1 1 .e 0 1), (0xA8004060, .lWr 4 3),
      (0xA8280001, .lRdt 5), (0xA8000003, .lClr), (0x9C882B20, .pLd 1 4 5 .xor2 2 .weak), (0xA0882808, .pSt 1 4 5 .row .strong),
      (0x9C146800, .pLd 0 10 13 .row 0 .weak)].all (fun x => decodeTableWord 32 x.1 == some x.2) = true := by decide

theorem test_words_sync :
    [(0xAC000000, Instr.fence), (0xAC203007, .wait 4 3), (0xAC003008, .qfence 3), (0xAC0050C3, .barInit 5 6), (0xAC405004, .barArrive 8 5),
      (0xAC0050E5, .barExpect 5 7), (0xAC005106, .barWait 5 8), (0xAC00000A, .walksync), (0xAC0040AB, .scWb 4 5), (0xAC0040AC, .scDrop 4 5),
      (0xB0004000, .cpy 4 0), (0xB0006002, .chain 6), (0x9820426A, .vAtomAddf 4 2 9 .rel),
      (0x98304279, .vAtomCas 6 2 9 .ar)].all (fun x => decodeTableWord 32 x.1 == some x.2) = true := by decide

theorem test_words_engine :
    [(0xB4828B0B, Instr.mxMma 1 0 10 11 true true false true), (0xB40240B0, .mxSetgang 9), (0xB5800020, .mxZero 3), (0xB401C050, .mxFence 7),
      (0xB401C060, .mxWait 7), (0xB4010070, .mxSave 4), (0xB4010080, .mxResume 4), (0xB8A28000, .tblKbuild 1 2 10),
      (0xB4108C15, .mxKmma 0 1 2 12 true false true), (0xB4000C11, .mxKmma 0 0 0 12 true false false), (0xB402C090, .mxStreamOpen 11 0),
      (0xB40005A0, .mxSub 0 5), (0xB4034E30, .mxAccrd 0 13 14), (0xB4028A00, .mxMma 0 0 10 10 false false false false),
      (0xB8028000, .tblKbuild 0 0 10)].all (fun x => decodeTableWord 32 x.1 == some x.2) = true := by decide

end Sys2Proof.Machine
end

namespace Sys2Proof.Machine

/-! The scalar operations (R116 to R119), as the rules say them. The model's operations on patterns are the arithmetic of
the rules on the numbers that the patterns stand for. -/

theorem sub_eq_ofInt (a b : DWord) : a - b = BitVec.ofInt 64 ((a.toNat : Int) - b.toNat) := by
  rw [Int.sub_eq_add_neg, BitVec.ofInt_add, BitVec.ofInt_neg, BitVec.ofInt_natCast, BitVec.ofInt_natCast]
  simp [BitVec.sub_eq_add_neg]

theorem mul_eq_ofNat (a b : DWord) : a * b = BitVec.ofNat 64 (a.toNat * b.toNat) := by
  simp [BitVec.ofNat_mul]

/-- The high half of an unsigned product, taken over Int by the model and over Nat by the rule. -/
theorem mulHigh_toNat (a b : DWord) : mulHigh a.toNat b.toNat = BitVec.ofNat 64 (a.toNat * b.toNat / 2 ^ 64) := by
  unfold mulHigh
  rw [← BitVec.ofInt_natCast]
  push_cast
  rfl

theorem shiftLeft_eq_ofNat (a : DWord) (n : Nat) : a <<< n = BitVec.ofNat 64 (a.toNat * 2 ^ n) := by
  rw [← Nat.shiftLeft_eq]
  rfl

/-- A number up to that of a pattern fits a register. -/
theorem toNat_ofNat_of_le {n : Nat} {a : DWord} (h : n ≤ a.toNat) : (BitVec.ofNat 64 n).toNat = n := by
  rw [BitVec.toNat_ofNat, Nat.mod_eq_of_lt (Nat.lt_of_le_of_lt h a.isLt)]

theorem shiftRight_eq_ofNat (a : DWord) (n : Nat) : a >>> n = BitVec.ofNat 64 (a.toNat / 2 ^ n) := by
  apply BitVec.eq_of_toNat_eq
  rw [toNat_ofNat_of_le (Nat.div_le_self _ _), BitVec.toNat_ushiftRight, Nat.shiftRight_eq_div_pow]

theorem sshiftRight_eq_ofInt (a : DWord) (n : Nat) : a.sshiftRight n = BitVec.ofInt 64 (a.toInt / 2 ^ n) := by
  rw [BitVec.sshiftRight, Int.shiftRight_eq_div_pow]
  push_cast
  rfl

theorem add_ofInt (a : DWord) (n : Int) : a + BitVec.ofInt 64 n = BitVec.ofInt 64 ((a.toNat : Int) + n) := by
  rw [BitVec.ofInt_add, BitVec.ofInt_natCast, BitVec.ofNat_toNat, BitVec.setWidth_eq]

theorem add_sext {w : Nat} (a : DWord) (imm : BitVec w) : a + sext imm = BitVec.ofInt 64 ((a.toNat : Int) + imm.toInt) :=
  add_ofInt a imm.toInt

/-- S.LUI's value: 4,096 times the signed immediate (R119). -/
theorem sext_shiftLeft_12 {w : Nat} (imm : BitVec w) : sext imm <<< 12 = BitVec.ofInt 64 (imm.toInt * 4096) := by
  rw [BitVec.ofInt_mul, BitVec.shiftLeft_eq_mul_twoPow]
  rfl

theorem add_sext_shiftLeft_12 {w : Nat} (a : DWord) (imm : BitVec w) :
    a + sext imm <<< 12 = BitVec.ofInt 64 ((a.toNat : Int) + imm.toInt * 4096) := by
  rw [sext_shiftLeft_12, add_ofInt]

/-! The comparisons. -/

theorem smin_eq (a b : DWord) : (if b.slt a then b else a) = if a.toInt ≤ b.toInt then a else b := by
  rw [BitVec.slt_eq_decide]
  by_cases h : a.toInt ≤ b.toInt
  · simp [h]
  · simp [h, Int.not_le.mp h]

theorem umin_eq (a b : DWord) : (if b.ult a then b else a) = if a.toNat ≤ b.toNat then a else b := by
  rw [BitVec.ult]
  by_cases h : a.toNat ≤ b.toNat
  · simp [h]
  · simp [h, Nat.not_le.mp h]

/-- The model keeps a where a = b, and the rule takes b. -/
theorem smax_eq (a b : DWord) : (if a.slt b then b else a) = if a.toInt ≤ b.toInt then b else a := by
  rw [BitVec.slt_eq_decide]
  rcases lt_trichotomy a.toInt b.toInt with h | h | h
  · simp [h, h.le]
  · simp [BitVec.toInt_inj.mp h]
  · simp [h.le, Int.not_le.mpr h]

/-- The model keeps a where a = b, and the rule takes b. -/
theorem umax_eq (a b : DWord) : (if a.ult b then b else a) = if a.toNat ≤ b.toNat then b else a := by
  rw [BitVec.ult]
  rcases lt_trichotomy a.toNat b.toNat with h | h | h
  · simp [h, h.le]
  · simp [BitVec.toNat_inj.mp h]
  · simp [h.le, Nat.not_le.mpr h]

/-- A truth value in a register. -/
theorem bit_decide (p : Prop) [Decidable p] : bit (decide p) = if p then 1 else 0 := by
  simp [bit]

theorem bit_beq (a b : DWord) : bit (a == b) = if a = b then 1 else 0 := bit_decide (a = b)

theorem bit_slt_sext {w : Nat} (a : DWord) (imm : BitVec w) (hw : w ≤ 64) :
    bit (a.slt (sext imm)) = if a.toInt < imm.toInt then 1 else 0 := by
  rw [BitVec.slt_eq_decide, bit_decide, sext, BitVec.toInt_signExtend_of_le hw]

/-! The counts of bits. -/

/-- The first k with a < 2^k is one more than the place of the highest one bit. -/
theorem find?_lt_two_pow {a n : Nat} (ha : a ≠ 0) (hn : a < 2 ^ n) :
    (List.range (n + 1)).find? (fun k => decide (a < 2 ^ k)) = some (a.log2 + 1) := by
  have hlog : ∀ k, a < 2 ^ k ↔ a.log2 + 1 ≤ k := fun k => (Nat.log2_lt ha).symm
  have hle := (hlog n).mp hn
  rw [List.find?_range_eq_some]
  refine ⟨by simp [hlog], by rw [List.mem_range]; omega, fun j hj => ?_⟩
  rw [Bool.not_eq_true', decide_eq_false_iff_not, hlog]
  omega

theorem leadingZeros_eq_clz (a : DWord) : leadingZeros a = clz a := by
  unfold leadingZeros clz
  by_cases ha : a.toNat = 0
  · rw [ha]
    decide
  · rw [if_neg ha, find?_lt_two_pow ha a.isLt, Option.getD_some]
    omega

theorem sum_map_toNat_eq_length_filter (p : Nat → Bool) (l : List Nat) :
    (l.map fun k => (p k).toNat).sum = (l.filter p).length := by
  induction l with
  | nil => rfl
  | cons k l ih =>
    rw [List.map_cons, List.sum_cons, ih, List.filter_cons]
    cases p k
    · simp
    · simp [Nat.add_comm]

theorem oneBits_eq_popCount (a : DWord) : oneBits a = popCount a :=
  sum_map_toNat_eq_length_filter a.getLsbD (List.range 64)

/-! Division (R117). -/

theorem divS_eq_quotient (a b : DWord) : divS a b = quotient a b := by
  unfold divS quotient
  by_cases hb : b = 0
  · rw [if_pos hb, if_pos hb]
    rfl
  · rw [if_neg hb, if_neg hb]
    split
    · next h =>
      rw [h.1, h.2]
      decide
    · rfl

theorem remS_eq_remainder (a b : DWord) : remS a b = remainder a b := by
  unfold remS remainder
  by_cases hb : b = 0
  · rw [if_pos hb, if_pos hb]
  · rw [if_neg hb, if_neg hb]
    split
    · next h =>
      rw [h.1, h.2]
      decide
    · rw [Int.tmod_def, Int.mul_comm]

theorem divU_eq (a b : DWord) : divU a b = if b = 0 then 0xFFFFFFFFFFFFFFFF else BitVec.ofNat 64 (a.toNat / b.toNat) := by
  rw [← BitVec.udiv_def]
  rfl

theorem remU_eq (a b : DWord) :
    remU a b = if b = 0 then a else BitVec.ofNat 64 (a.toNat - a.toNat / b.toNat * b.toNat) := by
  rw [Nat.mul_comm, ← Nat.mod_eq_sub_mul_div, ← BitVec.toNat_umod, BitVec.ofNat_toNat, BitVec.setWidth_eq]
  rfl

/-- Only the most negative dividend by -1 has a signed quotient that does not fit. -/
theorem toInt_ofInt_tdiv {a b : DWord} (h : ¬ (a.toInt = -2 ^ 63 ∧ b.toInt = -1)) :
    (BitVec.ofInt 64 (a.toInt.tdiv b.toInt)).toInt = a.toInt.tdiv b.toInt := by
  rw [BitVec.toInt_ofInt, ← BitVec.toInt_sdiv]
  apply BitVec.toInt_sdiv_of_ne_or_ne
  rw [← not_and_or]
  rintro ⟨rfl, rfl⟩
  exact h (by decide)

theorem toInt_quotient {a b : DWord} (hb : b ≠ 0) (h : ¬ (a.toInt = -2 ^ 63 ∧ b.toInt = -1)) :
    (quotient a b).toInt = a.toInt.tdiv b.toInt := by
  rw [quotient, if_neg hb, if_neg h, toInt_ofInt_tdiv h]

theorem toInt_remainder {a b : DWord} (hb : b ≠ 0) (h : ¬ (a.toInt = -2 ^ 63 ∧ b.toInt = -1)) :
    (remainder a b).toInt = a.toInt - a.toInt.tdiv b.toInt * b.toInt := by
  have hmod : a.toInt - a.toInt.tdiv b.toInt * b.toInt = (a.srem b).toInt := by
    rw [BitVec.toInt_srem, Int.tmod_def, Int.mul_comm]
  rw [remainder, if_neg hb, if_neg h, hmod, BitVec.ofInt_toInt]

theorem ne_zero_of_toInt_eq_neg_one {b : DWord} (hb : b.toInt = -1) : b ≠ 0 := by
  rintro rfl
  exact absurd hb (by decide)

theorem quotient_overflow {a b : DWord} (ha : a.toInt = -2 ^ 63) (hb : b.toInt = -1) :
    quotient a b = 0x8000000000000000 := by
  rw [quotient, if_neg (ne_zero_of_toInt_eq_neg_one hb), if_pos ⟨ha, hb⟩]

theorem remainder_overflow {a b : DWord} (ha : a.toInt = -2 ^ 63) (hb : b.toInt = -1) : remainder a b = 0 := by
  rw [remainder, if_neg (ne_zero_of_toInt_eq_neg_one hb), if_pos ⟨ha, hb⟩]

/-! The scalar functions, instruction by instruction. -/

/-- An instruction whose meaning, in the context c, sets S[d] to x; its results are ready after k front cycles. -/
def SetsScalar (c : Ctx) (i : Instr) (d : Nat) (x : DWord) (k : Nat) : Prop :=
  ∃ body : Ctx → Effect, (∀ s, exec i s = s.issue i (.front k) body) ∧ body c = .next c.s (c.t.writeS d x)

section
variable {c : Ctx} {i : Instr} {d k : Nat} {x : DWord}

/-- A meaning by `setS` gives a result of the rules that equals the model's value. -/
theorem SetsScalar.of_setS {w n : Nat} {r : BitVec w} {f : Ctx → DWord} {y : DWord}
    (h : some (r.toNat, y, n) = some (d, x, k)) (hy : f c = y)
    (he : ∀ s, exec i s = s.issue i (.front n) fun c => c.setS r (f c)) : SetsScalar c i d x k := by
  obtain ⟨rfl, rfl, rfl⟩ : r.toNat = d ∧ y = x ∧ n = k := by simpa using h
  exact ⟨fun c => c.setS r (f c), he, by rw [← hy]; rfl⟩

theorem SetsScalar.exec_eq {s : State} (h : SetsScalar c i d x k) (hr : Ready s c i) :
    exec i s = .next (c.after i (.front k) c.s (c.t.writeS d x)) := by
  obtain ⟨body, he, hb⟩ := h
  rw [he, State.issue_next hr _ _ hb]

/-- The lane cycles that CYCLES reads (R140). -/
theorem clock_lane_eq (s : State) (t : Team) :
    s.clock t true = (s.clusters[t.sched.cluster]?).elim 0 fun k => k.lane2 / 2 := by
  unfold State.clock
  cases s.clusters[t.sched.cluster]? <;> rfl

/-- Every scalar function of the rules is what the meaning of its instruction sets: one case for each function, by the lemma
on its operation. -/
theorem setsScalar_of_scalarResult (h : scalarResult c i = some (d, x, k)) : SetsScalar c i d x k := by
  cases i
  case sAdd d a b => exact .of_setS h (BitVec.add_def _ _) fun _ => rfl
  case sSub d a b => exact .of_setS h (sub_eq_ofInt _ _) fun _ => rfl
  case sMul d a b => exact .of_setS h (mul_eq_ofNat _ _) fun _ => rfl
  case sMulh d a b => exact .of_setS h rfl fun _ => rfl
  case sMulhu d a b => exact .of_setS h (mulHigh_toNat _ _) fun _ => rfl
  case sDiv d a b => exact .of_setS h (divS_eq_quotient _ _) fun _ => rfl
  case sDivu d a b => exact .of_setS h (divU_eq _ _) fun _ => rfl
  case sRem d a b => exact .of_setS h (remS_eq_remainder _ _) fun _ => rfl
  case sRemu d a b => exact .of_setS h (remU_eq _ _) fun _ => rfl
  case sAnd d a b => exact .of_setS h rfl fun _ => rfl
  case sOr d a b => exact .of_setS h rfl fun _ => rfl
  case sXor d a b => exact .of_setS h rfl fun _ => rfl
  case sShl d a b => exact .of_setS h (shiftLeft_eq_ofNat _ _) fun _ => rfl
  case sShr d a b => exact .of_setS h (shiftRight_eq_ofNat _ _) fun _ => rfl
  case sSar d a b => exact .of_setS h (sshiftRight_eq_ofInt _ _) fun _ => rfl
  case sMin d a b => exact .of_setS h (smin_eq _ _) fun _ => rfl
  case sMax d a b => exact .of_setS h (smax_eq _ _) fun _ => rfl
  case sMinu d a b => exact .of_setS h (umin_eq _ _) fun _ => rfl
  case sMaxu d a b => exact .of_setS h (umax_eq _ _) fun _ => rfl
  case sSlt d a b => exact .of_setS h (bit_decide _) fun _ => rfl
  case sSltu d a b => exact .of_setS h (bit_decide _) fun _ => rfl
  case sSeq d a b => exact .of_setS h (bit_beq _ _) fun _ => rfl
  case sClz d a => exact .of_setS h (by rw [leadingZeros_eq_clz]; rfl) fun _ => rfl
  case sPopc d a => exact .of_setS h (by rw [oneBits_eq_popCount]; rfl) fun _ => rfl
  case sAddi d a imm => exact .of_setS h (add_sext _ _) fun _ => rfl
  case sAndi d a imm => exact .of_setS h rfl fun _ => rfl
  case sOri d a imm => exact .of_setS h rfl fun _ => rfl
  case sXori d a imm => exact .of_setS h rfl fun _ => rfl
  case sShli d a imm => exact .of_setS h (shiftLeft_eq_ofNat _ _) fun _ => rfl
  case sShri d a imm => exact .of_setS h (shiftRight_eq_ofNat _ _) fun _ => rfl
  case sSari d a imm => exact .of_setS h (sshiftRight_eq_ofInt _ _) fun _ => rfl
  case sSlti d a imm => exact .of_setS h (bit_slt_sext _ _ (by decide)) fun _ => rfl
  case sLui d imm => exact .of_setS h (sext_shiftLeft_12 _) fun _ => rfl
  case sAupc d imm => exact .of_setS h (add_sext_shiftLeft_12 _ _) fun _ => rfl
  case vers d => exact .of_setS h rfl fun _ => rfl
  case modeGet d => exact .of_setS h rfl fun _ => rfl
  case pstkGet d => exact .of_setS h rfl fun _ => rfl
  case cycles d => exact .of_setS h (by rw [clock_lane_eq]) fun _ => rfl
  all_goals cases h

/-- An instruction with a scalar result that can issue goes on with the register set to it. -/
theorem exec_of_scalarResult {s : State} (hr : Ready s c i) (h : scalarResult c i = some (d, x, k)) :
    exec i s = .next (c.after i (.front k) c.s (c.t.writeS d x)) :=
  (setsScalar_of_scalarResult h).exec_eq hr

end

end Sys2Proof.Machine

section
open Sys2Proof Sys2Proof.Machine

/-- Settles O1: the instruction's meaning sets the register to the rule's value (`exec_of_scalarResult`), and a write of one
scalar register changes nothing else (`Ctx.setS_only`). -/
theorem scalarResults : Obligations.ScalarResults := by
  intro s c i d x k hr _ hx
  have he := exec_of_scalarResult hr hx
  exact ⟨he, fun ha => ⟨_, he, Ctx.setS_only hr.1 i _ d x ha⟩⟩

/-- Settles O2: each function sets the value of its row of the division table, and the lemmas on `quotient`, `remainder` and
the unsigned division give the three columns. -/
theorem divisionCorners : Obligations.DivisionCorners := by
  intro s c d a b x y
  refine ⟨fun hr => ⟨quotient x y, exec_of_scalarResult hr rfl, ?_⟩, fun hr => ⟨remainder x y, exec_of_scalarResult hr rfl, ?_⟩,
    fun hr => ⟨_, exec_of_scalarResult hr rfl, ?_⟩, fun hr => ⟨_, exec_of_scalarResult hr rfl, ?_⟩⟩
  · exact ⟨fun hy => if_pos hy, quotient_overflow, toInt_quotient⟩
  · exact ⟨fun hy => if_pos hy, remainder_overflow, toInt_remainder⟩
  · refine ⟨fun hy => if_pos hy, fun hy => ?_⟩
    rw [if_neg hy]
    exact toNat_ofNat_of_le (Nat.div_le_self _ _)
  · refine ⟨fun hy => if_pos hy, fun hy => ?_⟩
    rw [if_neg hy]
    exact toNat_ofNat_of_le (Nat.sub_le _ _)

end

namespace Sys2Proof

/-- Writing one word for each element of a list, at keys that tell the elements apart. -/
theorem Sparse.get_setAll_map {α : Type} [DecidableEq α] {w : Nat} {k : α → Nat} (hk : Function.Injective k) (f : α → BitVec w)
    (xs : List α) (s : Sparse w) (a : α) :
    (s.setAll (xs.map fun x => (k x, f x))).get (k a) = if a ∈ xs then f a else s.get (k a) := by
  induction xs generalizing s with
  | nil => rfl
  | cons x xs ih =>
    rw [List.map_cons, Sparse.setAll, ih, Sparse.get_set]
    by_cases ha : a = x
    · subst ha
      simp
    · simp [ha, hk.eq_iff]

end Sys2Proof

namespace Sys2Proof.Machine

/-! The guarded lanes (R18, R146): the model's mask and its list of lanes are those of the rules. -/

theorem field_eq {w : Nat} (x : BitVec w) (lo n : Nat) : field x lo n = x.toNat / 2 ^ lo % 2 ^ n := by
  rw [field, BitVec.extractLsb'_toNat, Nat.shiftRight_eq_div_pow]

theorem Team.gp_eq (t : Team) : t.gp = t.mode.toNat % 16 := by
  simp [Team.gp, field_eq]

theorem Team.sp_eq (t : Team) : t.sp = t.mode.toNat / 2 ^ 17 % 16 := field_eq _ _ _

theorem getLsbD_lanesUpTo (n l : Nat) : (lanesUpTo n).getLsbD l = (decide (l < 1024) && decide (l < n)) := by
  rw [lanesUpTo, BitVec.getLsbD_ofNat, Nat.testBit_two_pow_sub_one]

theorem Ctx.getLsbD_guard (c : Ctx) (l : Nat) : c.guard.getLsbD l = guarded c l := by
  have hl : (c.f.mask.getLsbD l && decide (l < 1024)) = c.f.mask.getLsbD l := by
    rw [Bool.and_eq_left_iff_imp]
    exact fun h => decide_eq_true (BitVec.lt_of_getLsbD h)
  unfold Ctx.guard Team.guard Team.topLanes guarded
  rw [BitVec.getLsbD_and, BitVec.getLsbD_and, BitVec.getLsbD_and, getLsbD_lanesUpTo, Team.gp_eq, Team.nLanes, ← hl]
  ac_rfl

theorem lt_of_guarded {c : Ctx} {l : Nat} (h : guarded c l = true) : l < 32 * c.t.const.h ∧ l < 1024 := by
  simp only [guarded, Bool.and_eq_true, decide_eq_true_eq] at h
  obtain ⟨⟨⟨hn, hm⟩, -⟩, -⟩ := h
  exact ⟨hn, BitVec.lt_of_getLsbD hm⟩

theorem mem_guardedLanes {c : Ctx} {l : Nat} : l ∈ guardedLanes c ↔ guarded c l = true := by
  rw [guardedLanes, List.mem_filter, List.mem_range]
  exact ⟨And.right, fun h => ⟨(lt_of_guarded h).2, h⟩⟩

theorem Ctx.mem_lanes {c : Ctx} {l : Nat} : l ∈ c.lanes ↔ guarded c l = true := by
  rw [Ctx.lanes, lanesIn, List.mem_filter, List.mem_range, Ctx.getLsbD_guard]
  exact ⟨And.right, fun h => ⟨(lt_of_guarded h).1, h⟩⟩

theorem Ctx.lanes_ascending (c : Ctx) : c.lanes.Pairwise (· < ·) := List.pairwise_lt_range.filter _

/-- Both lists ascend and hold the same lanes. -/
theorem Ctx.lanes_eq (c : Ctx) : c.lanes = guardedLanes c :=
  c.lanes_ascending.eq_of_mem_iff (List.pairwise_lt_range.filter _) fun _ => by rw [Ctx.mem_lanes, mem_guardedLanes]

/-- The guarded lanes below a lane, which its virtual number counts (R169). -/
theorem Ctx.lanes_below (c : Ctx) (l : Nat) : c.lanes.filter (· < l) = (List.range l).filter (guarded c) := by
  refine (c.lanes_ascending.filter _).eq_of_mem_iff (List.pairwise_lt_range.filter _) fun k => ?_
  rw [List.mem_filter, List.mem_filter, Ctx.mem_lanes, List.mem_range, decide_eq_true_eq, and_comm]

/-! A result in the guarded lanes of V[d]. -/

/-- The team with f l written in each guarded lane l of V[d]. -/
def Ctx.writeLanes (c : Ctx) (d : Nat) (f : Nat → Word) : Team := c.t.writeV d ((guardedLanes c).map fun l => (l, f l))

theorem Ctx.words_eq (c : Ctx) (d : BitVec 7) (f : Nat → Word) : c.words d f = .next c.s (c.writeLanes d.toNat f) := by
  rw [Ctx.words, Ctx.lanes_eq, Ctx.writeLanes]

theorem Team.writeV_regs (t : Team) (n : Nat) (xs : List (Nat × Word)) :
    (t.writeV n xs).regs = { t.regs with v := (t.writeV n xs).regs.v } := by
  unfold Team.writeV
  split <;> rfl

/-- A write of lanes changes lane registers and the bypass alone. -/
theorem Team.writeV_eq (t : Team) (n : Nat) (xs : List (Nat × Word)) :
    t.writeV n xs = { t with regs.v := (t.writeV n xs).regs.v, iss.bypass := (t.writeV n xs).iss.bypass } := by
  unfold Team.writeV
  split <;> rfl

theorem Team.writeV_bypass (t : Team) {n : Nat} (xs : List (Nat × Word)) (hn : n ≠ 127) :
    (t.writeV n xs).iss.bypass = t.iss.bypass := by
  rw [Team.writeV, if_neg hn]

/-- A register but V127 is read from the lane registers alone. -/
theorem Team.readV_congr {t u : Team} {n : Nat} (hn : n ≠ 127) (h : u.regs = t.regs) (l : Nat) : u.readV n l = t.readV n l := by
  rw [Team.readV, Team.readV, if_neg hn, if_neg hn, h]

/-- A write of V127 leaves the registers. -/
theorem Team.readV_writeV_127 (t : Team) {k : Nat} (hk : k ≠ 127) (xs : List (Nat × Word)) (l : Nat) :
    (t.writeV 127 xs).readV k l = t.readV k l :=
  Team.readV_congr hk (by rw [Team.writeV, if_pos rfl]) l

/-- V[d] after a write of it, in every lane. -/
theorem Ctx.readV_writeLanes_same (c : Ctx) {d : Nat} (hd : d ≠ 127) (f : Nat → Word) (l : Nat) :
    (c.writeLanes d f).readV d l = if guarded c l = true then f l else c.t.readV d l := by
  simp only [Ctx.writeLanes, Team.writeV, Team.readV, if_neg hd, List.map_map, ← mem_guardedLanes]
  exact Sparse.get_setAll_map (fun _ _ h => Nat.add_left_cancel h) f _ _ l

/-- Every register after a write of V[d]: the guarded lanes of V[d] hold f, and all else is as it was. -/
theorem Ctx.readV_writeLanes (c : Ctx) (d : Nat) (f : Nat → Word) {r l : Nat} (hr : r < 127) (hl : l < 1024) :
    (c.writeLanes d f).readV r l = if r = d ∧ guarded c l = true then f l else c.t.readV r l := by
  by_cases hd : d = 127
  · subst hd
    rw [if_neg fun h => hr.ne h.1]
    exact Team.readV_writeV_127 _ hr.ne _ _
  · by_cases hrd : r = d
    · subst hrd
      simp [Ctx.readV_writeLanes_same c hd]
    · rw [if_neg fun h => hrd h.1]
      refine Team.readV_writeV_other _ _ hd hr.ne fun x hx => ?_
      obtain ⟨k, hk, rfl⟩ := List.mem_map.mp hx
      have := (lt_of_guarded (mem_guardedLanes.mp hk)).2
      simp only
      omega

/-- A write of V127 is transient: it holds f in the guarded lanes and zero elsewhere (R26). -/
theorem Ctx.writeLanes_transient (c : Ctx) (f : Nat → Word) :
    ∃ x, (c.writeLanes 127 f).iss.bypass = x :: c.t.iss.bypass ∧ x.producer = c.t.iss.issued ∧
      ∀ l, x.lanes.get l = if guarded c l = true then f l else 0 := by
  refine ⟨_, rfl, rfl, fun l => ?_⟩
  simp only [← mem_guardedLanes]
  exact Sparse.get_setAll_map (k := fun l => l) (fun _ _ h => h) f _ _ l

/-- A result in the guarded lanes changes what `LaneOnly` says. -/
theorem Ctx.writeLanes_only {s : State} {c : Ctx} (h : s.ctx? = some c) (i : Instr) (time : Time) (d : Nat) (f : Nat → Word)
    (ha : ¬ c.t.Arrives c.fi (c.t.nextPc c.fi)) : LaneOnly c d f (c.after i time c.s (c.writeLanes d f)) := by
  have hw : c.writeLanes d f = { c.t with regs.v := (c.writeLanes d f).regs.v, iss.bypass := (c.writeLanes d f).iss.bypass } :=
    Team.writeV_eq ..
  have hr : (c.writeLanes d f).regs = { c.t.regs with v := (c.writeLanes d f).regs.v } :=
    Team.writeV_regs ..
  have hy : (c.writeLanes d f).sys = c.t.sys := Team.writeV_sys ..
  obtain ⟨u, hu, hregs, hsys, hbypass⟩ := Ctx.after_onward h i time (t' := c.writeLanes d f) (by rw [hr, hy]; exact hw)
    (by unfold Team.tm; rw [hy]) ha
  refine ⟨u, hu, hsys.trans hy, by rw [hregs]; exact hr, fun r l hlt hl => ?_, fun hd => ?_, fun hd => ?_⟩
  · rw [Team.readV_congr hlt.ne hregs, Ctx.readV_writeLanes c d f hlt hl]
  · exact hbypass.trans (Team.writeV_bypass _ _ hd)
  · subst hd
    obtain ⟨x, hx, hproducer, hlanes⟩ := c.writeLanes_transient f
    exact ⟨x, hbypass.trans hx, hproducer, fun l _ => hlanes l⟩

/-! The type-free lane functions, instruction by instruction. -/

/-- An instruction whose meaning, in the context c, sets V[d] to f in the guarded lanes; its results are ready after `time`. -/
def SetsLanes (c : Ctx) (i : Instr) (d : Nat) (f : Nat → Word) (time : Time) : Prop :=
  ∃ body : Ctx → Effect, (∀ s, exec i s = s.issue i time body) ∧ body c = .next c.s (c.writeLanes d f)

section
variable {c : Ctx} {i : Instr} {d : Nat} {f : Nat → Word} {time : Time}

/-- A meaning by `words` gives a result of the rules that equals the model's value in every lane. -/
theorem SetsLanes.of_words {r : BitVec 7} {g : Ctx → Nat → Word} {y : Nat → Word} {tm : Time}
    (h : some (r.toNat, y, tm) = some (d, f, time)) (hy : g c = y) (he : ∀ s, exec i s = s.issue i tm fun c => c.words r (g c)) :
    SetsLanes c i d f time := by
  obtain ⟨rfl, rfl, rfl⟩ : r.toNat = d ∧ y = f ∧ tm = time := by simpa using h
  exact ⟨fun c => c.words r (g c), he, by rw [← hy]; exact Ctx.words_eq ..⟩

theorem SetsLanes.exec_eq {s : State} (h : SetsLanes c i d f time) (hr : Ready s c i) :
    exec i s = .next (c.after i time c.s (c.writeLanes d f)) := by
  obtain ⟨body, he, hb⟩ := h
  rw [he, State.issue_next hr _ _ hb]

/-- Every type-free lane function of the rules is what the meaning of its instruction sets: one case for each function. The
permutes differ in the column alone, and read every source lane, guarded or not (R168). -/
theorem setsLanes_of_laneResult (h : laneResult c i = some (d, f, time)) : SetsLanes c i d f time := by
  cases i
  case vMov d a => exact .of_words h rfl fun _ => rfl
  case vAnd d a b => exact .of_words h rfl fun _ => rfl
  case vOr d a b => exact .of_words h rfl fun _ => rfl
  case vXor d a b => exact .of_words h rfl fun _ => rfl
  case vNot d a => exact .of_words h rfl fun _ => rfl
  case vSel d a b => exact .of_words h (by rw [Team.sp_eq]) fun _ => rfl
  case vMovi d imm => exact .of_words h rfl fun _ => rfl
  case vBcast d a => exact .of_words h (by rw [BitVec.ofNat_toNat]; rfl) fun _ => rfl
  case vLaneid d sel =>
    cases sel with
    | linear => exact .of_words h rfl fun _ => rfl
    | column => exact .of_words h rfl fun _ => rfl
    | group => exact .of_words h rfl fun _ => rfl
    | virtualLinear => exact .of_words h (by funext l; rw [← Ctx.lanes_below]) fun _ => rfl
  case vPermXor d a b => exact .of_words h rfl fun _ => rfl
  case vPermRot d a b => exact .of_words h rfl fun _ => rfl
  case vPermBc d a b => exact .of_words h rfl fun _ => rfl
  case vPermIdx d a b => exact .of_words h rfl fun _ => rfl
  case lRdt d => exact .of_words h rfl fun _ => rfl
  case lRd d => exact .of_words h rfl fun _ => rfl
  all_goals cases h

/-- An instruction with a type-free lane result that can issue goes on with the lanes set to it. -/
theorem exec_of_laneResult {s : State} (hr : Ready s c i) (h : laneResult c i = some (d, f, time)) :
    exec i s = .next (c.after i time c.s (c.writeLanes d f)) :=
  (setsLanes_of_laneResult h).exec_eq hr

end

end Sys2Proof.Machine

section
open Sys2Proof Sys2Proof.Machine

/-- Settles O25: the instruction's meaning sets the guarded lanes to the rule's values (`exec_of_laneResult`), and a write of
the guarded lanes of one register changes nothing else (`Ctx.writeLanes_only`). -/
theorem laneWords : Obligations.LaneWords := by
  intro s c i d f time hr hx
  have he := exec_of_laneResult hr hx
  exact ⟨he, fun ha => ⟨_, he, Ctx.writeLanes_only hr.1 i time d f ha⟩⟩

end
